-- ==== Sys2Proof/Word.lean ====
section
/-! DEFINITION. The plain words of the model: bytes, samples, leg and slot numbers, and a record of four like things. -/

namespace Sys2Proof

/-- One byte on the serial line (R1). -/
abbrev Byte := BitVec 8

/-- One signed 12-bit capture sample (R80). -/
abbrev Sample := BitVec 12

/-- Legs are numbered 0-3 (00_scope, Conventions). -/
abbrev LegId := Fin 4

/-- Profile slots are numbered 0-3 (06, introduction). -/
abbrev SlotId := Fin 4

/-- Four like things, one per leg or one per slot. -/
structure Quad (α : Type) where
  q0 : α
  q1 : α
  q2 : α
  q3 : α
deriving DecidableEq, Repr

/-- The thing numbered `i`. -/
def Quad.get {α : Type} (q : Quad α) (i : Fin 4) : α :=
  match i with
  | 0 => q.q0
  | 1 => q.q1
  | 2 => q.q2
  | 3 => q.q3

/-- The four things with the one numbered `i` replaced. -/
def Quad.set {α : Type} (q : Quad α) (i : Fin 4) (v : α) : Quad α :=
  match i with
  | 0 => { q with q0 := v }
  | 1 => { q with q1 := v }
  | 2 => { q with q2 := v }
  | 3 => { q with q3 := v }

/-- Four copies of one thing. -/
def Quad.all {α : Type} (v : α) : Quad α := ⟨v, v, v, v⟩

/-- The four things in ascending number. -/
def Quad.toList {α : Type} (q : Quad α) : List α := [q.q0, q.q1, q.q2, q.q3]

/-- Every leg, ascending. -/
def allLegs : List LegId := [0, 1, 2, 3]

end Sys2Proof
end

