-- ==== Sys2Proof/Syntax.lean ====
section
/-! DEFINITION. The commands of the block: one constructor for each row of spec/opcode_table.json, in the table's order.
An operand `after` is the number of 5 ns reference cycles that pass before the command is taken (log 2); a request carries
its TAG and its raw payload (R2, R201), so that every payload the line can carry is a form of it. An operand `samples` tells
what the capture input carries at the sample instants still to come that nothing has told yet, first to last; a command that begins
a sampling may tell nothing (R80, R82; log 15). -/

namespace Sys2Proof

/-- The commands. -/
inductive Instr where
  /-- R4: A byte arrives on the serial line and the receive assembler takes it in its HUNT, LENGTH or BODY state. -/
  | byteArrival (after : Nat) (b : Byte)
  /-- R5: 5 ms pass after the last byte taken of a frame with no next byte, and the frame is discarded for delay. -/
  | frameDelayExpiry
  /-- R8: A dispatched request whose KIND is not a request kind in use is refused with BAD_KIND. -/
  | unknownKind (after : Nat) (kind tag : Byte) (payload : List Byte)
  /-- R14: Returns the timebase, the temperature, the leg states, the queue occupancies and the three loss counts. -/
  | statusGet (after : Nat) (tag : Byte) (payload : List Byte)
  /-- R15: Places an OK reply in the reply slot and stops dispatch until that reply has been sent. -/
  | restart (after : Nat) (tag : Byte) (payload : List Byte)
  /-- R20: Unless a window is OPEN, closes the open burst records with CUT, loads the timebase and reconciles the window table. -/
  | timeSet (after : Nat) (tag : Byte) (payload : List Byte)
  /-- R19: Returns the timebase value at dispatch. -/
  | timeGet (after : Nat) (tag : Byte) (payload : List Byte)
  /-- R24: Checks a granted quiet window and enters it in the window table as PENDING, opening it at once if its start is now. -/
  | windowGrant (after : Nat) (tag : Byte) (payload : List Byte)
  /-- R28: Silently removes a PENDING window, or closes an OPEN window as revoked. -/
  | windowRevoke (after : Nat) (tag : Byte) (payload : List Byte)
  /-- R30: Returns the timebase value and the whole window table. -/
  | windowList (after : Nat) (tag : Byte) (payload : List Byte)
  /-- R26: The timebase reaches a PENDING window's start; the window becomes OPEN and the sweep sequencer and ingress monitor are informed. -/
  | windowOpen
  /-- R27: The timebase reaches the OPEN window's end; the window leaves the table, WINDOW_CLOSED is posted and an adjacent window opens in the same event. -/
  | windowClose
  /-- R42: Checks and writes all the settings of an OFF leg, and resets Q_cal to Q_nom and T_cal to the current temperature reading. -/
  | legSet (after : Nat) (tag : Byte) (payload : List Byte)
  /-- R45: Makes an OFF leg with settings, or a FAULTED leg, ENABLED, with its start level, fault counter 0 and settle countdown 500. -/
  | legEnable (after : Nat) (tag : Byte) (payload : List Byte)
  /-- R46: Makes a leg OFF and tears down its sweeps, acquisition, survey, burst record, pairing and detectors. -/
  | legDisable (after : Nat) (tag : Byte) (payload : List Byte)
  /-- R47: Returns the leg's state, its live fields and, if it has settings, its settings, band tests, Q_cal and T_cal. -/
  | legGet (after : Nat) (tag : Byte) (payload : List Byte)
  /-- R36: Writes the stored classes of a bin range and the class-map limit, and informs the sweep sequencer and the ingress monitor. -/
  | classSet (after : Nat) (tag : Byte) (payload : List Byte)
  /-- R38: Returns the class-map limit and the 64 stored bin classes. -/
  | classGet (after : Nat) (tag : Byte) (payload : List Byte)
  /-- R54: Checks a sweep order, adds a QUEUED record to the sweep queue and reserves its profile slot as HELD. -/
  | sweepReq (after : Nat) (tag : Byte) (payload : List Byte)
  /-- R66: Ends the named sweep with outcome CANCELLED, in whatever state it stands. -/
  | sweepCancel (after : Nat) (tag : Byte) (payload : List Byte)
  /-- R69: Returns the timebase value, the sweep queue and the acquisition in flight. -/
  | sweepList (after : Nat) (tag : Byte) (payload : List Byte)
  /-- R78: The settle ends 2,000 ns after the acquisition's start; the transmit gate is judged, the coded burst is sent and sampling begins. -/
  | burstPhase (samples : List Sample := [])
  /-- R78: The burst's L chips end; the probe output is muted while sampling goes on. -/
  | listenPhase (samples : List Sample)
  /-- R60: T_acq after its start the acquisition's capture half completes and goes FULL, and the choice of the next acquisition is made again. -/
  | acquisitionEnd (samples : List Sample)
  /-- R82: 2,000 ns after a snapshot's grant, sampling of the leg with the probe silent begins. -/
  | snapshotSettleEnd (samples : List Sample := [])
  /-- R82: T_snap after its grant the snapshot's half goes FULL, and the ingress monitor, the sweep sequencer and the grant decision are told. -/
  | snapshotComplete (samples : List Sample)
  /-- R91: The cross-correlation of an acquisition half completes; its profile is added into the sweep's slot and done rises, or the result is discarded. -/
  | acquisitionJobComplete (after : Nat)
  /-- R93: The autocorrelation of a snapshot half completes; the lag profile is written into the lag slot, or the result is discarded. -/
  | snapshotJobComplete (after : Nat)
  /-- R103: The analysis completes; a clipped sweep ends DONE_CLIPPED, otherwise the REFINE batch goes to the divider or reconciliation begins. -/
  | analysisComplete (after : Nat) (slot : SlotId)
  /-- R111: 180 ns after its start a division job completes, or 40 ns after with OVERFLOW, and its result is handed to its owner. -/
  | divisionComplete
  /-- R105: Returns one page of 256 trimmed amplitudes of a READY profile slot. -/
  | profileRead (after : Nat) (tag : Byte) (payload : List Byte)
  /-- R106: Returns the peak list and distance basis of a READY profile slot. -/
  | peaksRead (after : Nat) (tag : Byte) (payload : List Byte)
  /-- R131: Adds or replaces an element of a leg's span map, settles the anchor, invalidates nearby strays and raises the map revision. -/
  | elementPut (after : Nat) (tag : Byte) (payload : List Byte)
  /-- R137: Removes an element from a leg's list and raises the map revision. -/
  | elementDrop (after : Nat) (tag : Byte) (payload : List Byte)
  /-- R138: Removes every element of a leg's list and raises the map revision. -/
  | mapClear (after : Nat) (tag : Byte) (payload : List Byte)
  /-- R140: Returns one page of up to 16 element records of a leg's list, with its map revision. -/
  | mapRead (after : Nat) (tag : Byte) (payload : List Byte)
  /-- R141: Sets to 0 the ingress score of one element, or of every element of a leg. -/
  | scoreClear (after : Nat) (tag : Byte) (payload : List Byte)
  /-- R175: Returns one page of a leg's valid stray entries in ascending latest distance, with its counts. -/
  | strayList (after : Nat) (tag : Byte) (payload : List Byte)
  /-- R176: Invalidates one cell's stray entry, or all of a leg's entries, optionally including CONFIRMED ones. -/
  | strayClear (after : Nat) (tag : Byte) (payload : List Byte)
  /-- R181: Replaces a leg's five ingress settings. -/
  | ingressSet (after : Nat) (tag : Byte) (payload : List Byte)
  /-- R193: Opens a survey that accumulates per-bin level statistics on the leg. -/
  | surveyOpen (after : Nat) (tag : Byte) (payload : List Byte)
  /-- R194: Closes the leg's open survey and latches its result. -/
  | surveyClose (after : Nat) (tag : Byte) (payload : List Byte)
  /-- R194: Returns the leg's latched survey result and the state of any open survey. -/
  | surveyRead (after : Nat) (tag : Byte) (payload : List Byte)
  /-- R191: Removes up to the requested number of the oldest records from the ingress log and returns them. -/
  | logTake (after : Nat) (tag : Byte) (payload : List Byte)
  /-- R192: Returns a leg's ingress settings, per-bin watch state, open burst record and open survey. -/
  | watchGet (after : Nat) (tag : Byte) (payload : List Byte)
  /-- R180: Every 1 ms each active leg either counts down its settle countdown or takes a reading scan. -/
  | ingressScan (leg : LegId) (levels : List Int)
  /-- R120: Every 1 s the temperature sensor completes a conversion and the temperature reading is replaced, clamped to −40..+85. -/
  | temperatureConversion (sensor : Int)
  /-- R12: The transmitter ends a frame and takes the waiting reply, the oldest report, or goes IDLE. -/
  | frameSent
  /-- R16: Once supply and reference are stable the part leaves reset with cause POWER. -/
  | powerUp
deriving DecidableEq, Repr

end Sys2Proof
end

