-- ==== Sys2Proof/Decode.lean ====
section
/-! DEFINITION. The commands that a word spells by the bits of spec/opcode_table.json. The table gives no row any bits: a
command reaches the block over its line, its supply or its own clock, never as an encoded word (log 21). -/

namespace Sys2Proof

/-- No row of the table has bits, so no word spells a command (log 21). -/
def decodeTableWord (_nbits _w : Nat) : Option Instr := none

end Sys2Proof
end

