-- ==== Sys2Proof/Config.lean ====
section
/-! DEFINITION. What the manual leaves open as an order, as constants without a body: nothing can be proved of their values. -/

namespace Sys2Proof

/-- R10, R37, R46: which of several blocks that act at the same moment acts next, as a number the step reduces to the number
of blocks still to act; the argument is the State counter `draws`. Log 7. -/
opaque Config.nextBlock : Nat → Nat

/-- R12: whether the reply goes before the reports of the same moment when the transmitter is IDLE; the argument is the
State counter `draws`. Log 8. -/
opaque Config.replyFirst : Nat → Bool

/-- R80, R82: what the capture input carries at a sample instant that passes before any command has told its value; the argument
is the instant on the reference clock. Log 15. -/
opaque Config.captureInput : Nat → Sample

end Sys2Proof
end

