-- ==== Sys2Proof/Machine/State.lean ====
section
/-! DEFINITION. Every piece of state the manual gives the part, block by block (00_scope, Blocks), as plain data, with the
values after reset. Numbers are Nat or Int where the manual counts or measures; bytes, samples and the CRC are bit vectors. -/

namespace Sys2Proof.Machine

open Sys2Proof

/-! ### Names that stand for codes (R200) -/

/-- Status codes of replies (1.4). -/
inductive Status where
  | ok | badLength | badKind | badValue | busy | noRoom | notFound | excluded | late | overlap | legState | pending | duplicate
deriving DecidableEq, Repr

/-- Leg states (R44). -/
inductive LegState where
  | off | enabled | faulted
deriving DecidableEq, Repr

/-- Bin classes (3.1). -/
inductive BinClass where
  | free | scheduled | fixed
deriving DecidableEq, Repr

/-- Window states (R22). -/
inductive WindowState where
  | pending | opened
deriving DecidableEq, Repr

/-- Sweep states (R50). -/
inductive SweepState where
  | queued | acquiring | analysing
deriving DecidableEq, Repr

/-- The basis of an acquisition, naming the window for WINDOW (R56). -/
inductive Basis where
  | free
  | window (id : Nat)
deriving DecidableEq, Repr

/-- Sweep outcomes (4.8). -/
inductive SweepOutcome where
  | done | doneClipped | cancelled | excluded | legOff | legFaulted
deriving DecidableEq, Repr

/-- Element kinds (R130). -/
inductive ElementKind where
  | tap | split | eol
deriving DecidableEq, Repr

/-- Element condition states (R130). -/
inductive ElementState where
  | unbased | nominal | watch | faulty | missing
deriving DecidableEq, Repr

/-- Stray entry states (R165). -/
inductive StrayState where
  | candidate | confirmed
deriving DecidableEq, Repr

/-- Threshold modes (R181). -/
inductive IngressMode where
  | absolute | relative
deriving DecidableEq, Repr

/-- Detector states (R179). -/
inductive Detector where
  | quiet | burst
deriving DecidableEq, Repr

/-- Pairing outcomes, with PENDING while the pairing runs (R184). -/
inductive PairingOutcome where
  | pending | located | noEcho | outOfSpan | noAnchor | slotBusy | off | captureBusy
deriving DecidableEq, Repr

/-- The cause of a reset (R16). -/
inductive ResetCause where
  | power | restart
deriving DecidableEq, Repr

/-! ### Time -/

/-- The reference clock in 5 ns cycles since the part left reset, and the microsecond timebase (R18). -/
structure Time where
  clock    : Nat
  timebase : Nat
deriving DecidableEq, Repr

/-! ### Sweep records -/

/-- Sweep options (R50). -/
structure Options where
  round     : Bool
  baseline  : Bool
  calibrate : Bool
deriving DecidableEq, Repr

/-- Sweep flags (R50). -/
structure SweepFlags where
  clipped        : Bool
  calDone        : Bool
  calFailed      : Bool
  peaksTruncated : Bool
  range          : Bool
deriving DecidableEq, Repr

/-- No flag set. -/
def SweepFlags.none : SweepFlags := ⟨false, false, false, false, false⟩

/-- One sweep record (R50). -/
structure Sweep where
  id        : Nat
  leg       : LegId
  slot      : SlotId
  n         : Nat
  started   : Nat
  done      : Nat
  options   : Options
  state     : SweepState
  tAcq      : Nat
  levelUsed : Option Nat
  flags     : SweepFlags
deriving DecidableEq, Repr

/-- The acquisition in flight (R57, R69), with the reference clock at its start. -/
structure InFlight where
  sweepId    : Nat
  leg        : LegId
  basis      : Basis
  startTime  : Nat
  startClock : Nat
deriving DecidableEq, Repr

/-- The sweep sequencer (R51, R52, R57). -/
structure Sequencer where
  queue    : List Sweep
  nextId   : Nat
  inFlight : Option InFlight
deriving DecidableEq, Repr

/-! ### Ingress records -/

/-- A leg's ingress settings (R181). -/
structure IngressSettings where
  mode       : IngressMode
  onset      : Int
  margin     : Int
  hysteresis : Int
  pairing    : Bool
deriving DecidableEq, Repr

/-- A burst record (R184). `serial` is the model's own name for the record (log 14); it is never sent. -/
structure BurstRecord where
  serial    : Nat
  leg       : LegId
  startTime : Nat
  bins      : List Nat
  peakLevel : Int
  peakBin   : Nat
  scans     : Nat
  endTime   : Option Nat
  long      : Bool
  cut       : Bool
  outcome   : PairingOutcome
  echo      : Option Nat
  position  : Option Nat
  element   : Option Nat
deriving DecidableEq, Repr

/-- One bin of an open survey (R193). -/
structure SurveyBin where
  sum     : Int
  count   : Nat
  maximum : Option Int
deriving DecidableEq, Repr

/-- An open survey (R193). -/
structure Survey where
  bins     : List SurveyBin
  scans    : Nat
  openTime : Nat
deriving DecidableEq, Repr

/-- A latched survey result (R194): the mean and maximum of each bin with a count above 0. -/
structure SurveyResult where
  bins      : List (Option (Int × Int))
  scans     : Nat
  short     : Bool
  full      : Bool
  openTime  : Nat
  closeTime : Nat
deriving DecidableEq, Repr

/-- What the ingress monitor holds for one leg (R199). `acquired` says whether an acquisition of the leg was in progress since
its last scan (R179); `nextScan` is the clock of its next scan (R180). -/
structure IngressLeg where
  settings  : IngressSettings
  detectors : List Detector
  readings  : List (Option Int)
  record    : Option BurstRecord
  longHeld  : Bool
  survey    : Option Survey
  result    : Option SurveyResult
  acquired  : Bool
  nextScan  : Nat
deriving DecidableEq, Repr

/-- The running pairing (R195 to R198): its leg, the serial of its record, the record itself once it has closed, and the lag
peak once the search has found it. -/
structure Pairing where
  leg     : LegId
  serial  : Nat
  closed  : Option BurstRecord
  lagPeak : Option Nat
deriving DecidableEq, Repr

/-- The ingress monitor (R199). -/
structure Ingress where
  legs     : Quad IngressLeg
  log      : List BurstRecord
  discards : Nat
  pairing  : Option Pairing
  serial   : Nat
deriving DecidableEq, Repr

/-! ### The message line -/

/-- A frame's KIND, TAG and payload (R2). -/
structure Frame where
  kind    : Byte
  tag     : Byte
  payload : List Byte
deriving DecidableEq, Repr

/-- The reports of 1.4, each with the contents its chapter gives. -/
inductive Report where
  /-- R16. -/
  | hello (cause : ResetCause)
  /-- R65. -/
  | sweepEnd (id : Nat) (leg : LegId) (slot : SlotId) (outcome : SweepOutcome) (flags : SweepFlags)
      (started done peaks matched strays levelAfter endTime : Nat)
  /-- R155. -/
  | elementChange (leg : LegId) (element sweepId : Nat) (old new : ElementState) (distance missCount time : Nat)
      (amplitude baseline : Option Nat)
  /-- R169. -/
  | strayConfirmed (leg : LegId) (cell set way distance amplitude sightings firstSeen lastSeen : Nat)
  /-- R190. -/
  | burstEnd (record : BurstRecord)
  /-- R72. -/
  | legFault (leg : LegId) (faults level sweepId time : Nat)
  /-- R31. -/
  | windowMissed (id : Nat) (legs : Quad Bool) (start stop before after : Nat)
  /-- R31. -/
  | windowClosed (id : Nat) (legs : Quad Bool) (start stop closeTime made : Nat) (revoked : Bool)
deriving DecidableEq, Repr

/-- A byte taken from the line with its arrival time on the reference clock (1.3). -/
structure TimedByte where
  byte : Byte
  time : Nat
deriving DecidableEq, Repr

/-- The states of the receive assembler (1.3). -/
inductive AssemblerMode where
  | hunt | length | body
deriving DecidableEq, Repr

/-- The receive assembler (1.3). -/
structure Assembler where
  mode      : AssemblerMode
  syncTime  : Nat
  retained  : List TimedByte
  remainder : BitVec 16
deriving DecidableEq, Repr

/-- A reply as the reply slot holds it; `restart` marks the RESTART reply (R13). -/
structure ReplyFrame where
  frame   : Frame
  restart : Bool
deriving DecidableEq, Repr

/-- What the transmitter is SENDING, from which clock (R12). -/
structure Sending where
  frame      : Frame
  restart    : Bool
  startClock : Nat
deriving DecidableEq, Repr

/-- The message controller (R17). `tx` is none while the transmitter is IDLE. `hold` is the model's own mark, set only inside
one dispatch, that the reply of this moment goes before its reports (log 8). -/
structure Message where
  assembler   : Assembler
  requests    : List Frame
  slot        : Option ReplyFrame
  reports     : List Report
  tx          : Option Sending
  dispatching : Bool
  frameErrors : Nat
  reportsLost : Nat
  hold        : Bool
deriving DecidableEq, Repr

/-! ### Windows and the spectrum plan -/

/-- A window record (R22). -/
structure Window where
  id    : Nat
  start : Nat
  stop  : Nat
  legs  : Quad Bool
  state : WindowState
  made  : Nat
deriving DecidableEq, Repr

/-- The window scheduler's table and next-id (R22, R23). -/
structure Windows where
  table  : List Window
  nextId : Nat
deriving DecidableEq, Repr

/-- The spectrum plan (R34). -/
structure Plan where
  stored : List BinClass
  limit  : Nat
deriving DecidableEq, Repr

/-! ### Legs -/

/-- The settings of a leg (R41, L to Ct_dn), in the order of the settings block of R201. -/
structure Settings where
  codeLength   : Nat
  chipDivider  : Nat
  profileBins  : Nat
  blank        : Nat
  floor        : Nat
  carrier      : Nat
  startLevel   : Nat
  aLo          : Nat
  aHi          : Nat
  upStep       : Nat
  downStep     : Nat
  faultLimit   : Nat
  vfMilli      : Nat
  tolerance    : Nat
  missLimit    : Nat
  confirmCount : Nat
  ageLimit     : Nat
  trim         : Nat
  ctUp         : Nat
  ctDn         : Nat
deriving DecidableEq, Repr

/-- The leg record (R41); the has-settings mark is `settings.isSome`. -/
structure LegRecord where
  settings : Option Settings
  state    : LegState
  level    : Nat
  faults   : Nat
  settle   : Nat
deriving DecidableEq, Repr

/-! ### Probe and capture -/

/-- The phases of the probe generator (R78). -/
inductive Phase where
  | idle | settle | burst | listen
deriving DecidableEq, Repr

/-- The probe generator (R88): phase, transmit gate, carrier bin of the synthesiser, and the stages of the code register,
stage 1 first (R74). -/
structure Probe where
  phase   : Phase
  gate    : Bool
  carrier : Option Nat
  code    : List Bool
deriving DecidableEq, Repr

/-- The states of a capture half (R83). -/
inductive HalfState where
  | free | filling | full | correlating
deriving DecidableEq, Repr

/-- The owner of a capture half (R83). -/
inductive Owner where
  | acquisition (sweepId : Nat) (leg : LegId) (l k : Nat)
  | snapshot (leg : LegId) (k : Nat)
deriving DecidableEq, Repr

/-- A capture half (R83). `fillOrder` is the instant on the reference clock at which the half went FULL; `turn` is the model's own
ordinal of that event, which orders two halves that a queue lets go FULL at one instant (log 13). -/
structure Half where
  state     : HalfState
  owner     : Option Owner
  void      : Bool
  clip      : Bool
  fillOrder : Option Nat
  turn      : Nat
  samples   : List Sample
deriving DecidableEq, Repr

/-- The stream the capture unit is filling (R83). -/
inductive Stream where
  | none | acquisition | snapshot
deriving DecidableEq, Repr

/-- Which capture half. -/
inductive HalfId where
  | h0 | h1
deriving DecidableEq, Repr

/-- The samples still to be taken of the stream that fills (R80, R82): the clock of the next sample instant, the cycles from one
instant to the next, the number still to take, and what the capture input will carry at them, as far as commands have told it
(log 15). -/
structure Sampling where
  next   : Nat
  period : Nat
  left   : Nat
  input  : List Sample
deriving DecidableEq, Repr

/-- The capture unit (R83, R88): `sampling` is none while no sampling has begun; `position` is the next position to write;
`snapStart` is the clock of the snapshot's grant; `fills` counts the halves that have gone FULL (log 13). -/
structure Capture where
  half0     : Half
  half1     : Half
  stream    : Stream
  waiting   : Option LegId
  coupler   : Option LegId
  position  : Nat
  snapStart : Nat
  sampling  : Option Sampling
  fills     : Nat
deriving DecidableEq, Repr

/-- The correlator's job in hand: the half and the clock of the take (R89). -/
structure CorJob where
  half    : HalfId
  takenAt : Nat
deriving DecidableEq, Repr

/-- The correlator, IDLE when it has no job (R89). -/
structure Correlator where
  job : Option CorJob
deriving DecidableEq, Repr

/-! ### The profile store -/

/-- A peak record (R102). -/
structure Peak where
  k         : Nat
  amplitude : Nat
  f         : Option Int
  t16       : Option Nat
  distance  : Option Nat
  element   : Option Nat
  range     : Bool
deriving DecidableEq, Repr

/-- The states of a profile slot (R95). -/
inductive SlotState where
  | free | held | filling | analysing | ready
deriving DecidableEq, Repr

/-- The content of a profile slot (R94). `analysisStart` is the clock at which its analysis began (R97). -/
structure SlotContent where
  leg           : LegId
  sweepId       : Nat
  n             : Nat
  options       : Options
  k             : Nat
  acc           : Option (List Nat)
  analysisStart : Option Nat
  profile       : Option (List Nat)
  peaks         : Option (List Peak)
  flags         : Option SweepFlags
  completion    : Option Nat
  temperature   : Option Int
  qEff          : Option Nat
deriving DecidableEq, Repr

/-- A profile slot (R94, R95). -/
structure Slot where
  state   : SlotState
  content : Option SlotContent
deriving DecidableEq, Repr

/-- The states of the lag slot (R104). -/
inductive LagState where
  | free | capturing | correlating | refining
deriving DecidableEq, Repr

/-- The lag slot (R104). -/
structure LagSlot where
  state   : LagState
  leg     : Option LegId
  k       : Option Nat
  profile : Option (List Nat)
deriving DecidableEq, Repr

/-- The profile store (R107). -/
structure Profiles where
  slots : Quad Slot
  lag   : LagSlot
deriving DecidableEq, Repr

/-! ### The divider and the span arithmetic -/

/-- The kind and owner of a division job (R108); a CAL job carries the anchor's id and distance. -/
inductive JobOwner where
  | refineSweep (sweepId k : Nat)
  | refinePairing (leg : LegId)
  | cal (sweepId anchorId anchorDistance : Nat)
deriving DecidableEq, Repr

/-- A division job (R108). -/
structure Job where
  owner    : JobOwner
  dividend : Nat
  divisor  : Nat
  round    : Bool
  batch    : Nat
  last     : Bool
deriving DecidableEq, Repr

/-- The job the divider is running and the clock of its start (R111). -/
structure Running where
  job        : Job
  startClock : Nat
deriving DecidableEq, Repr

/-- The divider (R127): queue, waiting list of batches, the running job; `batches` names the next batch (log 14). -/
structure Divider where
  queue   : List Job
  waiting : List (List Job)
  running : Option Running
  batches : Nat
deriving DecidableEq, Repr

/-- A leg's Q_cal and T_cal (R119). -/
structure Cal where
  q : Nat
  t : Int
deriving DecidableEq, Repr

/-- The span arithmetic (R128). -/
structure Arith where
  temperature    : Int
  nextConversion : Nat
  cal            : Quad (Option Cal)
deriving DecidableEq, Repr

/-! ### The span map and the stray table -/

/-- An element record (R130). -/
structure Element where
  id        : Nat
  kind      : ElementKind
  anchor    : Bool
  nominal   : Nat
  measured  : Option Nat
  amplitude : Option Nat
  baseline  : Option Nat
  state     : ElementState
  misses    : Nat
  score     : Nat
  lastSeen  : Option Nat
deriving DecidableEq, Repr

/-- One leg's element list and map revision (R129, R136). -/
structure LegMap where
  elements : List Element
  revision : Nat
deriving DecidableEq, Repr

/-- A stray entry (R165). -/
structure StrayEntry where
  valid     : Bool
  leg       : LegId
  cell      : Nat
  distance  : Nat
  amplitude : Nat
  sightings : Nat
  firstSeen : Nat
  lastSeen  : Nat
  age       : Nat
  state     : StrayState
deriving DecidableEq, Repr

/-- A set of the stray table: four ways and three replacement bits (R164, R166). -/
structure StraySet where
  ways    : Quad StrayEntry
  pairBit : Bool
  lowBit  : Bool
  highBit : Bool
deriving DecidableEq, Repr

/-- The stray table: sixteen sets and the stray-drop count of each leg (R164, R172). -/
structure Strays where
  sets  : List StraySet
  drops : Quad Nat
deriving DecidableEq, Repr

/-! ### The whole part -/

/-- The state of the part, block by block. -/
structure State where
  pending : List Instr
  draws   : Nat
  inReset : Bool
  time    : Time
  msg     : Message
  win     : Windows
  plan    : Plan
  legs    : Quad LegRecord
  seq     : Sequencer
  probe   : Probe
  cap     : Capture
  cor     : Correlator
  prof    : Profiles
  div     : Divider
  arith   : Arith
  map     : Quad LegMap
  stray   : Strays
  ing     : Ingress
deriving DecidableEq, Repr

/-- The part raises no fault: every command has an effect or leaves the state as it is (INVENTORY, Faults). -/
inductive Fault where
deriving DecidableEq, Repr

/-- Why a command has no meaning. -/
inductive Refusal where
  /-- Raised by exec alone, for a row that has no meaning yet; safe: the machine stops. No arm raises it. -/
  | notModelled (mnemonic : String)
deriving DecidableEq, Repr

/-! ### The values after reset -/

/-- R17; the CRC remainder starts at 0xFFFF (R3, log 9). -/
def Assembler.reset : Assembler := ⟨.hunt, 0, [], 0xFFFF⟩

/-- R17. -/
def Message.reset : Message := ⟨.reset, [], none, [], none, true, 0, 0, false⟩

/-- R48. -/
def LegRecord.reset : LegRecord := ⟨none, .off, 0, 0, 0⟩

/-- R88; the samples are log 9. -/
def Half.reset : Half := ⟨.free, none, false, false, none, 0, List.replicate 2048 0⟩

/-- R88. -/
def Capture.reset : Capture := ⟨.reset, .reset, .none, none, none, 0, 0, none, 0⟩

/-- R107. -/
def Slot.reset : Slot := ⟨.free, none⟩

/-- R107. -/
def LagSlot.reset : LagSlot := ⟨.free, none, none, none⟩

/-- R178; the fields besides `valid` are log 9. -/
def StrayEntry.reset : StrayEntry := ⟨false, 0, 0, 0, 0, 0, 0, 0, 0, .candidate⟩

/-- R178. -/
def StraySet.reset : StraySet := ⟨Quad.all .reset, false, false, false⟩

/-- The defaults of R181. -/
def IngressSettings.default : IngressSettings := ⟨.absolute, -80, 40, 12, true⟩

/-- R199; the first scan falls 1 ms after the part leaves reset (R180), which is 200,000 cycles. -/
def IngressLeg.reset : IngressLeg :=
  ⟨.default, List.replicate 64 .quiet, List.replicate 64 none, none, false, none, none, false, 200000⟩

/-- The part in reset, every piece of state at its value after reset; the first conversion completes 1 s after the part
leaves reset (R120), which is 200,000,000 cycles. -/
def State.reset : State where
  pending := []
  draws   := 0
  inReset := true
  time    := ⟨0, 0⟩
  msg     := .reset
  win     := ⟨[], 1⟩
  plan    := ⟨List.replicate 64 .fixed, 0⟩
  legs    := Quad.all .reset
  seq     := ⟨[], 1, none⟩
  probe   := ⟨.idle, false, none, []⟩
  cap     := .reset
  cor     := ⟨none⟩
  prof    := ⟨Quad.all .reset, .reset⟩
  div     := ⟨[], [], none, 0⟩
  arith   := ⟨25, 200000000, Quad.all none⟩
  map     := Quad.all ⟨[], 0⟩
  stray   := ⟨List.replicate 16 .reset, Quad.all 0⟩
  ing     := ⟨Quad.all .reset, [], 0, none, 0⟩

/-! ### One update for each block, the only way the operations change State -/

/-- `s` with `pending` replaced. -/
def State.setPending (s : State) (v : List Instr) : State := { s with pending := v }

/-- `s` with `draws` replaced. -/
def State.setDraws (s : State) (v : Nat) : State := { s with draws := v }

/-- `s` with `inReset` replaced. -/
def State.setInReset (s : State) (v : Bool) : State := { s with inReset := v }

/-- `s` with `time` replaced. -/
def State.setTime (s : State) (v : Time) : State := { s with time := v }

/-- `s` with `msg` replaced. -/
def State.setMsg (s : State) (v : Message) : State := { s with msg := v }

/-- `s` with `win` replaced. -/
def State.setWin (s : State) (v : Windows) : State := { s with win := v }

/-- `s` with `plan` replaced. -/
def State.setPlan (s : State) (v : Plan) : State := { s with plan := v }

/-- `s` with `legs` replaced. -/
def State.setLegs (s : State) (v : Quad LegRecord) : State := { s with legs := v }

/-- `s` with `seq` replaced. -/
def State.setSeq (s : State) (v : Sequencer) : State := { s with seq := v }

/-- `s` with `probe` replaced. -/
def State.setProbe (s : State) (v : Probe) : State := { s with probe := v }

/-- `s` with `cap` replaced. -/
def State.setCap (s : State) (v : Capture) : State := { s with cap := v }

/-- `s` with `cor` replaced. -/
def State.setCor (s : State) (v : Correlator) : State := { s with cor := v }

/-- `s` with `prof` replaced. -/
def State.setProf (s : State) (v : Profiles) : State := { s with prof := v }

/-- `s` with `div` replaced. -/
def State.setDiv (s : State) (v : Divider) : State := { s with div := v }

/-- `s` with `arith` replaced. -/
def State.setArith (s : State) (v : Arith) : State := { s with arith := v }

/-- `s` with `map` replaced. -/
def State.setMap (s : State) (v : Quad LegMap) : State := { s with map := v }

/-- `s` with `stray` replaced. -/
def State.setStray (s : State) (v : Strays) : State := { s with stray := v }

/-- `s` with `ing` replaced. -/
def State.setIng (s : State) (v : Ingress) : State := { s with ing := v }

end Sys2Proof.Machine
end

