-- ==== Sys2Proof/Machine/Flags.lean ====
section
/-! DEFINITION. The bit sets, presence bytes, marks and codes of R200 and R202, in both directions. -/

namespace Sys2Proof.Machine

open Sys2Proof

/-- The number whose bit `i` is the `i`-th of the list (R200, bit set). -/
def bitsOf : List Bool → Nat
  | [] => 0
  | b :: bs => (if b then 1 else 0) + 2 * bitsOf bs

/-- Bit `i` of a bit set. -/
def bitAt (v i : Nat) : Bool := v / 2 ^ i % 2 == 1

/-- Leg set as a bit set (R200). -/
def legSetBits (q : Quad Bool) : Nat := bitsOf q.toList

/-- The leg set a byte names (R200); bits above leg 3 are judged by R24. -/
def legSetOf (v : Nat) : Quad Bool := ⟨bitAt v 0, bitAt v 1, bitAt v 2, bitAt v 3⟩

/-- Sweep options as a bit set (R200). -/
def Options.bits (o : Options) : Nat := bitsOf [o.round, o.baseline, o.calibrate]

/-- The sweep options a byte names (R200). -/
def optionsOf (v : Nat) : Options := ⟨bitAt v 0, bitAt v 1, bitAt v 2⟩

/-- Sweep flags as a bit set (R200). -/
def SweepFlags.bits (f : SweepFlags) : Nat :=
  bitsOf [f.clipped, f.calDone, f.calFailed, f.peaksTruncated, f.range]

/-- The mark byte of a peak record (R202). -/
def Peak.mark (p : Peak) : Nat :=
  bitsOf [p.f.isSome && p.t16.isSome, p.distance.isSome, p.element.isSome, p.range]

/-- The presence byte of an element record (R202). -/
def Element.presence (e : Element) : Nat :=
  bitsOf [e.measured.isSome, e.amplitude.isSome, e.baseline.isSome, e.lastSeen.isSome]

/-- The flags byte of a burst record (R200). -/
def BurstRecord.flags (r : BurstRecord) : Nat := bitsOf [r.long, r.cut]

/-- The presence byte of a burst record (R202). -/
def BurstRecord.presence (r : BurstRecord) : Nat :=
  bitsOf [r.echo.isSome, r.position.isSome, r.element.isSome]

/-- The flags byte of a survey result (R200). -/
def SurveyResult.flags (r : SurveyResult) : Nat := bitsOf [r.short, r.full]

/-- The replacement bits of a set (R200). -/
def StraySet.bits (t : StraySet) : Nat := bitsOf [t.pairBit, t.lowBit, t.highBit]

/-- 1.4. -/
def Status.code : Status → Nat
  | .ok => 0
  | .badLength => 1
  | .badKind => 2
  | .badValue => 3
  | .busy => 4
  | .noRoom => 5
  | .notFound => 6
  | .excluded => 7
  | .late => 8
  | .overlap => 9
  | .legState => 10
  | .pending => 11
  | .duplicate => 12

/-- R200. -/
def LegState.code : LegState → Nat
  | .off => 0
  | .enabled => 1
  | .faulted => 2

/-- R200. -/
def BinClass.code : BinClass → Nat
  | .free => 0
  | .scheduled => 1
  | .fixed => 2

/-- The class a code names, if any (R200, R201). -/
def binClassOf : Nat → Option BinClass
  | 0 => some .free
  | 1 => some .scheduled
  | 2 => some .fixed
  | _ => none

/-- R200. -/
def WindowState.code : WindowState → Nat
  | .pending => 0
  | .opened => 1

/-- R200. -/
def SweepState.code : SweepState → Nat
  | .queued => 0
  | .acquiring => 1
  | .analysing => 2

/-- R200. -/
def Basis.code : Basis → Nat
  | .free => 0
  | .window _ => 1

/-- R200. -/
def SweepOutcome.code : SweepOutcome → Nat
  | .done => 0
  | .doneClipped => 1
  | .cancelled => 2
  | .excluded => 3
  | .legOff => 4
  | .legFaulted => 5

/-- R200. -/
def ElementKind.code : ElementKind → Nat
  | .tap => 0
  | .split => 1
  | .eol => 2

/-- The kind a code names, if any (R200, R201). -/
def elementKindOf : Nat → Option ElementKind
  | 0 => some .tap
  | 1 => some .split
  | 2 => some .eol
  | _ => none

/-- R200. -/
def ElementState.code : ElementState → Nat
  | .unbased => 0
  | .nominal => 1
  | .watch => 2
  | .faulty => 3
  | .missing => 4

/-- R200. -/
def StrayState.code : StrayState → Nat
  | .candidate => 0
  | .confirmed => 1

/-- R200. -/
def IngressMode.code : IngressMode → Nat
  | .absolute => 0
  | .relative => 1

/-- The mode a code names, if any (R200, R201). -/
def ingressModeOf : Nat → Option IngressMode
  | 0 => some .absolute
  | 1 => some .relative
  | _ => none

/-- The yes/no a byte names, if any (R200, R201). -/
def yesNoOf : Nat → Option Bool
  | 0 => some false
  | 1 => some true
  | _ => none

/-- The leg a byte names, if any. -/
def legOf (v : Nat) : Option LegId := if h : v < 4 then some ⟨v, h⟩ else none

/-- R200. -/
def PairingOutcome.code : PairingOutcome → Nat
  | .pending => 0
  | .located => 1
  | .noEcho => 2
  | .outOfSpan => 3
  | .noAnchor => 4
  | .slotBusy => 5
  | .off => 6
  | .captureBusy => 7

/-- R200. -/
def ResetCause.code : ResetCause → Nat
  | .power => 1
  | .restart => 2

end Sys2Proof.Machine
end

