-- ==== Sys2Proof/Machine/Layout.lean ====
section
/-! DEFINITION. The byte layouts of chapter 12: the forms of R200, the records inside payloads and the reports of R202, and
the frame of R2 with the CRC of R3. -/

namespace Sys2Proof.Machine

open Sys2Proof

/-- `v` in `n` bytes, least significant byte first (R200). -/
def le : Nat → Nat → List Byte
  | 0, _ => []
  | n + 1, v => BitVec.ofNat 8 v :: le n (v / 256)

/-- `v` in `n` bytes of two's complement, least significant byte first (R200). -/
def leSigned (n : Nat) (v : Int) : List Byte := le n (v % (256 ^ n : Nat)).toNat

/-- One byte. -/
def u8 (v : Nat) : List Byte := le 1 v

/-- yes/no (R200). -/
def yesNo (b : Bool) : List Byte := u8 (if b then 1 else 0)

/-- `n` bytes of zero, for what is absent (R200). -/
def zeros (n : Nat) : List Byte := List.replicate n 0

/-- An optional number in `n` bytes, zero when absent (R200). -/
def leOpt (n : Nat) (v : Option Nat) : List Byte := le n (v.getD 0)

/-- A bin set, 8 bytes: bin b is bit b mod 8 of byte b / 8 (R200). -/
def binSet (bins : List Nat) : List Byte :=
  le 8 (bitsOf ((List.range 64).map fun b => bins.contains b))

/-! ### Reading a field of a request -/

/-- The number whose bytes, least significant first, are the list (R200). -/
def unle : List Byte → Nat
  | [] => 0
  | b :: bs => b.toNat + 256 * unle bs

/-- The unsigned field of `n` bytes at offset `i` of a payload. -/
def field (p : List Byte) (i n : Nat) : Nat := unle ((p.drop i).take n)

/-- The two's complement field of `n` bytes at offset `i` of a payload. -/
def fieldSigned (p : List Byte) (i n : Nat) : Int :=
  let v := field p i n
  if 2 * v < 256 ^ n then (v : Int) else (v : Int) - (256 ^ n : Nat)

/-! ### The CRC and the frame -/

/-- One shift of the remainder (R3, step 3). -/
def crcShift (r : BitVec 16) : BitVec 16 :=
  if r.msb then (r <<< 1) ^^^ 0x1021 else r <<< 1

/-- The remainder after one more byte (R3, steps 2 and 3). -/
def crcByte (r : BitVec 16) (b : Byte) : BitVec 16 :=
  let r0 := r ^^^ (b.zeroExtend 16 <<< 8)
  crcShift (crcShift (crcShift (crcShift (crcShift (crcShift (crcShift (crcShift r0)))))))

/-- The CRC of a run of bytes (R3). -/
def crc (bs : List Byte) : BitVec 16 := bs.foldl crcByte 0xFFFF

/-- SYNC (R2). -/
def sync : Byte := 0xB6

/-- The bytes of a frame from the first byte of LENGTH to the end of the payload: what the CRC covers (R3). -/
def Frame.covered (f : Frame) : List Byte := le 2 (f.payload.length + 2) ++ [f.kind, f.tag] ++ f.payload

/-- The bytes of a frame in the order sent (R2). -/
def Frame.bytes (f : Frame) : List Byte := [sync] ++ f.covered ++ le 2 (crc f.covered).toNat

/-! ### The bits of the line (R1) -/

/-- The ten bits of a byte in the order they are on the line, true being high: the start bit, the data bits with the least
significant first, and the stop bit (R1). -/
def byteBits (b : Byte) : List Bool := [false] ++ (List.range 8).map (fun i => b.getLsbD i) ++ [true]

/-- The bits of a frame, its bytes back to back (R1). -/
def Frame.lineBits (f : Frame) : List Bool := f.bytes.flatMap byteBits

/-- The byte the receiver takes from ten bits of the line: its data bits as received, whatever its stop bit (R1). It is the operand of
BYTE_ARRIVAL. -/
def receivedByte (bits : List Bool) : Byte := BitVec.ofNat 8 (bitsOf ((bits.drop 1).take 8))

/-! ### Records inside payloads (R202) -/

/-- The leg settings block, 26 bytes (R201). -/
def Settings.layout (t : Settings) : List Byte :=
  le 2 t.codeLength ++ u8 t.chipDivider ++ le 2 t.profileBins ++ u8 t.blank ++ le 2 t.floor ++ u8 t.carrier
    ++ u8 t.startLevel ++ le 2 t.aLo ++ le 2 t.aHi ++ u8 t.upStep ++ u8 t.downStep ++ u8 t.faultLimit
    ++ le 2 t.vfMilli ++ u8 t.tolerance ++ u8 t.missLimit ++ u8 t.confirmCount ++ u8 t.ageLimit ++ u8 t.trim
    ++ u8 t.ctUp ++ u8 t.ctDn

/-- A window in WINDOW_LIST, 17 bytes. -/
def Window.layout (w : Window) : List Byte :=
  u8 w.id ++ le 6 w.start ++ le 6 w.stop ++ u8 (legSetBits w.legs) ++ u8 w.state.code ++ le 2 w.made

/-- A sweep record in SWEEP_LIST, 13 bytes. -/
def Sweep.layout (w : Sweep) : List Byte :=
  u8 w.id ++ u8 w.leg.val ++ u8 w.slot.val ++ u8 w.n ++ u8 w.started ++ u8 w.done ++ u8 w.options.bits
    ++ u8 w.state.code ++ le 2 w.tAcq ++ u8 (bitsOf [w.levelUsed.isSome]) ++ leOpt 1 w.levelUsed ++ u8 w.flags.bits

/-- The in-flight group of SWEEP_LIST, led by its yes/no byte, 12 bytes. -/
def inFlightLayout : Option InFlight → List Byte
  | none => yesNo false ++ zeros 11
  | some a =>
    yesNo true ++ u8 a.sweepId ++ u8 a.leg.val ++ u8 a.basis.code
      ++ (match a.basis with
          | .free => u8 0 ++ u8 0
          | .window id => u8 1 ++ u8 id)
      ++ le 6 a.startTime

/-- The slot header, 13 bytes. -/
def SlotContent.header (c : SlotContent) : List Byte :=
  u8 c.leg.val ++ u8 c.sweepId ++ u8 c.n ++ u8 c.options.bits ++ le 2 c.k ++ u8 (c.flags.getD .none).bits
    ++ leOpt 6 c.completion

/-- A peak record, 11 bytes. -/
def Peak.layout (p : Peak) : List Byte :=
  le 2 p.k ++ le 2 p.amplitude ++ u8 p.mark ++ leSigned 1 (p.f.getD 0) ++ leOpt 2 p.t16 ++ leOpt 2 p.distance
    ++ leOpt 1 p.element

/-- An element record, 21 bytes. -/
def Element.layout (e : Element) : List Byte :=
  u8 e.id ++ u8 e.kind.code ++ yesNo e.anchor ++ le 2 e.nominal ++ u8 e.state.code ++ u8 e.misses ++ u8 e.score
    ++ u8 e.presence ++ leOpt 2 e.measured ++ leOpt 2 e.amplitude ++ leOpt 2 e.baseline ++ leOpt 6 e.lastSeen

/-- A stray entry record, 24 bytes; the set and way say where it stands, `bits` are its set's replacement bits. -/
def StrayEntry.layout (set way bits : Nat) (e : StrayEntry) : List Byte :=
  u8 set ++ u8 way ++ le 2 e.cell ++ le 2 e.distance ++ le 2 e.amplitude ++ u8 e.sightings ++ u8 e.age
    ++ u8 e.state.code ++ le 6 e.firstSeen ++ le 6 e.lastSeen ++ u8 bits

/-- A burst record, 34 bytes. -/
def BurstRecord.layout (r : BurstRecord) : List Byte :=
  u8 r.leg.val ++ le 6 r.startTime ++ leOpt 6 r.endTime ++ binSet r.bins ++ leSigned 2 r.peakLevel ++ u8 r.peakBin
    ++ le 2 r.scans ++ u8 r.flags ++ u8 r.outcome.code ++ u8 r.presence ++ leOpt 2 r.echo ++ leOpt 2 r.position
    ++ leOpt 1 r.element

/-- The settings carried by INGRESS_SET's reply, 6 bytes. -/
def IngressSettings.layout (t : IngressSettings) : List Byte :=
  u8 t.mode.code ++ leSigned 2 t.onset ++ leSigned 1 t.margin ++ leSigned 1 t.hysteresis ++ yesNo t.pairing

/-- The bins of a survey result that have a mean. -/
def SurveyResult.present (r : SurveyResult) : List Nat :=
  (List.range 64).filter fun b => (r.bins.getD b none).isSome

/-- A survey result, 281 bytes. -/
def SurveyResult.layout (r : SurveyResult) : List Byte :=
  le 6 r.openTime ++ le 6 r.closeTime ++ le 4 r.scans ++ u8 r.flags ++ binSet r.present
    ++ (List.range 64).flatMap fun b =>
        match r.bins.getD b none with
        | none => zeros 4
        | some (mean, maximum) => leSigned 2 mean ++ leSigned 2 maximum

/-! ### Reports (1.4, R202) -/

/-- The kind of a report (1.4). -/
def Report.kind : Report → Byte
  | .hello .. => 0x60
  | .sweepEnd .. => 0x61
  | .elementChange .. => 0x62
  | .strayConfirmed .. => 0x63
  | .burstEnd .. => 0x64
  | .legFault .. => 0x65
  | .windowMissed .. => 0x66
  | .windowClosed .. => 0x67

/-- The payload of a report (R202). -/
def Report.payload : Report → List Byte
  | .hello cause => le 2 0x416 ++ u8 1 ++ u8 cause.code
  | .sweepEnd id leg slot outcome flags started done peaks matched strays levelAfter endTime =>
    u8 id ++ u8 leg.val ++ u8 slot.val ++ u8 outcome.code ++ u8 flags.bits ++ u8 started ++ u8 done ++ u8 peaks
      ++ u8 matched ++ u8 strays ++ u8 levelAfter ++ le 6 endTime
  | .elementChange leg element sweepId old new distance missCount time amplitude baseline =>
    u8 leg.val ++ u8 element ++ u8 sweepId ++ u8 old.code ++ u8 new.code ++ le 2 distance ++ u8 missCount ++ le 6 time
      ++ u8 (bitsOf [amplitude.isSome, baseline.isSome]) ++ leOpt 2 amplitude ++ leOpt 2 baseline
  | .strayConfirmed leg cell set way distance amplitude sightings firstSeen lastSeen =>
    u8 leg.val ++ le 2 cell ++ u8 set ++ u8 way ++ le 2 distance ++ le 2 amplitude ++ u8 sightings ++ le 6 firstSeen
      ++ le 6 lastSeen
  | .burstEnd record => record.layout
  | .legFault leg faults level sweepId time => u8 leg.val ++ u8 faults ++ u8 level ++ u8 sweepId ++ le 6 time
  | .windowMissed id legs start stop before after =>
    u8 id ++ u8 (legSetBits legs) ++ le 6 start ++ le 6 stop ++ le 6 before ++ le 6 after
  | .windowClosed id legs start stop closeTime made revoked =>
    u8 id ++ u8 (legSetBits legs) ++ le 6 start ++ le 6 stop ++ le 6 closeTime ++ le 2 made ++ yesNo revoked

/-- The frame of a report: its TAG is 0 (R2, R10). -/
def Report.frame (r : Report) : Frame := ⟨r.kind, 0, r.payload⟩

end Sys2Proof.Machine
end

