-- ==== Sys2Proof/Machine/Operands.lean ====
section
/-! DEFINITION. The operands of the requests: the lengths R201 allows and the fields each payload carries. -/

namespace Sys2Proof.Machine

open Sys2Proof

/-- Whether a payload's length is one that R201 allows for a request kind in use. -/
def lengthAllowed (kind : Byte) (p : List Byte) : Bool :=
  match kind.toNat with
  | 0x03 => p.length == 6
  | 0x08 => p.length == 11
  | 0x09 => p.length == 1
  | 0x10 => p.length == 27
  | 0x11 | 0x12 | 0x13 => p.length == 1
  | 0x14 => decide (2 ≤ p.length) && p.length == 3 + field p 1 1
  | 0x18 => p.length == 4
  | 0x19 => p.length == 1
  | 0x1B => p.length == 2
  | 0x1C => p.length == 1
  | 0x20 => p.length == 6
  | 0x21 => p.length == 2
  | 0x22 => p.length == 1
  | 0x23 => p.length == 2
  | 0x24 => p.length == 2
  | 0x28 => p.length == 2
  | 0x29 => p.length == 5
  | 0x2C => p.length == 7
  | 0x2D | 0x2E | 0x2F | 0x30 | 0x31 => p.length == 1
  | _ => p.isEmpty

/-- The request kinds in use (1.4). -/
def kindsInUse : List Nat :=
  [0x01, 0x02, 0x03, 0x04, 0x08, 0x09, 0x0A, 0x10, 0x11, 0x12, 0x13, 0x14, 0x15, 0x18, 0x19, 0x1A, 0x1B, 0x1C, 0x20,
   0x21, 0x22, 0x23, 0x24, 0x28, 0x29, 0x2C, 0x2D, 0x2E, 0x2F, 0x30, 0x31]

/-- The settings carried by LEG_SET after its leg byte (R201, the settings block). -/
def settingsOf (p : List Byte) : Settings where
  codeLength   := field p 1 2
  chipDivider  := field p 3 1
  profileBins  := field p 4 2
  blank        := field p 6 1
  floor        := field p 7 2
  carrier      := field p 9 1
  startLevel   := field p 10 1
  aLo          := field p 11 2
  aHi          := field p 13 2
  upStep       := field p 15 1
  downStep     := field p 16 1
  faultLimit   := field p 17 1
  vfMilli      := field p 18 2
  tolerance    := field p 20 1
  missLimit    := field p 21 1
  confirmCount := field p 22 1
  ageLimit     := field p 23 1
  trim         := field p 24 1
  ctUp         := field p 25 1
  ctDn         := field p 26 1

/-- The class codes of CLASS_SET, one per bin of the range (R35, R201). -/
def classesOf (p : List Byte) : List (Option BinClass) := (p.drop 3).map fun b => binClassOf b.toNat

end Sys2Proof.Machine
end

