-- ==== Sys2Proof/Machine/Stream.lean ====
section
/-! DEFINITION. What runs with the reference clock inside the probe generator and the capture unit: the code register (R74, R75)
and the taking of samples at their instants (R80 to R82). -/

namespace Sys2Proof.Machine

open Sys2Proof

/-! ### The probe code (R74) -/

/-- The number of stages of the code register (R74). -/
def codeStages (l : Nat) : Nat :=
  match l with
  | 63 => 6
  | 127 => 7
  | 255 => 8
  | _ => 9

/-- The stages summed for feedback, numbered from 1 (R74). -/
def codeTaps (l : Nat) : List Nat :=
  match l with
  | 63 => [6, 5]
  | 127 => [7, 6]
  | 255 => [8, 6, 5, 4]
  | _ => [9, 5]

/-- One step of the register, stage 1 first: every stage passes its value up and stage 1 takes the feedback (R74). -/
def codeStep (l : Nat) (stages : List Bool) : List Bool :=
  let feedback := (codeTaps l).foldl (fun v t => v != stages.getD (t - 1) false) false
  feedback :: stages.dropLast

/-- The register at the start of a burst: every stage holds 1 (R74). -/
def codeStart (l : Nat) : List Bool := List.replicate (codeStages l) true

/-- The chip a register gives: +1 when the last stage holds 1 and -1 when it holds 0 (R74). -/
def chipOf (stages : List Bool) : Int := if stages.getLastD false then 1 else -1

/-- `n` chips from a register (R74). -/
def chipsFrom (l : Nat) : Nat → List Bool → List Int
  | 0, _ => []
  | n + 1, stages => chipOf stages :: chipsFrom l n (codeStep l stages)

/-- The code of length `l` (R74). -/
def chips (l : Nat) : List Int := chipsFrom l l (codeStart l)

/-- The register after `n` steps (R74). -/
def codeAfter (l : Nat) : Nat → List Bool → List Bool
  | 0, stages => stages
  | n + 1, stages => codeAfter l n (codeStep l stages)

/-! ### Capture halves (R83) -/

/-- A half of the capture unit. -/
def Capture.half (c : Capture) : HalfId → Half
  | .h0 => c.half0
  | .h1 => c.half1

/-- The capture unit with a half replaced. -/
def Capture.setHalf (c : Capture) (h : HalfId) (v : Half) : Capture :=
  match h with
  | .h0 => { c with half0 := v }
  | .h1 => { c with half1 := v }

/-- The half in a state, half 0 first (R84). -/
def Capture.inState (c : Capture) (st : HalfState) : Option HalfId :=
  if c.half0.state = st then some .h0 else if c.half1.state = st then some .h1 else none

/-! ### Sampling (R80 to R82) -/

/-- Samples written at successive positions from `i` (R80, R82). -/
def writeSamples (i : Nat) (new old : List Sample) : List Sample :=
  old.take i ++ (new.take (old.length - i)) ++ old.drop (i + new.length)

/-- The stream writes its next samples into the FILLING half; an acquisition's sample at an end of the range sets the clip mark
(R80, R81, R82). -/
def Capture.write (new : List Sample) (c : Capture) : Capture :=
  match c.inState .filling with
  | none => c
  | some h =>
    let v := c.half h
    let clipped := c.stream == .acquisition && new.any fun x => x.toInt == -2048 || x.toInt == 2047
    { (c.setHalf h { v with samples := writeSamples c.position new v.samples, clip := v.clip || clipped }) with
      position := c.position + new.length }

/-- How many of the samples still to be taken have their instants at or before `clock` (R80, R82). The spec does not say whether a
sample whose instant is the very instant at which its stream is cut off (R85, R86) is written before the filling stops: that it is,
because it is counted here and time passes before the command acts, is the model's choice (log 30). -/
def Sampling.due (clock : Nat) (x : Sampling) : Nat :=
  if clock < x.next then 0
  else if x.period = 0 then x.left
  else min x.left ((clock - x.next) / x.period + 1)

/-- The first `n` samples from the instant `next` on: what the input is told to carry, and where nothing is told a free value
(log 15). -/
def sampleValues (period : Nat) : Nat → Nat → List Sample → List Sample
  | 0, _, _ => []
  | n + 1, next, [] => Config.captureInput next :: sampleValues period n (next + period) []
  | n + 1, next, x :: input => x :: sampleValues period n (next + period) input

/-- The sampling with its first `n` samples taken. -/
def Sampling.drop (n : Nat) (x : Sampling) : Sampling :=
  { x with next := x.next + n * x.period, left := x.left - n, input := x.input.drop n }

/-- A command tells what the capture input carries at the sample instants still to come that nothing has told yet
(log 15). -/
def Capture.tell (samples : List Sample) (c : Capture) : Capture :=
  { c with sampling := c.sampling.map fun x => { x with input := x.input ++ samples } }

/-- Every sample whose instant has come by `clock` has been taken and written (R80, R82). -/
def Capture.sampleTo (clock : Nat) (c : Capture) : Capture :=
  match c.sampling with
  | none => c
  | some x =>
    let n := x.due clock
    { c.write (sampleValues x.period n x.next x.input) with sampling := some (x.drop n) }

end Sys2Proof.Machine
end

