-- ==== Sys2Proof/Machine/Ops.lean ====
section
/-! DEFINITION. The operations the blocks share: time, the message controller's posting, lookups, the window and class
queries, and the free order of blocks that act at one moment. -/

namespace Sys2Proof.Machine

open Sys2Proof

/-! ### Time (R18) -/

/-- Reference cycles in one microsecond: 200 MHz (R18). -/
def cyclesPerMicro : Nat := 200

/-- `n` reference cycles pass: the timebase advances by one each microsecond and wraps at 48 bits (R18). -/
def Time.advance (n : Nat) (t : Time) : Time where
  clock    := t.clock + n
  timebase := (t.timebase + ((t.clock + n) / cyclesPerMicro - t.clock / cyclesPerMicro)) % 2 ^ 48

/-- The clock reaches `target`, or stays where it is when it is already there or past (log 2). -/
def Time.reach (target : Nat) (t : Time) : Time := t.advance (target - t.clock)

/-- The timebase reaches the value `v`, or stays where it is when it is already there or past (log 2). -/
def Time.reachTimebase (v : Nat) (t : Time) : Time :=
  if v ≤ t.timebase then t
  else t.reach ((t.clock / cyclesPerMicro + (v - t.timebase)) * cyclesPerMicro)

/-- A command of a part held in reset has no effect (R15, R16: nothing runs and no byte is taken; log 5). -/
def State.live (s : State) (t : State) : Host.Outcome State Fault Refusal := .next (if s.inReset then s else t)

/-! ### Counts -/

/-- A saturating count: one more, stopping at `max` (00_scope, Arithmetic). -/
def satSucc (max v : Nat) : Nat := min max (v + 1)

/-- clamp (00_scope, Arithmetic). -/
def clampInt (lo hi v : Int) : Int := max lo (min hi v)

/-- The difference of two distances, taken without sign. -/
def distanceBetween (a b : Nat) : Nat := (a - b) + (b - a)

/-! ### The message controller (R10 to R12) -/

/-- The transmitter, when IDLE, takes the waiting reply, otherwise the oldest report (R12). -/
def Message.kick (clock : Nat) (m : Message) : Message :=
  match m.tx with
  | some _ => m
  | none =>
    if m.hold then m
    else
      match m.slot with
      | some r => { m with slot := none, tx := some ⟨r.frame, r.restart, clock⟩ }
      | none =>
        match m.reports with
        | [] => m
        | r :: rs => { m with reports := rs, tx := some ⟨r.frame, false, clock⟩ }

/-- Posting a report: it joins the tail of a queue of 32, or is dropped and counted (R10); an IDLE transmitter takes it at
once (R12). -/
def Message.post (clock : Nat) (r : Report) (m : Message) : Message :=
  if 32 ≤ m.reports.length then { m with reportsLost := satSucc 65535 m.reportsLost }
  else Message.kick clock { m with reports := m.reports ++ [r] }

/-- A block posts a report (R10). -/
def post (r : Report) (s : State) : State := s.setMsg (s.msg.post s.time.clock r)

/-! ### Replies (R9, R202) -/

/-- A reply before it is framed: its status, its fields, and whether it is the RESTART reply (R13). -/
structure Reply where
  status  : Status
  fields  : List Byte
  restart : Bool
deriving DecidableEq, Repr

/-- A reply with status OK. -/
def okReply (fields : List Byte) : Reply := ⟨.ok, fields, false⟩

/-- A refusal: the status byte alone (R202). -/
def refuse (st : Status) : Reply := ⟨st, [], false⟩

/-- The frame of a reply: kind plus 0x80 modulo 256, the TAG unchanged (R9). -/
def Reply.frame (kind tag : Byte) (r : Reply) : Frame := ⟨kind + 0x80, tag, u8 r.status.code ++ r.fields⟩

/-! ### The spectrum plan's answers (R34, R39, R40) -/

/-- The effective class of a bin (R34). -/
def Plan.effective (p : Plan) (b : Nat) : BinClass := if b < p.limit then p.stored.getD b .fixed else .fixed

/-- The half-width of the probe band, ceil(32 / D) (R39). -/
def Settings.halfWidth (t : Settings) : Nat := (32 + t.chipDivider - 1) / t.chipDivider

/-- The lowest bin of the probe band (R39). -/
def Settings.bandLow (t : Settings) : Nat := t.carrier - t.halfWidth

/-- The highest bin of the probe band (R39). -/
def Settings.bandHigh (t : Settings) : Nat := t.carrier + t.halfWidth

/-- Whether a bin lies in the probe band. -/
def Settings.inBand (t : Settings) (b : Nat) : Bool := decide (t.bandLow ≤ b) && decide (b ≤ t.bandHigh)

/-- The bins of the probe band, n - h to n + h (R39). -/
def Settings.bandBins (t : Settings) : List Nat := (List.range (2 * t.halfWidth + 1)).map (t.bandLow + ·)

/-- No bin of the band is effectively FIXED (R40). -/
def Plan.admissible (p : Plan) (t : Settings) : Bool := t.bandBins.all fun b => p.effective b != .fixed

/-- Every bin of the band is effectively FREE (R40). -/
def Plan.windowFree (p : Plan) (t : Settings) : Bool := t.bandBins.all fun b => p.effective b == .free

/-! ### Lookups -/

/-- Settings for a leg that has none: all zero. No rule reads them, since every reader's leg has settings. -/
def Settings.none : Settings := ⟨0, 0, 0, 0, 0, 0, 0, 0, 0, 0, 0, 0, 0, 0, 0, 0, 0, 0, 0, 0⟩

/-- The leg record of a leg. -/
def State.leg (s : State) (g : LegId) : LegRecord := s.legs.get g

/-- The settings of a leg. -/
def State.legSettings (s : State) (g : LegId) : Settings := (s.leg g).settings.getD .none

/-- The leg record with a new value. -/
def State.setLeg (s : State) (g : LegId) (r : LegRecord) : State := s.setLegs (s.legs.set g r)

/-- Whether the leg's probe band is admissible under the map in force (R40). -/
def State.admissible (s : State) (g : LegId) : Bool := s.plan.admissible (s.legSettings g)

/-- Whether the leg's probe band is window-free under the map in force (R40). -/
def State.windowFree (s : State) (g : LegId) : Bool := s.plan.windowFree (s.legSettings g)

/-- The OPEN window, if any (R22, R32). -/
def State.openWindow (s : State) : Option Window := s.win.table.find? fun w => w.state == .opened

/-- Whether an OPEN window includes the leg (R32). -/
def State.windowOn (s : State) (g : LegId) : Bool :=
  match s.openWindow with
  | some w => w.legs.get g
  | none => false

/-- Whether the window named is OPEN. -/
def State.windowIsOpen (s : State) (id : Nat) : Bool :=
  match s.openWindow with
  | some w => w.id == id
  | none => false

/-- A bin is watched on a leg (R179). -/
def State.watched (s : State) (g : LegId) (b : Nat) : Bool :=
  match s.plan.effective b with
  | .free => true
  | .scheduled => s.windowOn g
  | .fixed => false

/-- The record of the sweep queue with an id. -/
def State.findSweep (s : State) (id : Nat) : Option Sweep := s.seq.queue.find? fun w => w.id == id

/-- The sweep queue with the record of an id rewritten in place. -/
def State.updateSweep (s : State) (id : Nat) (f : Sweep → Sweep) : State :=
  s.setSeq { s.seq with queue := s.seq.queue.map fun w => if w.id == id then f w else w }

/-- A profile slot. -/
def State.slot (s : State) (i : SlotId) : Slot := s.prof.slots.get i

/-- The profile slots with one replaced. -/
def State.setSlot (s : State) (i : SlotId) (v : Slot) : State :=
  s.setProf { s.prof with slots := s.prof.slots.set i v }

/-- The lag slot replaced. -/
def State.setLag (s : State) (v : LagSlot) : State := s.setProf { s.prof with lag := v }

/-- What the ingress monitor holds for a leg. -/
def State.ingLeg (s : State) (g : LegId) : IngressLeg := s.ing.legs.get g

/-- What the ingress monitor holds for a leg, replaced. -/
def State.setIngLeg (s : State) (g : LegId) (v : IngressLeg) : State :=
  s.setIng { s.ing with legs := s.ing.legs.set g v }

/-- A leg's element list. -/
def State.elements (s : State) (g : LegId) : List Element := (s.map.get g).elements

/-- A leg's element list replaced, its revision kept. -/
def State.setElements (s : State) (g : LegId) (es : List Element) : State :=
  s.setMap (s.map.set g { s.map.get g with elements := es })

/-- The leg's anchor: the element with the anchor flag set (R129). -/
def State.anchor (s : State) (g : LegId) : Option Element := (s.elements g).find? fun e => e.anchor

/-- The first id, counting upward from `next` and wrapping from 255 to 1, that is not used, within `fuel` tries (R23, R52). -/
def allocateId : Nat → Nat → List Nat → Nat
  | 0, next, _ => next
  | fuel + 1, next, used =>
    if used.contains next then allocateId fuel (if next == 255 then 1 else next + 1) used else next

/-- The id after an id (R23, R52). -/
def nextIdAfter (id : Nat) : Nat := if id == 255 then 1 else id + 1

/-! ### Time that passes (R18, R74, R80, R82) -/

/-- The clock at which the acquisition's burst begins: 2,000 ns after its start (R78). -/
def InFlight.burstStart (a : InFlight) : Nat := a.startClock + 400

/-- The code register at `clock`: in the BURST phase it has made one step at the end of each chip of 10·D ns, L at the most (R74,
R75); in every other phase it stands. -/
def State.codeAt (clock : Nat) (s : State) : List Bool :=
  match s.seq.inFlight, s.probe.phase with
  | some a, .burst =>
    let t := s.legSettings a.leg
    codeAfter t.codeLength (min t.codeLength ((clock - a.burstStart) / (2 * t.chipDivider))) (codeStart t.codeLength)
  | _, _ => s.probe.code

/-- The time becomes `t`, and what runs with the clock comes with it: the samples whose instants have come are taken (R80, R82) and
the code register has made its steps (R74). Every passing of time goes through here; a load of the timebase does not. -/
def State.passTo (t : Time) (s : State) : State :=
  ((s.setTime t).setCap (s.cap.sampleTo t.clock)).setProbe { s.probe with code := s.codeAt t.clock }

/-- `n` reference cycles pass before a command is taken (log 2). -/
def State.after (n : Nat) (s : State) : State := s.passTo (s.time.advance n)

/-- The clock of an event that a rule places at `target` (log 2). -/
def State.atClock (target : Nat) (s : State) : State := s.passTo (s.time.reach target)

/-- The end of work that began at clock `start`: after it began, no later than `limit` cycles after it, and otherwise when the
command says, `n` cycles from now (R89, R97; log 12). -/
def State.atEndOfWork (n start limit : Nat) (s : State) : State :=
  s.atClock (max (start + 1) (min (s.time.clock + n) (start + limit)))

/-! ### Blocks that act at the same moment in no stated order (R10, R37, R46; log 7) -/

/-- The next block to act among several, each given as the list of its actions in their order: the choice is free, and no
choice is made when one block is left. -/
def interleave : Nat → List (List (State → State)) → State → State
  | 0, _, s => s
  | n + 1, blocks, s =>
    match blocks.filter (fun b => !b.isEmpty) with
    | [] => s
    | [b] => b.foldl (fun t f => f t) s
    | blocks' =>
      let i := Config.nextBlock s.draws % blocks'.length
      match blocks'.getD i [] with
      | [] => s
      | f :: rest => interleave n (blocks'.set i rest) (f (s.setDraws (s.draws + 1)))

/-- All the blocks act, in a free order that keeps each block's own order. -/
def together (blocks : List (List (State → State))) (s : State) : State :=
  interleave (blocks.flatten.length + 1) blocks s

end Sys2Proof.Machine
end

