-- ==== Sys2Proof/Machine/Capture.lean ====
section
/-! DEFINITION. The probe generator and the capture unit (chapter 5), the choice and start of acquisitions (R56 to R62), the
correlator's take of halves (R89), and the events BURST_PHASE, LISTEN_PHASE, ACQUISITION_END, SNAPSHOT_SETTLE_END. -/

namespace Sys2Proof.Machine

open Sys2Proof

/-! ### The carrier and the probe output (R75 to R77) -/

/-- The synthesiser's step count P for a carrier bin; the carrier is 200 MHz × P / 2048 (R76). -/
def carrierSteps (n : Nat) : Nat := 57 + 32 * n

/-- What the probe output carries at an instant of a burst: leg, step count of the carrier, attenuation in half-dB below the
maximum, chip period in ns, the chips of the burst, the chip in force and the phase of the carrier in 2048ths of a turn. The
output is the carrier at that phase times the chip: a chip of -1 reverses it (R75, R76, R77). -/
structure ProbeOutput where
  leg         : LegId
  steps       : Nat
  attenuation : Nat
  chipPeriod  : Nat
  chips       : List Int
  chip        : Int
  phase       : Nat
deriving DecidableEq, Repr

/-- Chips go to the output in the BURST phase while the gate is open (R77, R79). -/
def State.transmitting (s : State) : Bool := s.probe.phase == .burst && s.probe.gate

/-- The probe output now: none while it is muted (R77) and once the L chips have been sent (R78). The chip in force is the one the
code register holds (R74). The carrier is at phase zero at the start of chip 0 and turns by P / 2048 in each cycle of the
200 MHz reference (R75, R76). -/
def probeOutput (s : State) : Option ProbeOutput :=
  match s.seq.inFlight with
  | none => none
  | some a =>
    let t := s.legSettings a.leg
    let elapsed := s.time.clock - a.burstStart
    let steps := carrierSteps (s.probe.carrier.getD 0)
    let level := ((s.findSweep a.sweepId).bind (·.levelUsed)).getD 0
    if s.transmitting && decide (elapsed < 2 * t.codeLength * t.chipDivider) then
      some ⟨a.leg, steps, 63 - level, 10 * t.chipDivider, chips t.codeLength, chipOf s.probe.code, elapsed * steps % 2048⟩
    else none

/-! ### Capture halves (R83) -/

/-- The half goes FREE: it loses its owner, marks and fill order and keeps its samples (R83). -/
def Half.release (h : Half) : Half :=
  { h with state := .free, owner := none, void := false, clip := false, fillOrder := none, turn := 0 }

/-- The half is granted to an owner (R83). -/
def Half.grant (o : Owner) (h : Half) : Half :=
  { h with state := .filling, owner := some o, void := false, clip := false, fillOrder := none, turn := 0 }

/-- The FILLING half goes FULL at the instant `clock`, void when it was cut off, and the stream and its sampling stop (R83, R85); a
sample of that very instant is in it already (log 30).
The coupler switch stays where it stands until the next stream: the spec says so of the synthesiser alone (R76), and for the
switch it is the model's choice (log 27). -/
def Capture.finish (clock : Nat) (void : Bool) (c : Capture) : Capture :=
  match c.inState .filling with
  | none => { c with stream := .none, sampling := none }
  | some h =>
    let v := { c.half h with state := .full, void := void, fillOrder := some clock, turn := c.fills }
    { (c.setHalf h v) with stream := .none, sampling := none, fills := c.fills + 1 }

/-- The order of work of two FULL halves: by fill order, and at one instant by turn (R87; log 13). -/
def Half.before (v w : Half) : Bool :=
  decide (v.fillOrder.getD 0 < w.fillOrder.getD 0 ∨ (v.fillOrder.getD 0 = w.fillOrder.getD 0 ∧ v.turn < w.turn))

/-- The oldest FULL half in fill order (R87). -/
def Capture.oldestFull (c : Capture) : Option HalfId :=
  match c.half0.state == .full, c.half1.state == .full with
  | true, true => if c.half1.before c.half0 then some .h1 else some .h0
  | true, false => some .h0
  | false, true => some .h1
  | false, false => none

/-! ### The correlator's take (R89) -/

/-- Frees a half. -/
def releaseHalf (h : HalfId) (s : State) : State := s.setCap (s.cap.setHalf h (s.cap.half h).release)

/-- The correlator becomes BUSY with a half, which goes CORRELATING. -/
def startJob (h : HalfId) (s : State) : State :=
  (s.setCap (s.cap.setHalf h { s.cap.half h with state := .correlating })).setCor
    ⟨some ⟨h, s.time.clock⟩⟩

/-- Whether a job on a half with this owner has somewhere to go (R89). -/
def ownerLives (s : State) : Option Owner → Bool
  | some (.acquisition id _ _ _) => (s.findSweep id).isSome
  | some (.snapshot g _) => s.prof.lag.state == .capturing && s.prof.lag.leg == some g
  | none => false

/-- The idle correlator takes the oldest FULL half: it frees a void half or one whose owner has gone, and takes the next;
otherwise it starts the job, and a snapshot's lag slot becomes CORRELATING (R89, R104). -/
def takeHalves : Nat → State → State
  | 0, s => s
  | n + 1, s =>
    match s.cor.job, s.cap.oldestFull with
    | none, some h =>
      let v := s.cap.half h
      if v.void || !ownerLives s v.owner then takeHalves n (releaseHalf h s)
      else
        match v.owner with
        | some (.snapshot ..) => (startJob h s).setLag { s.prof.lag with state := .correlating }
        | _ => startJob h s
    | _, _ => s

/-- The correlator's take at an instant: there are two halves, so at most two are taken. -/
def correlatorTake (s : State) : State := takeHalves 2 s

/-! ### The choice and the grant (R56, R57, R84) -/

/-- Whether a record may start an acquisition now (R56). -/
def eligible (s : State) (w : Sweep) : Bool :=
  w.state != .analysing && decide (w.started < w.n) && (s.leg w.leg).state == .enabled && s.admissible w.leg
    && (s.windowFree w.leg
        || (s.windowOn w.leg
            && decide (s.time.timebase + w.tAcq ≤ s.openWindow.elim 0 fun o => o.stop)))

/-- The oldest eligible record (R56). -/
def chosen (s : State) : Option Sweep := s.seq.queue.find? (eligible s)

/-- The basis of an acquisition that starts now (R56). -/
def basisOf (s : State) (g : LegId) : Basis :=
  if s.windowFree g then .free else .window (s.openWindow.elim 0 fun o => o.id)

/-- The OPEN window's acquisitions-made count rises by one, saturating (R32). -/
def countAcquisition (s : State) : State :=
  s.setWin { s.win with
    table := s.win.table.map fun w => if w.state == .opened then { w with made := satSucc 65535 w.made } else w }

/-- What a start does to the sweep's record (R57). -/
def startedSweep (level : Nat) (w : Sweep) : Sweep :=
  match w.state with
  | .queued => { w with started := w.started + 1, state := .acquiring, levelUsed := some level }
  | _ => { w with started := w.started + 1 }

/-- The slot of a sweep whose first acquisition starts: HELD becomes FILLING (R57, R95). -/
def fillingSlot (v : Slot) : Slot :=
  match v.state with
  | .held => { v with state := .filling }
  | _ => v

/-- An acquisition of the record starts in the half (R57, R78, R83). -/
def startAcquisition (h : HalfId) (w : Sweep) (s : State) : State :=
  let t := s.legSettings w.leg
  let basis := basisOf s w.leg
  let s1 := s.updateSweep w.id (startedSweep (s.leg w.leg).level)
  let s2 := s1.setSlot w.slot (fillingSlot (s1.slot w.slot))
  let s3 := match basis with
    | .free => s2
    | .window _ => countAcquisition s2
  let s4 := s3.setSeq { s3.seq with
    inFlight := some ⟨w.id, w.leg, basis, s.time.timebase, s.time.clock⟩ }
  let c := s4.cap.setHalf h ((s4.cap.half h).grant (.acquisition w.id w.leg t.codeLength t.profileBins))
  let s5 := s4.setCap { c with stream := .acquisition, coupler := some w.leg, position := 0, sampling := none }
  let s6 := s5.setProbe { s5.probe with phase := .settle, gate := false, carrier := some t.carrier }
  s6.setIngLeg w.leg { s6.ingLeg w.leg with acquired := true }

/-- The waiting snapshot starts in the half (R82, R84). -/
def startSnapshot (h : HalfId) (g : LegId) (s : State) : State :=
  let t := s.legSettings g
  let c := s.cap.setHalf h ((s.cap.half h).grant (.snapshot g t.profileBins))
  (s.setCap { c with stream := .snapshot, coupler := some g, position := 0, waiting := none,
                     snapStart := s.time.clock, sampling := none }).setProbe
    { s.probe with carrier := some t.carrier }

/-- The sequencer's choice together with the capture unit's grant decision (R57, R58, R84). -/
def choose (s : State) : State :=
  match s.cap.inState .filling with
  | some _ => s
  | none =>
    match s.cap.inState .free with
    | none => s
    | some h =>
      match (if s.seq.inFlight.isNone then chosen s else none) with
      | some w => startAcquisition h w s
      | none =>
        match s.cap.waiting with
        | some g => startSnapshot h g s
        | none => s

/-! ### The transmit gate and abandonment (R61, R62, R79, R85) -/

/-- Whether the gate may be open for the acquisition in flight (R79). -/
def gateHolds (s : State) (a : InFlight) : Bool :=
  match a.basis with
  | .free => s.windowFree a.leg
  | .window id => s.admissible a.leg && s.windowIsOpen id

/-- The gate is judged again at a change of the map or the windows: it shuts when its condition no longer holds (R79). -/
def judgeGate (s : State) : State :=
  match s.seq.inFlight with
  | none => s
  | some a => s.setProbe { s.probe with gate := s.probe.gate && gateHolds s a }

/-- The probe generator goes to IDLE with its output muted (R78). -/
def probeIdle (s : State) : State := s.setProbe { s.probe with phase := .idle, gate := false }

/-- The acquisition in flight is abandoned: the half goes FULL and void, the correlator may take it, and the repetition is
given back to a sweep that has not ended (R62, R85). The choice that follows is the caller's. -/
def abandon (s : State) : State :=
  match s.seq.inFlight with
  | none => s
  | some a =>
    let s1 := probeIdle (s.setCap (s.cap.finish s.time.clock true))
    let s2 := s1.setSeq { s1.seq with inFlight := none }
    correlatorTake (s2.updateSweep a.sweepId fun w => { w with started := w.started - 1 })

/-- The acquisition in flight judged at a WINDOW_REVOKE of the OPEN window it names: abandoned unless its band is window-free
now, when its basis becomes FREE (R61). An acquisition whose own window has closed on time at this instant (R60) is left to
end when another window, adjacent to it, is revoked: R61's table speaks of any OPEN window, 4.8 of the window the acquisition
needs, and the model's choice is the second (log 26). -/
def judgeRevoked (id : Nat) (s : State) : State :=
  match s.seq.inFlight with
  | none => s
  | some a =>
    if a.basis = .window id then
      if s.windowFree a.leg then s.setSeq { s.seq with inFlight := some { a with basis := .free } }
      else abandon s
    else s

/-- The acquisition in flight judged at a CLASS_SET (R61). -/
def judgeClasses (s : State) : State :=
  match s.seq.inFlight with
  | none => s
  | some a =>
    if !s.admissible a.leg || (a.basis == .free && !s.windowFree a.leg) then abandon s else s

/-- A filling snapshot is stopped: its half goes FULL and void (R86), and an idle correlator frees it (R89) before the grant
decision of the same instant, which is the caller's. The spec gives no order between the two; this one is the model's choice
(log 28). -/
def stopSnapshot (s : State) : State := correlatorTake (s.setCap (s.cap.finish s.time.clock true))

/-! ### The events of the capture path -/

/-- The number of samples of an acquisition, 2L + K (R80). -/
def acquisitionSamples (t : Settings) : Nat := 2 * t.codeLength + t.profileBins

/-- What the capture input carries is told before time passes (log 15). -/
def State.told (samples : List Sample) (s : State) : State := s.setCap (s.cap.tell samples)

/-- BURST_PHASE (R78, R79, R80): 2,000 ns after the start the gate is judged, the code register is loaded with ones, and the
sampling of 2L + K samples begins, one each 5·D ns. -/
def execBurstPhase (s : State) (samples : List Sample := []) : Host.Outcome State Fault Refusal :=
  s.live <|
    match s.seq.inFlight, s.probe.phase with
    | some a, .settle =>
      let t := s.legSettings a.leg
      let s1 := s.atClock a.burstStart
      let s2 := (s1.setProbe { s1.probe with
        phase := .burst, gate := gateHolds s1 a, code := codeStart t.codeLength }).after 0
      s2.setCap { s2.cap with sampling := some ⟨a.burstStart, t.chipDivider, acquisitionSamples t, samples⟩ }
    | _, _ => s

/-- LISTEN_PHASE (R78): 10·L·D ns after the start of the burst its last chip ends; the gate is shut and the output muted, and
sampling goes on. -/
def execListenPhase (samples : List Sample) (s : State) : Host.Outcome State Fault Refusal :=
  s.live <|
    match s.seq.inFlight, s.probe.phase with
    | some a, .burst =>
      let t := s.legSettings a.leg
      let s1 := (s.told samples).atClock (a.burstStart + 2 * t.codeLength * t.chipDivider)
      s1.setProbe { s1.probe with phase := .listen, gate := false }
    | _, _ => s

/-- ACQUISITION_END (R60, R78, R80): T_acq after the start the last sample has been taken, the half goes FULL, the correlator
may take it, and the choice is made again. -/
def execAcquisitionEnd (samples : List Sample) (s : State) : Host.Outcome State Fault Refusal :=
  s.live <|
    match s.seq.inFlight, s.probe.phase with
    | some a, .listen =>
      let tAcq := ((s.findSweep a.sweepId).map (·.tAcq)).getD 0
      let s1 := (s.told samples).atClock (a.startClock + tAcq * cyclesPerMicro)
      let s2 := s1.setCap (s1.cap.finish s1.time.clock false)
      let s3 := probeIdle (s2.setSeq { s2.seq with inFlight := none })
      choose (correlatorTake s3)
    | _, _ => s

/-- SNAPSHOT_SETTLE_END (R82): 2,000 ns after the grant the sampling of 2K samples begins, one each 5·D ns. -/
def execSnapshotSettleEnd (s : State) (samples : List Sample := []) : Host.Outcome State Fault Refusal :=
  s.live <|
    match s.cap.stream, s.cap.sampling with
    | .snapshot, none =>
      let t := s.legSettings (s.cap.coupler.getD 0)
      let s1 := s.atClock (s.cap.snapStart + 400)
      s1.setCap { s1.cap with
        sampling := some ⟨s.cap.snapStart + 400, t.chipDivider, 2 * t.profileBins, samples⟩ }
    | _, _ => s

/-- The duration of a snapshot in microseconds: 2,000 + 10·K·D ns rounded up (R82). -/
def snapshotMicros (t : Settings) : Nat := (2000 + 10 * t.profileBins * t.chipDivider + 999) / 1000

/-- SNAPSHOT_COMPLETE (R82): T_snap after the grant the last sample has been taken, the half goes FULL, the correlator may take
it, and the choice and the grant decision are made again. -/
def execSnapshotComplete (samples : List Sample) (s : State) : Host.Outcome State Fault Refusal :=
  s.live <|
    match s.cap.stream, s.cap.sampling with
    | .snapshot, some _ =>
      let t := s.legSettings (s.cap.coupler.getD 0)
      let s1 := (s.told samples).atClock (s.cap.snapStart + snapshotMicros t * cyclesPerMicro)
      choose (correlatorTake (s1.setCap (s1.cap.finish s1.time.clock false)))
    | _, _ => s

end Sys2Proof.Machine
end

