-- ==== Sys2Proof/Machine/Divider.lean ====
section
/-! DEFINITION. The divider's queue and waiting list (R108 to R110, R115), the division itself (R111 to R113) and the REFINE
operands (R116). The event DIVISION_COMPLETE is in Machine/Results.lean, since its result goes to the job's owner. -/

namespace Sys2Proof.Machine

open Sys2Proof

/-! ### The queue -/

/-- Batches enter from the head of the waiting list while they fit in the queue of 64 (R110); `fuel` is the length of the
waiting list. -/
def Divider.enter : Nat → Divider → Divider
  | 0, d => d
  | fuel + 1, d =>
    match d.waiting with
    | [] => d
    | b :: rest =>
      if d.queue.length + b.length ≤ 64 then Divider.enter fuel { d with queue := d.queue ++ b, waiting := rest } else d

/-- Every waiting batch that room admits enters (R110). -/
def Divider.letIn (d : Divider) : Divider := Divider.enter d.waiting.length d

/-- The idle divider starts the job at the head of the queue (R111). -/
def Divider.start (clock : Nat) (d : Divider) : Divider :=
  match d.running, d.queue with
  | none, j :: rest => { d with queue := rest, running := some ⟨j, clock⟩ }
  | _, _ => d

/-- What the divider does at an instant: batches enter, the idle divider starts a job, and the room it frees lets batches
enter (R110, R111). -/
def Divider.pump (clock : Nat) (d : Divider) : Divider := ((d.letIn).start clock).letIn

/-- The jobs of one batch, in order: the last is marked (R108). -/
def batchJobs (batch : Nat) : List (JobOwner × Nat × Nat × Bool) → List Job
  | [] => []
  | (o, dividend, divisor, round) :: rest => ⟨o, dividend, divisor, round, batch, rest.isEmpty⟩ :: batchJobs batch rest

/-- A batch becomes ready: it joins the waiting list, and enters the queue at once when none waits and it fits (R110). -/
def Divider.ready (clock : Nat) (jobs : List (JobOwner × Nat × Nat × Bool)) (d : Divider) : Divider :=
  Divider.pump clock { d with waiting := d.waiting ++ [batchJobs d.batches jobs], batches := d.batches + 1 }

/-- The jobs that have not started and satisfy `p` are removed; the room lets batches enter (R115). -/
def Divider.remove (clock : Nat) (p : JobOwner → Bool) (d : Divider) : Divider :=
  Divider.pump clock { d with
    queue   := d.queue.filter fun j => !p j.owner
    waiting := (d.waiting.map fun b => b.filter fun j => !p j.owner).filter fun b => !b.isEmpty }

/-- Whether a job belongs to a sweep (R108). -/
def JobOwner.ofSweep (id : Nat) : JobOwner → Bool
  | .refineSweep i _ => i == id
  | .cal i _ _ => i == id
  | .refinePairing _ => false

/-- Whether a job belongs to a pairing of the leg (R108). -/
def JobOwner.ofPairing (g : LegId) : JobOwner → Bool
  | .refinePairing i => i == g
  | _ => false

/-- A batch handed to the divider by its owner (R110). -/
def handBatch (jobs : List (JobOwner × Nat × Nat × Bool)) (s : State) : State :=
  s.setDiv (s.div.ready s.time.clock jobs)

/-! ### The division (R112, R113) -/

/-- The dividend taken at load, with the rounding of R113. -/
def Job.loaded (j : Job) : Nat := if j.round then j.dividend + j.divisor / 2 else j.dividend

/-- The overflow test (R112). -/
def Job.overflows (j : Job) : Bool := decide (j.divisor * 262144 ≤ j.loaded)

/-- The largest q in 0..7 for which q × m does not exceed the partial remainder (R112). -/
def octalDigit (m partialRem : Nat) : Nat :=
  if 7 * m ≤ partialRem then 7
  else if 6 * m ≤ partialRem then 6
  else if 5 * m ≤ partialRem then 5
  else if 4 * m ≤ partialRem then 4
  else if 3 * m ≤ partialRem then 3
  else if 2 * m ≤ partialRem then 2
  else if m ≤ partialRem then 1
  else 0

/-- The digit steps j = n - 1 down to 0 from a quotient so far and a partial remainder: the quotient and remainder (R112). -/
def digitSteps (divisor : Nat) : Nat → Nat → Nat → Nat × Nat
  | 0, quotient, partialRem => (quotient, partialRem)
  | n + 1, quotient, partialRem =>
    let m := divisor * 8 ^ n
    let q := octalDigit m partialRem
    digitSteps divisor n (quotient * 8 + q) (partialRem - q * m)

/-- The result of a job: quotient and remainder, or none for OVERFLOW (R112). -/
def Job.result (j : Job) : Option (Nat × Nat) :=
  if j.overflows then none else some (digitSteps j.divisor 6 0 j.loaded)

/-- The reference cycles a job takes: 180 ns, or 40 ns with OVERFLOW (R111). -/
def Job.cycles (j : Job) : Nat := if j.overflows then 8 else 36

/-! ### The REFINE operands (R116) -/

/-- The dividend and divisor of the REFINE job of bin k of a profile. -/
def refineOperands (a : List Nat) (k : Nat) : Nat × Nat :=
  let left : Int := a.getD (k - 1) 0
  let mid : Int := a.getD k 0
  let right : Int := a.getD (k + 1) 0
  let num := right - left
  let den := 2 * (2 * mid - left - right)
  ((32 * num + 17 * den).toNat, (2 * den).toNat)

end Sys2Proof.Machine
end

