-- ==== Sys2Proof/Machine/SpanArith.lean ====
section
/-! DEFINITION. The span arithmetic (R118 to R122) and the event TEMPERATURE_CONVERSION. -/

namespace Sys2Proof.Machine

open Sys2Proof

/-- Q_nom of a VF_milli (R118). -/
def qNominal (vf : Nat) : Nat := (vf * 1918672 + 50000) / 100000

/-- (T - T_cal) × Ct with the fraction discarded towards zero, by the coefficient code (R121). -/
def scaleByCode (code : Nat) (d : Int) : Int :=
  match code with
  | 1 => d
  | 2 => d.tdiv 2
  | 3 => d.tdiv 4
  | 4 => d.tdiv 8
  | _ => 0

/-- The correction of R121. -/
def correction (t : Settings) (cal : Cal) (temperature : Int) : Int :=
  let d := temperature - cal.t
  if 0 < d then scaleByCode t.ctUp d else if d < 0 then scaleByCode t.ctDn d else 0

/-- Q_eff from a calibration and a reading (R121). -/
def qEffective (t : Settings) (cal : Cal) (temperature : Int) : Nat :=
  (clampInt 9593 19187 ((cal.q : Int) - correction t cal temperature)).toNat

/-- Q_eff of a leg now (R121). -/
def State.qEff (s : State) (g : LegId) : Nat :=
  qEffective (s.legSettings g) ((s.arith.cal.get g).getD ⟨9593, 0⟩) s.arith.temperature

/-- The distance of a refined delay before the clamp (R122). -/
def distanceOf (q t16 d : Nat) : Nat := (q * t16 * d + 20480) / 40960

/-- The distance, clamped at 65,535, and the RANGE mark (R122). -/
def toDistance (q t16 d : Nat) : Nat × Bool :=
  let v := distanceOf q t16 d
  if 65535 < v then (65535, true) else (v, false)

/-- Q_cal and T_cal of a leg written as a pair (R119). -/
def setCal (g : LegId) (c : Cal) (s : State) : State :=
  s.setArith { s.arith with cal := s.arith.cal.set g (some c) }

/-- TEMPERATURE_CONVERSION (R120): each 1 s the reading becomes the sensor's value, clamped. -/
def execTemperatureConversion (sensor : Int) (s : State) : Host.Outcome State Fault Refusal :=
  s.live <|
    let s1 := s.atClock s.arith.nextConversion
    s1.setArith { s1.arith with
      temperature := clampInt (-40) 85 sensor, nextConversion := s1.arith.nextConversion + 200000000 }

end Sys2Proof.Machine
end

