-- ==== Sys2Proof/Machine/Ingress.lean ====
section
/-! DEFINITION. The ingress monitor (chapter 11): thresholds, burst records, the log, surveys, echo pairing, the event
INGRESS_SCAN and the requests INGRESS_SET, SURVEY_OPEN, SURVEY_CLOSE, SURVEY_READ, LOG_TAKE and WATCH_GET. -/

namespace Sys2Proof.Machine

open Sys2Proof

/-- The spectrum bins, ascending. -/
def allBins : List Nat := List.range 64

/-! ### Thresholds (R182, R183) -/

/-- The mean of a bin in the latched survey result, if it holds one. -/
def IngressLeg.mean (l : IngressLeg) (b : Nat) : Option Int :=
  (l.result.bind fun r => r.bins.getD b none).map (·.1)

/-- onset_b, from the settings and the latched result in force (R182). -/
def IngressLeg.onsetOf (l : IngressLeg) (b : Nat) : Int :=
  match l.settings.mode with
  | .absolute => l.settings.onset
  | .relative =>
    match l.mean b with
    | some m => min 240 (m + l.settings.margin)
    | none => l.settings.onset

/-- A detector judged by a reading against its onset and release level (R183). -/
def judgeDetector (onset hysteresis reading : Int) : Detector → Detector
  | .quiet => if onset ≤ reading then .burst else .quiet
  | .burst => if reading < onset - hysteresis then .quiet else .burst

/-- The detector of a bin. -/
def IngressLeg.detector (l : IngressLeg) (b : Nat) : Detector := l.detectors.getD b .quiet

/-- Whether a bin of the leg is in BURST. -/
def IngressLeg.anyBurst (l : IngressLeg) : Bool := l.detectors.any fun d => d == .burst

/-- The bins of the leg in BURST, ascending. -/
def IngressLeg.burstBins (l : IngressLeg) : List Nat := allBins.filter fun b => l.detector b == .burst

/-! ### The log and BURST_END (R189, R190) -/

/-- A closed record joins the tail of the log of 128; a full log loses its oldest and counts it (R189). -/
def logRecord (r : BurstRecord) (s : State) : State :=
  if 128 ≤ s.ing.log.length then
    s.setIng { s.ing with log := s.ing.log.drop 1 ++ [r], discards := satSucc 65535 s.ing.discards }
  else s.setIng { s.ing with log := s.ing.log ++ [r] }

/-! ### The end of a pairing (R189, R190, R196 to R198) -/

/-- A record with its pairing settled. -/
def BurstRecord.settled (outcome : PairingOutcome) (echo position element : Option Nat) (r : BurstRecord) : BurstRecord :=
  { r with outcome := outcome, echo := echo, position := position, element := element }

/-- The record of a serial rewritten in place in the log, if it is still there (R189). -/
def updateLog (serial : Nat) (r : BurstRecord) (s : State) : State :=
  s.setIng { s.ing with log := s.ing.log.map fun x => if x.serial = serial then r else x }

/-- The running pairing settles: the lag slot goes FREE, and the settled fields go into the open record, or into the closed
one, whose log entry is updated and whose BURST_END is posted (R189, R190, R197). -/
def settlePairing (outcome : PairingOutcome) (echo position element : Option Nat) (s : State) : State :=
  match s.ing.pairing with
  | none => s
  | some p =>
    let s1 := (s.setLag .reset).setIng { s.ing with pairing := none }
    match p.closed with
    | some r =>
      let r1 := r.settled outcome echo position element
      post (.burstEnd r1) (updateLog p.serial r1 s1)
    | none =>
      let l := s1.ingLeg p.leg
      s1.setIngLeg p.leg { l with
        record := l.record.map fun r => if r.serial = p.serial then r.settled outcome echo position element else r }

/-- Whether the running pairing serves the record. -/
def pairingOf (s : State) (r : BurstRecord) : Bool :=
  match s.ing.pairing with
  | some p => p.serial == r.serial
  | none => false

/-- The close of a record withdraws its snapshot while it waits for a half: the pairing settles CAPTURE_BUSY (R86, R187,
R196). -/
def withdrawAtClose (g : LegId) (s : State) : State :=
  match (s.ingLeg g).record with
  | none => s
  | some r =>
    if pairingOf s r && s.cap.waiting.isSome then
      settlePairing .captureBusy none none none (s.setCap { s.cap with waiting := none })
    else s

/-- A leg's open record, stamped with its end and flags, leaves the leg for the log; BURST_END is posted unless its pairing
still runs (R187 to R190). -/
def fileRecord (g : LegId) (long cut : Bool) (endTime : Nat) (s : State) : State :=
  match (s.ingLeg g).record with
  | none => s
  | some r =>
    let r1 := { r with endTime := some endTime, long := long, cut := cut }
    let s1 := logRecord r1 (s.setIngLeg g { s.ingLeg g with record := none })
    if pairingOf s r then
      s1.setIng { s1.ing with pairing := s1.ing.pairing.map fun p => { p with closed := some r1 } }
    else post (.burstEnd r1) s1

/-- A record closes other than by LEG_DISABLE (R187, R188). -/
def closeRecord (g : LegId) (long cut : Bool) (endTime : Nat) (s : State) : State :=
  fileRecord g long cut endTime (withdrawAtClose g s)

/-- After a change of the leg's detectors at a forcing instant or a scan: with no bin in BURST the record closes and the
long-held mark is cleared (R187). -/
def closeIfQuiet (g : LegId) (s : State) : State :=
  if (s.ingLeg g).anyBurst then s
  else
    let s1 := closeRecord g false false s.time.timebase s
    s1.setIngLeg g { s1.ingLeg g with longHeld := false }

/-- The detectors with every bin not watched now at QUIET (R179). -/
def watchedDetectors (g : LegId) (s : State) : List Detector :=
  allBins.map fun b => if s.watched g b then (s.ingLeg g).detector b else .quiet

/-- Bins of a leg that are no longer watched go QUIET (R179), which may close its record (R187). -/
def forceQuiet (g : LegId) (s : State) : State :=
  closeIfQuiet g (s.setIngLeg g { s.ingLeg g with detectors := watchedDetectors g s })

/-- The legs on which a bin in BURST is no longer watched, each as a block of one action (R179, R37). -/
def quietBlocks (s : State) : List (List (State → State)) :=
  (allLegs.filter fun g => (s.ingLeg g).burstBins.any fun b => !s.watched g b).map fun g => [forceQuiet g]

/-! ### Echo pairing (R195 to R198) -/

/-- A record opens and its pairing is decided (R185, R195). -/
def openRecord (g : LegId) (r : BurstRecord) (s : State) : State :=
  let put : PairingOutcome → State → State := fun o t =>
    let t1 := t.setIng { t.ing with serial := t.ing.serial + 1 }
    t1.setIngLeg g { t1.ingLeg g with record := some { r with serial := t.ing.serial, outcome := o } }
  if !(s.ingLeg g).settings.pairing then put .off s
  else if (s.anchor g).isNone then put .noAnchor s
  else if s.prof.lag.state ≠ .free then put .slotBusy s
  else
    let s1 := put .pending s
    let s2 := s1.setIng { s1.ing with pairing := some ⟨g, s.ing.serial, none, none⟩ }
    let s3 := s2.setLag ⟨.capturing, some g, some (s.legSettings g).profileBins, none⟩
    choose (s3.setCap { s3.cap with waiting := some g })

/-- The qualifying lags of a lag profile (R196). -/
def lagQualifies (t : Settings) (k : Nat) (r : List Nat) (b : Nat) : Bool :=
  decide (t.blank < b) && decide (b ≤ k - 2) && decide (t.floor ≤ r.getD b 0)
    && decide (r.getD (b - 1) 0 < r.getD b 0) && decide (r.getD (b + 1) 0 ≤ r.getD b 0)

/-- The lag peak: the qualifying lag of largest R, the smaller among equals (R196). -/
def lagPeak (t : Settings) (k : Nat) (r : List Nat) : Option Nat :=
  (List.range k).foldl (fun best b =>
    if lagQualifies t k r b then
      match best with
      | none => some b
      | some c => if r.getD c 0 < r.getD b 0 then some b else some c
    else best) none

/-- The search of a lag profile just written: NO_ECHO, or one REFINE job handed to the divider (R196, R116). -/
def searchLag (g : LegId) (s : State) : State :=
  let r := s.prof.lag.profile.getD []
  match lagPeak (s.legSettings g) (s.prof.lag.k.getD 0) r with
  | none => settlePairing .noEcho none none none s
  | some k =>
    let (dividend, divisor) := refineOperands r k
    handBatch [(.refinePairing g, dividend, divisor, false)]
      (s.setIng { s.ing with pairing := s.ing.pairing.map fun p => { p with lagPeak := some k } })

/-- The element nearest a position among those whose nominal distance lies within `reach`, the smaller distance among
equals (R197). -/
def nearestElement (position reach : Nat) (es : List Element) : Option Element :=
  es.foldl (fun best e =>
    if distanceBetween e.nominal position ≤ reach then
      match best with
      | none => some e
      | some b => if distanceBetween e.nominal position < distanceBetween b.nominal position then some e else some b
    else best) none

/-- The ingress score of an element raised by one, saturating (R130, R197). -/
def chargeScore (g : LegId) (id : Nat) (s : State) : State :=
  s.setElements g ((s.elements g).map fun e => if e.id = id then { e with score := satSucc 255 e.score } else e)

/-- The pairing's REFINE result, judged against the map and temperature as they stand (R197). -/
def pairingResult (g : LegId) (quotient : Nat) (s : State) : State :=
  match s.ing.pairing with
  | none => s
  | some p =>
    match s.anchor g with
    | none => settlePairing .noAnchor none none none s
    | some anchor =>
      let t := s.legSettings g
      let t16 := 16 * p.lagPeak.getD 0 + quotient - 8
      let echo := (toDistance (s.qEff g) t16 t.chipDivider).1
      let base := anchor.measured.getD anchor.nominal
      if base < echo then settlePairing .outOfSpan (some echo) none none s
      else
        let position := base - echo
        match nearestElement position (2 * t.tolerance) (s.elements g) with
        | none => settlePairing .located (some echo) (some position) none s
        | some e => settlePairing .located (some echo) (some position) (some e.id) (chargeScore g e.id s)

/-- The leg's waiting snapshot request, if any, is withdrawn (R86). -/
def withdrawSnapshot (g : LegId) (s : State) : State :=
  s.setCap { s.cap with waiting := if s.cap.waiting = some g then none else s.cap.waiting }

/-- A leg's running pairing is cancelled by LEG_DISABLE: its snapshot is withdrawn or stopped, its job removed, and it settles
OFF (R86, R115, R198). -/
def cancelPairing (g : LegId) (s : State) : State :=
  match s.ing.pairing with
  | none => s
  | some p =>
    if p.leg = g then
      let s1 := withdrawSnapshot g s
      let filling := s1.cap.stream == .snapshot && s1.cap.coupler == some g
      let s2 := settlePairing .off none none none
        (s1.setDiv (s1.div.remove s1.time.clock (JobOwner.ofPairing g)))
      if filling then choose (stopSnapshot s2) else s2
    else s

/-- What LEG_DISABLE does at the ingress monitor: the survey is discarded, the record closes CUT, the pairing is cancelled,
and detectors, readings and the long-held mark are cleared (R46, R188, R194, R198). -/
def disableIngress (g : LegId) (s : State) : State :=
  let s1 := cancelPairing g (fileRecord g false true s.time.timebase s)
  s1.setIngLeg g { s1.ingLeg g with
    survey := none, longHeld := false, detectors := List.replicate 64 .quiet, readings := List.replicate 64 none }

/-- TIME_SET closes every open record with CUT, in ascending leg order (R20, R188). -/
def cutRecords (s : State) : State :=
  allLegs.foldl (fun t g => closeRecord g false true t.time.timebase t) s

/-! ### Surveys (R193, R194) -/

/-- A survey just opened (R193). -/
def Survey.fresh (time : Nat) : Survey := ⟨List.replicate 64 ⟨0, 0, none⟩, 0, time⟩

/-- A reading added to a bin (R193). -/
def SurveyBin.add (b : SurveyBin) : Option Int → SurveyBin
  | none => b
  | some r => ⟨b.sum + r, b.count + 1, some (match b.maximum with | none => r | some m => max r m)⟩

/-- The readings of one scan added (R193). -/
def Survey.add (readings : List (Option Int)) (v : Survey) : Survey :=
  { v with bins := allBins.map fun b => (v.bins.getD b ⟨0, 0, none⟩).add (readings.getD b none), scans := v.scans + 1 }

/-- The mean and maximum of a bin, absent with a count of 0 (R194). -/
def SurveyBin.latch (b : SurveyBin) : Option (Int × Int) :=
  if b.count = 0 then none
  else some ((2 * b.sum + b.count) / (2 * (b.count : Int)), b.maximum.getD 0)

/-- The result latched at a close (R194). -/
def Survey.latch (full : Bool) (time : Nat) (v : Survey) : SurveyResult :=
  ⟨v.bins.map SurveyBin.latch, v.scans, decide (v.scans < 1000), full, v.openTime, time⟩

/-- The scans of a FULL survey (R193). -/
def surveyLimit : Nat := 3600000

/-- The second step of a reading scan (R193): the open survey takes the readings and closes FULL at its limit. -/
def scanSurvey (time : Nat) (readings : List (Option Int)) (l : IngressLeg) : IngressLeg :=
  match l.survey with
  | none => l
  | some v =>
    let v1 := v.add readings
    if surveyLimit ≤ v1.scans then { l with survey := none, result := some (v1.latch true time) }
    else { l with survey := some v1 }

/-! ### The scan (R180, R185, R186) -/

/-- The level of a bin in a scan's readings; a bin the command gives no level reads the floor of the range (log 18). -/
def levelAt (levels : List Int) (b : Nat) : Int := clampInt (-240) 240 (levels.getD b (-240))

/-- The readings of a reading scan: each watched bin not ignored under R179 (R180). `held` says whether an acquisition of the
leg was in progress during the millisecond. -/
def scanReadings (g : LegId) (held : Bool) (levels : List Int) (s : State) : List (Option Int) :=
  allBins.map fun b =>
    if s.watched g b && !(held && (s.legSettings g).inBand b) then some (levelAt levels b) else none

/-- The detectors after the first step of a reading scan (R183). -/
def scanDetectors (readings : List (Option Int)) (l : IngressLeg) : List Detector :=
  allBins.map fun b =>
    match readings.getD b none with
    | some r => judgeDetector (l.onsetOf b) l.settings.hysteresis r (l.detector b)
    | none => l.detector b

/-- The highest reading of the BURST bins read at a scan with its bin, the lower bin among equals (R185, R186). -/
def scanPeak (readings : List (Option Int)) (l : IngressLeg) : Option (Int × Nat) :=
  allBins.foldl (fun best b =>
    match readings.getD b none with
    | some r =>
      if l.detector b = .burst then
        match best with
        | none => some (r, b)
        | some (m, c) => if m < r then some (r, b) else some (m, c)
      else best
    | none => best) none

/-- The open record after a further reading scan (R186): `before` are the detectors before the scan. -/
def updateRecord (readings : List (Option Int)) (before : List Detector) (l : IngressLeg) (r : BurstRecord) : BurstRecord :=
  let entered := allBins.filter fun b => l.detector b == .burst && before.getD b .quiet == .quiet
  let bins := allBins.filter fun b => r.bins.contains b || entered.contains b
  let r1 := { r with scans := r.scans + 1, bins := bins }
  match scanPeak readings l with
  | none => r1
  | some (m, b) => if r.peakLevel < m then { r1 with peakLevel := m, peakBin := b } else r1

/-- A record as a scan opens it (R185). -/
def newRecord (g : LegId) (time : Nat) (peak : Int × Nat) (l : IngressLeg) : BurstRecord :=
  ⟨0, g, time, l.burstBins, peak.1, peak.2, 1, none, false, false, .pending, none, none, none⟩

/-- The third step of a reading scan: the open record is updated, or a record opens (R185, R186). -/
def scanRecord (g : LegId) (readings : List (Option Int)) (before : List Detector) (s : State) : State :=
  let l := s.ingLeg g
  match l.record with
  | some r => s.setIngLeg g { l with record := some (updateRecord readings before l r) }
  | none =>
    match scanPeak readings l with
    | some peak => if l.longHeld then s else openRecord g (newRecord g s.time.timebase peak l) s
    | none => s

/-- The fourth step of a reading scan: the record closes all quiet, or at its long limit, and the long-held mark is set or
cleared (R187). -/
def scanClose (g : LegId) (s : State) : State :=
  let l := s.ingLeg g
  if l.anyBurst then
    match l.record with
    | some r =>
      if 10000 ≤ r.scans then
        let s1 := closeRecord g true false s.time.timebase s
        s1.setIngLeg g { s1.ingLeg g with longHeld := true }
      else s
    | none => s
  else closeIfQuiet g s

/-- A reading scan of a leg, in the four steps of R180. -/
def readingScan (g : LegId) (held : Bool) (levels : List Int) (s : State) : State :=
  let l := s.ingLeg g
  let readings := scanReadings g held levels s
  let before := l.detectors
  let l1 := { l with detectors := scanDetectors readings l, readings := readings }
  let s1 := s.setIngLeg g (scanSurvey s.time.timebase readings l1)
  scanClose g (scanRecord g readings before s1)

/-- Whether an acquisition of the leg is in progress. -/
def acquiringOn (s : State) (g : LegId) : Bool :=
  match s.seq.inFlight with
  | some a => a.leg == g
  | none => false

/-- INGRESS_SCAN of one leg (R180): no work when OFF, a countdown, or a reading scan. -/
def execIngressScan (g : LegId) (levels : List Int) (s : State) : Host.Outcome State Fault Refusal :=
  s.live <|
    let l := s.ingLeg g
    let s1 := s.atClock l.nextScan
    let held := l.acquired || acquiringOn s g
    let s2 := s1.setIngLeg g { l with nextScan := l.nextScan + 200000, acquired := acquiringOn s g }
    let r := s.leg g
    if r.state = .off then s2
    else if 0 < r.settle then s2.setLeg g { r with settle := r.settle - 1 }
    else readingScan g held levels s2

/-! ### Requests -/

/-- INGRESS_SET (R181). -/
def serveIngressSet (p : List Byte) (s : State) : State × Reply :=
  let onset := fieldSigned p 2 2
  let margin := field p 4 1
  let hysteresis := field p 5 1
  match legOf (field p 0 1), ingressModeOf (field p 1 1), yesNoOf (field p 6 1) with
  | some g, some mode, some pairing =>
    if onset < -240 ∨ 240 < onset ∨ 120 < margin ∨ 60 < hysteresis then (s, refuse .badValue)
    else
      let l := s.ingLeg g
      (s.setIngLeg g { l with settings := ⟨mode, onset, margin, hysteresis, pairing⟩ }, okReply l.settings.layout)
  | _, _, _ => (s, refuse .badValue)

/-- SURVEY_OPEN (R193). -/
def serveSurveyOpen (p : List Byte) (s : State) : State × Reply :=
  match legOf (field p 0 1) with
  | none => (s, refuse .badValue)
  | some g =>
    if (s.leg g).state = .off then (s, refuse .legState)
    else if (s.ingLeg g).survey.isSome then (s, refuse .busy)
    else (s.setIngLeg g { s.ingLeg g with survey := some (.fresh s.time.timebase) }, okReply [])

/-- SURVEY_CLOSE (R194). -/
def serveSurveyClose (p : List Byte) (s : State) : State × Reply :=
  match legOf (field p 0 1) with
  | none => (s, refuse .badValue)
  | some g =>
    match (s.ingLeg g).survey with
    | none => (s, refuse .notFound)
    | some v =>
      let r := v.latch false s.time.timebase
      (s.setIngLeg g { s.ingLeg g with survey := none, result := some r }, okReply r.layout)

/-- SURVEY_READ (R194). -/
def serveSurveyRead (p : List Byte) (s : State) : State × Reply :=
  match legOf (field p 0 1) with
  | none => (s, refuse .badValue)
  | some g =>
    match (s.ingLeg g).result with
    | none => (s, refuse .notFound)
    | some r =>
      let v := (s.ingLeg g).survey
      (s, okReply (r.layout ++ yesNo v.isSome ++ leOpt 4 (v.map (·.scans))))

/-- LOG_TAKE (R191). -/
def serveLogTake (p : List Byte) (s : State) : State × Reply :=
  let count := field p 0 1
  if count < 1 ∨ 6 < count then (s, refuse .badValue)
  else
    let taken := s.ing.log.take count
    let rest := s.ing.log.drop count
    (s.setIng { s.ing with log := rest },
      okReply (u8 taken.length ++ u8 rest.length ++ le 2 s.ing.discards ++ taken.flatMap BurstRecord.layout))

/-- The record group of the watch header, led by "record open" (R202). -/
def watchRecordLayout : Option BurstRecord → List Byte
  | none => yesNo false ++ zeros 20
  | some r =>
    yesNo true ++ le 6 r.startTime ++ le 2 r.scans ++ binSet r.bins ++ leSigned 2 r.peakLevel ++ u8 r.peakBin
      ++ u8 r.outcome.code

/-- A per-bin watch record (R192, R202): held now means that an acquisition of the leg is in progress and the bin lies in
its band (R179). New settings and a newly latched result apply from the leg's next reading scan (R181, R182), and the spec does not say
which onset_b WATCH_GET shows until then: that it shows at once the one they give is the model's choice (log 31). -/
def watchBinLayout (g : LegId) (s : State) (b : Nat) : List Byte :=
  let l := s.ingLeg g
  let watched := s.watched g b
  let held := acquiringOn s g && (s.legSettings g).inBand b
  let reading := l.readings.getD b none
  u8 (bitsOf [watched, held, l.detector b == .burst, reading.isSome])
    ++ leSigned 2 (if watched then l.onsetOf b else 0) ++ leSigned 2 (reading.getD 0)

/-- WATCH_GET (R192). -/
def serveWatchGet (p : List Byte) (s : State) : State × Reply :=
  match legOf (field p 0 1) with
  | none => (s, refuse .badValue)
  | some g =>
    let l := s.ingLeg g
    (s, okReply (l.settings.layout ++ le 2 (s.leg g).settle ++ yesNo l.longHeld ++ watchRecordLayout l.record
      ++ yesNo l.survey.isSome ++ leOpt 4 (l.survey.map (·.scans)) ++ allBins.flatMap (watchBinLayout g s)))

end Sys2Proof.Machine
end

