-- ==== Sys2Proof/Machine/Sweeps.lean ====
section
/-! DEFINITION. The sweep sequencer (chapter 4): T_acq, the end of a sweep, probe-level control and the leg fault, and the
requests SWEEP_REQ, SWEEP_CANCEL and SWEEP_LIST. -/

namespace Sys2Proof.Machine

open Sys2Proof

/-- T_acq in microseconds: 2,000 + 10·L·D + 5·K·D ns rounded up (R53). -/
def acquisitionMicros (t : Settings) : Nat :=
  (2000 + 10 * t.codeLength * t.chipDivider + 5 * t.profileBins * t.chipDivider + 999) / 1000

/-! ### The end of a sweep (R64, R65) -/

/-- The length of the slot's peak list if the peak search has run, otherwise 0 (R65). -/
def peakCount (v : Slot) : Nat := ((v.content.bind (·.peaks)).map (·.length)).getD 0

/-- The slot after its sweep ends: READY with flags and completion time for DONE and DONE_CLIPPED, FREE otherwise (R64, R94,
R95). -/
def endedSlot (outcome : SweepOutcome) (flags : SweepFlags) (time : Nat) (v : Slot) : Slot :=
  match outcome with
  | .done | .doneClipped =>
    ⟨.ready, v.content.map fun c =>
      { c with flags := some flags, completion := some time, acc := none, analysisStart := none }⟩
  | _ => ⟨.free, none⟩

/-- Step 1 and 2 of R64: the record leaves the queue and its acquisition in flight is abandoned. -/
def dropSweep (id : Nat) (s : State) : State :=
  let s1 := s.setSeq { s.seq with queue := s.seq.queue.filter fun w => w.id != id }
  match s.seq.inFlight with
  | some a => if a.sweepId = id then abandon s1 else s1
  | none => s1

/-- Whether the acquisition in flight belongs to the sweep. -/
def flies (s : State) (id : Nat) : Bool :=
  match s.seq.inFlight with
  | some a => a.sweepId == id
  | none => false

/-- A sweep ends with an outcome, its matched count and its stray count (R64). A sweep that is not in the queue has ended
already, and nothing happens. -/
def endSweep (id : Nat) (outcome : SweepOutcome) (matched strays : Nat) (s : State) : State :=
  match s.findSweep id with
  | none => s
  | some w =>
    let peaks := peakCount (s.slot w.slot)
    let s1 := dropSweep id s
    let s2 := s1.setDiv (s1.div.remove s1.time.clock (JobOwner.ofSweep id))
    let s3 := s2.setSlot w.slot (endedSlot outcome w.flags s.time.timebase (s2.slot w.slot))
    let s4 := post (.sweepEnd id w.leg w.slot outcome w.flags w.started w.done peaks matched strays
      (s.leg w.leg).level s.time.timebase) s3
    if flies s id then choose s4 else s4

/-- Sweeps end one after another with an outcome (R67, R68, R72). -/
def endSweeps (outcome : SweepOutcome) (ids : List Nat) (s : State) : State :=
  ids.foldl (fun t id => endSweep id outcome 0 0 t) s

/-! ### Probe-level control and the leg fault (R70 to R72) -/

/-- How the anchor stood in a DONE sweep: no anchor, not matched, or matched with an amplitude (R70). -/
inductive AnchorMatch where
  | noAnchor
  | unmatched
  | matched (amplitude : Nat)
deriving DecidableEq, Repr

/-- A step up, clamped at 63 (R70). -/
def levelUp (t : Settings) (level : Nat) : Nat := min 63 (level + t.upStep)

/-- A step down, clamped at 0 (R70). -/
def levelDown (t : Settings) (level : Nat) : Nat := level - t.downStep

/-- The probe level after a DONE sweep (R70). -/
def levelAfterDone (t : Settings) (m : AnchorMatch) (level : Nat) : Nat :=
  match m with
  | .noAnchor => level
  | .unmatched => levelUp t level
  | .matched a => if a < t.aLo then levelUp t level else if t.aHi < a then levelDown t level else level

/-- The fault counter after a DONE sweep, judged on the level used (R71). -/
def faultsAfterDone (t : Settings) (m : AnchorMatch) (levelUsed faults : Nat) : Nat :=
  match m with
  | .noAnchor => 0
  | .unmatched => if levelUsed = 63 then satSucc 15 faults else 0
  | .matched a => if levelUsed = 63 ∧ a < t.aLo then satSucc 15 faults else 0

/-- Probe-level control of a DONE_CLIPPED sweep: a step down, the counter unchanged (R70, R71). -/
def levelClipped (g : LegId) (s : State) : State :=
  let r := s.leg g
  s.setLeg g { r with level := levelDown (s.legSettings g) r.level }

/-- Probe-level control of a DONE sweep (R70, R71, R158). -/
def levelDone (g : LegId) (m : AnchorMatch) (levelUsed : Nat) (s : State) : State :=
  let r := s.leg g
  let t := s.legSettings g
  s.setLeg g { r with level := levelAfterDone t m r.level, faults := faultsAfterDone t m levelUsed r.faults }

/-- Whether probe-level control has brought an ENABLED leg to its fault count limit (R71). -/
def faultsNow (s : State) (g : LegId) : Bool :=
  (s.leg g).state == .enabled && (s.leg g).faults == (s.legSettings g).faultLimit

/-- The ids of a leg's records that satisfy `p`, in queue order. -/
def sweepIdsOf (p : Sweep → Bool) (s : State) : List Nat := (s.seq.queue.filter p).map (·.id)

/-- The leg faults after the sweep that caused it has ended (R72). -/
def faultLeg (g : LegId) (sweepId : Nat) (s : State) : State :=
  let r := s.leg g
  let s1 := post (.legFault g r.faults r.level sweepId s.time.timebase) (s.setLeg g { r with state := .faulted })
  choose (endSweeps .legFaulted (sweepIdsOf (fun w => w.leg == g && w.state != .analysing) s1) s1)

/-! ### Requests -/

/-- Whether N is a number of repetitions (R50). -/
def repetitionsAllowed (n : Nat) : Bool := [1, 2, 4, 8, 16, 32, 64].contains n

/-- The content of a slot taken for a new sweep (R96). -/
def heldContent (w : Sweep) (k : Nat) : SlotContent :=
  ⟨w.leg, w.id, w.n, w.options, k, some (List.replicate k 0), none, none, none, none, none, none, none⟩

/-- SWEEP_REQ (R52 to R55). -/
def serveSweepReq (p : List Byte) (s : State) : State × Reply :=
  let n := field p 2 1
  let o := field p 3 1
  match legOf (field p 0 1), legOf (field p 1 1) with
  | some g, some slot =>
    if !repetitionsAllowed n || decide (7 < o) || ((optionsOf o).baseline && (optionsOf o).calibrate) then
      (s, refuse .badValue)
    else if (s.leg g).state ≠ .enabled then (s, refuse .legState)
    else if (optionsOf o).calibrate && (s.anchor g).isNone then (s, refuse .notFound)
    else if !s.admissible g then (s, refuse .excluded)
    else if s.seq.queue.any fun w => w.slot == slot then (s, refuse .busy)
    else
      let id := allocateId 5 s.seq.nextId (s.seq.queue.map (·.id))
      let t := s.legSettings g
      let w : Sweep := ⟨id, g, slot, n, 0, 0, optionsOf o, .queued, acquisitionMicros t, none, .none⟩
      let s1 := s.setSeq { s.seq with queue := s.seq.queue ++ [w], nextId := nextIdAfter id }
      let s2 := s1.setSlot slot ⟨.held, some (heldContent w t.profileBins)⟩
      (choose s2, okReply (u8 id ++ le 2 w.tAcq))
  | _, _ => (s, refuse .badValue)

/-- SWEEP_CANCEL (R66). -/
def serveSweepCancel (p : List Byte) (s : State) : State × Reply :=
  match s.findSweep (field p 0 1) with
  | none => (s, refuse .notFound)
  | some w => (endSweep w.id .cancelled 0 0 s, okReply (u8 w.state.code ++ u8 w.started ++ u8 w.done))

/-- SWEEP_LIST (R69). -/
def serveSweepList (_p : List Byte) (s : State) : State × Reply :=
  (s, okReply (le 6 s.time.timebase ++ u8 s.seq.queue.length ++ s.seq.queue.flatMap Sweep.layout
    ++ inFlightLayout s.seq.inFlight))

end Sys2Proof.Machine
end

