-- ==== Sys2Proof/Machine/Legs.lean ====
section
/-! DEFINITION. The leg controller and the spectrum plan's requests (chapter 3): LEG_SET, LEG_ENABLE, LEG_DISABLE, LEG_GET,
CLASS_SET and CLASS_GET. -/

namespace Sys2Proof.Machine

open Sys2Proof

/-- Whether a value lies in a range that includes both ends. -/
def inRange (lo hi v : Nat) : Bool := decide (lo ≤ v) && decide (v ≤ hi)

/-- Every setting in its range of R41. -/
def Settings.rangesHold (t : Settings) : Bool :=
  [63, 127, 255, 511].contains t.codeLength && inRange 1 16 t.chipDivider
    && [256, 512, 768, 1024].contains t.profileBins && inRange 0 255 t.blank && inRange 0 65535 t.floor
    && inRange 0 63 t.carrier && inRange 0 63 t.startLevel && inRange 0 65535 t.aLo && inRange 0 65535 t.aHi
    && inRange 1 4 t.upStep && inRange 1 4 t.downStep && inRange 1 15 t.faultLimit && inRange 500 1000 t.vfMilli
    && inRange 1 255 t.tolerance && inRange 1 15 t.missLimit && inRange 1 15 t.confirmCount && inRange 1 255 t.ageLimit
    && inRange 0 6 t.trim && inRange 0 7 t.ctUp && inRange 0 7 t.ctDn

/-- The third check of LEG_SET: ranges, blank, band and level window (R42). -/
def Settings.allowed (t : Settings) : Bool :=
  t.rangesHold && decide (t.blank < t.profileBins - 2) && decide (t.halfWidth ≤ t.carrier)
    && decide (t.carrier + t.halfWidth ≤ 63) && decide (t.aLo ≤ t.aHi)

/-- LEG_SET (R42, R43, R119). -/
def serveLegSet (p : List Byte) (s : State) : State × Reply :=
  match legOf (field p 0 1) with
  | none => (s, refuse .badValue)
  | some g =>
    let t := settingsOf p
    if (s.leg g).state ≠ .off then (s, refuse .legState)
    else if !t.allowed then (s, refuse .badValue)
    else
      (setCal g ⟨qNominal t.vfMilli, s.arith.temperature⟩ (s.setLeg g { s.leg g with settings := some t }), okReply [])

/-- LEG_ENABLE (R45). -/
def serveLegEnable (p : List Byte) (s : State) : State × Reply :=
  match legOf (field p 0 1) with
  | none => (s, refuse .badValue)
  | some g =>
    let r := s.leg g
    match r.state, r.settings with
    | .enabled, _ => (s, refuse .legState)
    | .off, none => (s, refuse .legState)
    | _, _ =>
      (choose (s.setLeg g { r with state := .enabled, level := (s.legSettings g).startLevel, faults := 0, settle := 500 }),
        okReply (u8 r.state.code))

/-- The monitor's part of LEG_DISABLE as a block of its own when it has a report to post or a snapshot to give back. -/
def disableBusy (g : LegId) (s : State) : Bool :=
  (s.ingLeg g).record.isSome || (s.ing.pairing.elim false fun p => p.leg == g)

/-- LEG_DISABLE (R46, R68, R86, R188, R198): the leg is OFF and its waiting snapshot withdrawn, so that no choice of the dispatch
can grant it, and its blocks tear its work down at the same dispatch, in no stated order among them (log 7). -/
def serveLegDisable (p : List Byte) (s : State) : State × Reply :=
  match legOf (field p 0 1) with
  | none => (s, refuse .badValue)
  | some g =>
    let r := s.leg g
    if r.state = .off then (s, refuse .legState)
    else
      let s1 := withdrawSnapshot g (s.setLeg g { r with state := .off, settle := 0 })
      let ends := (sweepIdsOf (fun w => w.leg == g) s1).map fun id => endSweep id .legOff 0 0
      let s2 :=
        if disableBusy g s1 then together [ends ++ [choose], [disableIngress g]] s1
        else together [ends ++ [choose]] (disableIngress g s1)
      (s2, okReply (u8 r.state.code))

/-- LEG_GET (R47). -/
def serveLegGet (p : List Byte) (s : State) : State × Reply :=
  match legOf (field p 0 1) with
  | none => (s, refuse .badValue)
  | some g =>
    let r := s.leg g
    let group := match r.settings with
      | none => zeros 33
      | some t =>
        let c := (s.arith.cal.get g).getD ⟨0, 0⟩
        t.layout ++ u8 t.bandLow ++ u8 t.bandHigh ++ yesNo (s.plan.admissible t) ++ yesNo (s.plan.windowFree t)
          ++ le 2 c.q ++ leSigned 1 c.t
    (s, okReply (u8 r.state.code ++ yesNo r.settings.isSome ++ u8 r.level ++ u8 r.faults ++ le 2 r.settle ++ group))

/-! ### The spectrum plan -/

/-- The stored classes with a range written (R36). -/
def writeClasses (first : Nat) (cs : List BinClass) (stored : List BinClass) : List BinClass :=
  stored.take first ++ cs ++ stored.drop (first + cs.length)

/-- The sequencer's actions at a CLASS_SET: the QUEUED and ACQUIRING sweeps whose band is no longer admissible end EXCLUDED in
queue order, the acquisition in flight is judged, and the choice is made again (R37, R61, R67). -/
def classActions (s : State) : List (State → State) :=
  (sweepIdsOf (fun w => w.state != .analysing && !s.admissible w.leg) s).map (fun id => endSweep id .excluded 0 0)
    ++ [judgeClasses, choose]

/-- CLASS_SET (R35 to R37): the map changes whole, the transmit gate is judged against it, and the sequencer and the monitor
apply their rules in no stated order (log 7). -/
def serveClassSet (p : List Byte) (s : State) : State × Reply :=
  let first := field p 0 1
  let count := field p 1 1
  let limit := field p 2 1
  let classes := classesOf p
  if 63 < first ∨ 64 < count ∨ 64 < first + count ∨ classes.any (·.isNone) ∨ 64 < limit then (s, refuse .badValue)
  else
    let s1 := judgeGate (s.setPlan ⟨writeClasses first (classes.map (·.getD .fixed)) s.plan.stored, limit⟩)
    (together (classActions s1 :: quietBlocks s1) s1, okReply [])

/-- CLASS_GET (R38). -/
def serveClassGet (_p : List Byte) (s : State) : State × Reply :=
  (s, okReply (u8 s.plan.limit ++ (allBins.flatMap fun b => u8 (s.plan.stored.getD b .fixed).code)))

end Sys2Proof.Machine
end

