-- ==== Sys2Proof/Machine/Strays.lean ====
section
/-! DEFINITION. The stray reflector table (chapter 10): feeds, victims, ageing, invalidation, STRAY_LIST and STRAY_CLEAR. -/

namespace Sys2Proof.Machine

open Sys2Proof

/-- The cell of a distance (R164). -/
def cellOf (distance : Nat) : Nat := distance / 32

/-- The set of a cell (R164). -/
def setOf (cell : Nat) : Nat := cell % 16

/-- A set of the table. -/
def Strays.set (t : Strays) (i : Nat) : StraySet := t.sets.getD i .reset

/-- The table with a set replaced. -/
def Strays.setSet (t : Strays) (i : Nat) (v : StraySet) : Strays := { t with sets := t.sets.set i v }

/-- Whether an entry is valid with the tag (R164). -/
def StrayEntry.hasTag (g : LegId) (cell : Nat) (e : StrayEntry) : Bool := e.valid && e.leg == g && e.cell == cell

/-- The lowest-numbered way whose entry satisfies `p`. -/
def StraySet.findWay (p : StrayEntry → Bool) (t : StraySet) : Option (Fin 4) := allLegs.find? fun w => p (t.ways.get w)

/-- The replacement bits after a use of the way (R166). -/
def StraySet.use (w : Fin 4) (t : StraySet) : StraySet :=
  match w with
  | 0 => { t with pairBit := true, lowBit := true }
  | 1 => { t with pairBit := true, lowBit := false }
  | 2 => { t with pairBit := false, highBit := true }
  | 3 => { t with pairBit := false, highBit := false }

/-- The ways in the order R171 reaches them: the pair's choice, the other way of the pair, then the other pair's choice and
its other way. -/
def StraySet.victimOrder (t : StraySet) : List (Fin 4) :=
  let low : List (Fin 4) := if t.lowBit then [1, 0] else [0, 1]
  let high : List (Fin 4) := if t.highBit then [3, 2] else [2, 3]
  if t.pairBit then high ++ low else low ++ high

/-- The victim: the first way reached that holds a CANDIDATE, none when all are CONFIRMED (R171). -/
def StraySet.victim (t : StraySet) : Option (Fin 4) :=
  t.victimOrder.find? fun w => (t.ways.get w).state == .candidate

/-- The way a miss fills: the lowest way that is not valid, otherwise the victim (R170). -/
def StraySet.fillWay (t : StraySet) : Option (Fin 4) :=
  match t.findWay fun e => !e.valid with
  | some w => some w
  | none => t.victim

/-- An entry after a hit, before it is judged for confirmation (R168). -/
def StrayEntry.hit (distance amplitude time : Nat) (e : StrayEntry) : StrayEntry :=
  { e with sightings := satSucc 255 e.sightings, age := 0, distance := distance, amplitude := max e.amplitude amplitude
           lastSeen := time }

/-- A new entry (R170). -/
def StrayEntry.fresh (g : LegId) (distance amplitude time : Nat) : StrayEntry :=
  ⟨true, g, cellOf distance, distance, amplitude, 1, time, time, 0, .candidate⟩

/-- A CANDIDATE at or above the confirm count becomes CONFIRMED, which is to be reported (R169). -/
def StrayEntry.judge (confirmCount : Nat) (e : StrayEntry) : StrayEntry × Bool :=
  if e.state = .candidate ∧ confirmCount ≤ e.sightings then ({ e with state := .confirmed }, true) else (e, false)

/-- The STRAY_CONFIRMED report of an entry (R169). -/
def StrayEntry.report (set : Nat) (way : Fin 4) (e : StrayEntry) : Report :=
  .strayConfirmed e.leg e.cell set way.val e.distance e.amplitude e.sightings e.firstSeen e.lastSeen

/-- The table with the entry written into a way after its use, judged for confirmation, and the report if it was confirmed
(R166, R169). -/
def Strays.place (set : Nat) (way : Fin 4) (confirmCount : Nat) (e : StrayEntry) (t : Strays) : Strays × Option Report :=
  let (e1, confirmed) := e.judge confirmCount
  let v := ({ t.set set with ways := (t.set set).ways.set way e1 }).use way
  (t.setSet set v, if confirmed then some (e1.report set way) else none)

/-- One feed: a hit, a fill, or a drop that is counted (R167 to R172). -/
def Strays.feed (g : LegId) (distance amplitude time confirmCount : Nat) (t : Strays) : Strays × Option Report :=
  let cell := cellOf distance
  let i := setOf cell
  match (t.set i).findWay (StrayEntry.hasTag g cell) with
  | some w => t.place i w confirmCount (((t.set i).ways.get w).hit distance amplitude time)
  | none =>
    match (t.set i).fillWay with
    | some w => t.place i w confirmCount (.fresh g distance amplitude time)
    | none => ({ t with drops := t.drops.set g (satSucc 65535 (t.drops.get g)) }, none)

/-- A stray fed by the reconciler, its report posted (R156, R169). -/
def feedStray (g : LegId) (distance amplitude : Nat) (s : State) : State :=
  let (t, report) := s.stray.feed g distance amplitude s.time.timebase (s.legSettings g).confirmCount
  match report with
  | some r => post r (s.setStray t)
  | none => s.setStray t

/-- An entry is invalidated: it keeps its old field values (R165, R174). -/
def StrayEntry.invalidate (e : StrayEntry) : StrayEntry := { e with valid := false }

/-- Every way of every set rewritten; the replacement bits stay (R174). -/
def Strays.mapEntries (f : StrayEntry → StrayEntry) (t : Strays) : Strays :=
  { t with sets := t.sets.map fun v =>
      { v with ways := ⟨f v.ways.q0, f v.ways.q1, f v.ways.q2, f v.ways.q3⟩ } }

/-- The table after a reset: every entry is invalidated and keeps its other fields, the replacement bits are 0, and so are the drop
counts (R165, R174, R178). -/
def Strays.afterReset (t : Strays) : Strays :=
  ⟨(t.mapEntries .invalidate).sets.map fun v => { v with pairBit := false, lowBit := false, highBit := false }, Quad.all 0⟩

/-- Ageing of one entry of a reconciled leg: a CANDIDATE not fed in the reconciliation grows older and is dropped at the
limit (R173). -/
def StrayEntry.grow (g : LegId) (fedCells : List Nat) (limit : Nat) (e : StrayEntry) : StrayEntry :=
  if e.valid && e.leg == g && e.state == .candidate && !fedCells.contains e.cell then
    let e1 := { e with age := e.age + 1 }
    if limit ≤ e1.age then e1.invalidate else e1
  else e

/-- Ageing after the last feed of a DONE reconciliation of the leg (R157, R173). -/
def ageStrays (g : LegId) (fedCells : List Nat) (s : State) : State :=
  s.setStray (s.stray.mapEntries (StrayEntry.grow g fedCells (s.legSettings g).ageLimit))

/-- Every entry with its set and way, in set and way order. -/
def Strays.entries (t : Strays) : List (Nat × Fin 4 × StrayEntry) :=
  (List.range 16).flatMap fun i => allLegs.map fun w => (i, w, (t.set i).ways.get w)

/-- The number of valid entries that satisfy `p`. -/
def Strays.count (p : StrayEntry → Bool) (t : Strays) : Nat :=
  (t.entries.filter fun x => x.2.2.valid && p x.2.2).length

/-- The entries that satisfy `p` are invalidated; their number is the second part (R135, R174, R176). -/
def Strays.clear (p : StrayEntry → Bool) (t : Strays) : Strays × Nat :=
  (t.mapEntries fun e => if e.valid && p e then e.invalidate else e, t.count p)

/-- An entry put in its place in ascending latest distance (R175). -/
def insertStray (x : Nat × Fin 4 × StrayEntry) : List (Nat × Fin 4 × StrayEntry) → List (Nat × Fin 4 × StrayEntry)
  | [] => [x]
  | y :: ys => if x.2.2.distance ≤ y.2.2.distance then x :: y :: ys else y :: insertStray x ys

/-- A leg's valid entries in ascending latest distance (R175). -/
def Strays.listOf (g : LegId) (t : Strays) : List (Nat × Fin 4 × StrayEntry) :=
  (t.entries.filter fun x => x.2.2.valid && x.2.2.leg == g).foldr insertStray []

/-- STRAY_LIST (R175). -/
def serveStrayList (p : List Byte) (s : State) : State × Reply :=
  match legOf (field p 0 1) with
  | none => (s, refuse .badValue)
  | some g =>
    let page := field p 1 1
    if 3 < page then (s, refuse .badValue)
    else
      let all := s.stray.listOf g
      let shown := (all.drop (16 * page)).take 16
      (s, okReply (u8 g.val ++ u8 all.length ++ u8 (s.stray.count fun e => e.leg == g && e.state == .confirmed)
        ++ le 2 (s.stray.drops.get g) ++ u8 page ++ u8 shown.length
        ++ shown.flatMap fun x => x.2.2.layout x.1 x.2.1.val (s.stray.set x.1).bits))

/-- The valid entry with a tag (R176). -/
def Strays.find (g : LegId) (cell : Nat) (t : Strays) : Option StrayEntry :=
  ((t.set (setOf cell)).findWay (StrayEntry.hasTag g cell)).map fun w => (t.set (setOf cell)).ways.get w

/-- STRAY_CLEAR (R176): scope ONE_CELL 0, ALL 1; the option byte's bit 0 is INCLUDE_CONFIRMED. -/
def serveStrayClear (p : List Byte) (s : State) : State × Reply :=
  let scope := field p 1 1
  let cell := field p 2 2
  let option := field p 4 1
  match legOf (field p 0 1) with
  | none => (s, refuse .badValue)
  | some g =>
    if 1 < scope ∨ (scope = 0 ∧ 2047 < cell) ∨ 1 < option then (s, refuse .badValue)
    else
      let goes : StrayEntry → Bool := fun e => e.state == .candidate || option == 1
      if scope = 0 then
        match s.stray.find g cell with
        | none => (s, refuse .notFound)
        | some e =>
          let (t, n) := s.stray.clear fun x => x.hasTag g cell && goes x
          (s.setStray t, okReply (u8 n ++ u8 3 ++ u8 e.state.code ++ yesNo (goes e)))
      else
        let (t, n) := s.stray.clear fun x => x.leg == g && goes x
        (s.setStray t, okReply (u8 n ++ u8 0 ++ u8 0 ++ u8 0))

end Sys2Proof.Machine
end

