-- ==== Sys2Proof/Machine/Reconcile.lean ====
section
/-! DEFINITION. Reconciliation (chapter 9): distances, matching, condition classification, strays and ageing, probe-level
control and the end of the sweep; and the velocity calibration that goes before it (R123 to R125). -/

namespace Sys2Proof.Machine

open Sys2Proof

/-! ### The slot of a sweep -/

/-- The content of a slot rewritten. -/
def mapContent (i : SlotId) (f : SlotContent → SlotContent) (s : State) : State :=
  s.setSlot i { s.slot i with content := (s.slot i).content.map f }

/-- The peak list of a slot. -/
def peaksOf (s : State) (i : SlotId) : List Peak := ((s.slot i).content.bind (·.peaks)).getD []

/-! ### Distances (R145) -/

/-- A peak with its distance, and RANGE when it was clamped (R122, R145). -/
def Peak.measure (q d : Nat) (p : Peak) : Peak :=
  let r := toDistance q (p.t16.getD 0) d
  { p with distance := some r.1, range := r.2 }

/-! ### Choosing a peak near a distance (R123, R146) -/

/-- Whether peak `p` at distance `dp` is to be taken before `b` at `db`: nearer, or as near and of larger amplitude; peaks
are offered in ascending k, so the smaller k stays among equals. -/
def nearer (target : Nat) (p : Peak) (dp : Nat) (b : Peak) (db : Nat) : Bool :=
  let np := distanceBetween dp target
  let nb := distanceBetween db target
  decide (np < nb) || (np == nb && decide (b.amplitude < p.amplitude))

/-- The peak nearest a target distance within `reach`, by the distance `dist` gives it, ties by larger amplitude and then
smaller k. -/
def nearestPeak (target reach : Nat) (dist : Peak → Nat) (ps : List Peak) : Option Peak :=
  ps.foldl (fun best p =>
    if distanceBetween (dist p) target ≤ reach then
      match best with
      | none => some p
      | some b => if nearer target p (dist p) b (dist b) then some p else some b
    else best) none

/-! ### Matching (R146, R147) -/

/-- The elements in list order, each with the peak it is assigned, and the peaks left unassigned (R146). -/
def matchElements (tolerance : Nat) : List Element → List Peak → List (Element × Option Peak) × List Peak
  | [], free => ([], free)
  | e :: es, free =>
    match nearestPeak e.nominal tolerance (fun p => p.distance.getD 0) free with
    | none =>
      let r := matchElements tolerance es free
      ((e, none) :: r.1, r.2)
    | some p =>
      let r := matchElements tolerance es (free.filter fun x => x.k != p.k)
      ((e, some p) :: r.1, r.2)

/-- The peak list with the ids of the matched elements written in (R147). -/
def writeMatches (ms : List (Element × Option Peak)) (ps : List Peak) : List Peak :=
  ps.map fun p => { p with element := (ms.find? fun m => (m.2.map (·.k)) == some p.k).map fun m => m.1.id }

/-! ### Condition (R148 to R154) -/

/-- The state of a matched element with baseline `b` and amplitude `c` outside a BASELINE sweep (R151 to R153). -/
def classify (b c : Nat) : ElementState → ElementState
  | .watch =>
    if 32 * b ≤ 16 * c ∨ 16 * c ≤ 8 * b then .faulty
    else if 13 * b < 16 * c ∧ 16 * c < 20 * b then .nominal
    else .watch
  | .faulty =>
    if 13 * b < 16 * c ∧ 16 * c < 20 * b then .nominal
    else if 10 * b < 16 * c ∧ 16 * c < 28 * b then .watch
    else .faulty
  | _ =>
    if 32 * b ≤ 16 * c ∨ 16 * c ≤ 8 * b then .faulty
    else if 23 * b ≤ 16 * c ∨ 16 * c ≤ 11 * b then .watch
    else .nominal

/-- A matched element after the reconciliation (R148, R150 to R154). -/
def Element.matched (baselineSweep : Bool) (time : Nat) (p : Peak) (e : Element) : Element :=
  let e1 := { e with measured := p.distance, amplitude := some p.amplitude, lastSeen := some time, misses := 0 }
  if baselineSweep then { e1 with baseline := some p.amplitude, state := .nominal }
  else
    match e.baseline with
    | some b => { e1 with state := classify b p.amplitude e.state }
    | none => { e1 with state := .unbased }

/-- An unmatched element after the reconciliation (R149). -/
def Element.missed (missLimit : Nat) (e : Element) : Element :=
  let n := satSucc 15 e.misses
  { e with misses := n, state := if missLimit ≤ n then .missing else e.state }

/-- An element after the reconciliation. -/
def reconcileElement (t : Settings) (baselineSweep : Bool) (time : Nat) (m : Element × Option Peak) : Element :=
  match m.2 with
  | some p => m.1.matched baselineSweep time p
  | none => m.1.missed t.missLimit

/-- The ELEMENT_CHANGE report of an element, if its state changed (R155). -/
def elementReport (t : Settings) (baselineSweep : Bool) (time : Nat) (g : LegId) (sweepId : Nat)
    (m : Element × Option Peak) : Option Report :=
  let e := reconcileElement t baselineSweep time m
  if e.state = m.1.state then none
  else
    some (.elementChange g e.id sweepId m.1.state e.state ((m.2.bind (·.distance)).getD e.nominal) e.misses time
      (m.2.map (·.amplitude)) e.baseline)

/-! ### Reconciliation (R144) -/

/-- How the anchor stood in the matching (R158). -/
def anchorMatch (ms : List (Element × Option Peak)) : AnchorMatch :=
  match ms.find? fun m => m.1.anchor with
  | none => .noAnchor
  | some (_, none) => .unmatched
  | some (_, some p) => .matched p.amplitude

/-- Step 1: every peak's distance, the temperature and Q_eff used, and the RANGE flag (R145). -/
def measurePeaks (w : Sweep) (s : State) : State :=
  let q := s.qEff w.leg
  let ps := (peaksOf s w.slot).map (Peak.measure q (s.legSettings w.leg).chipDivider)
  let s1 := mapContent w.slot (fun c =>
    { c with peaks := some ps, temperature := some s.arith.temperature, qEff := some q }) s
  s1.updateSweep w.id fun x => { x with flags := { x.flags with range := x.flags.range || ps.any (·.range) } }

/-- Steps 2 and 3: elements matched, updated and classified, each change of state reported (R146 to R155). -/
def updateElements (w : Sweep) (ms : List (Element × Option Peak)) (s : State) : State :=
  let t := s.legSettings w.leg
  let time := s.time.timebase
  let s1 := mapContent w.slot (fun c => { c with peaks := c.peaks.map (writeMatches ms) }) s
  let s2 := s1.setElements w.leg (ms.map (reconcileElement t w.options.baseline time))
  (ms.filterMap (elementReport t w.options.baseline time w.leg w.id)).foldl (fun u r => post r u) s2

/-- Step 4: every unassigned peak fed to the stray table, in ascending k (R156). -/
def feedStrays (g : LegId) (ps : List Peak) (s : State) : State :=
  ps.foldl (fun u p => feedStray g (p.distance.getD 0) p.amplitude u) s

/-- Reconciliation of a sweep, in the seven steps of R144, and the leg fault that may follow (R160). -/
def reconcile (id : Nat) (s : State) : State :=
  match s.findSweep id with
  | none => s
  | some w =>
    let g := w.leg
    let s1 := measurePeaks w s
    let (ms, free) := matchElements (s.legSettings g).tolerance (s1.elements g) (peaksOf s1 w.slot)
    let s2 := updateElements w ms s1
    let s3 := ageStrays g (free.map fun p => cellOf (p.distance.getD 0)) (feedStrays g free s2)
    let s4 := levelDone g (anchorMatch ms) (w.levelUsed.getD 0) s3
    let s5 := endSweep id .done (ms.filter fun m => m.2.isSome).length free.length s4
    if faultsNow s4 g then faultLeg g id s5 else s5

/-! ### Velocity calibration (R123 to R125) -/

/-- A flag of a sweep's record set. -/
def flagSweep (id : Nat) (f : SweepFlags → SweepFlags) (s : State) : State :=
  s.updateSweep id fun x => { x with flags := f x.flags }

/-- CAL_FAILED is set and the sweep passes to reconciliation (R123, R125). -/
def calFailed (id : Nat) (s : State) : State := reconcile id (flagSweep id (fun f => { f with calFailed := true }) s)

/-- The anchor's peak: the refined peak whose provisional distance lies nearest the anchor within four tolerances (R123). -/
def anchorPeak (s : State) (w : Sweep) (a : Element) : Option Peak :=
  let t := s.legSettings w.leg
  let q := s.qEff w.leg
  nearestPeak a.nominal (4 * t.tolerance) (fun p => (toDistance q (p.t16.getD 0) t.chipDivider).1) (peaksOf s w.slot)

/-- The anchor search of a CALIBRATE sweep: a CAL job for the divider, or CAL_FAILED (R123, R124). -/
def anchorSearch (id : Nat) (s : State) : State :=
  match s.findSweep id with
  | none => s
  | some w =>
    match s.anchor w.leg with
    | none => calFailed id s
    | some a =>
      match anchorPeak s w a with
      | none => calFailed id s
      | some p =>
        handBatch [(.cal id a.id a.nominal, 40960 * a.nominal,
          p.t16.getD 0 * (s.legSettings w.leg).chipDivider, w.options.round)] s

/-- The stage after a sweep's peaks: the anchor search for a CALIBRATE sweep, otherwise reconciliation (R117, R143). -/
def afterRefinement (w : Sweep) (s : State) : State :=
  if w.options.calibrate then anchorSearch w.id s else reconcile w.id s

/-- Whether the leg's present anchor is still the job's (R125, check 1). -/
def anchorUnchanged (s : State) (g : LegId) (anchorId distance : Nat) : Bool :=
  match s.anchor g with
  | some a => a.id == anchorId && a.nominal == distance
  | none => false

/-- The result of a CAL job judged, and the sweep passed to reconciliation (R125). -/
def judgeCal (id anchorId distance : Nat) (result : Option (Nat × Nat)) (s : State) : State :=
  match s.findSweep id with
  | none => s
  | some w =>
    match anchorUnchanged s w.leg anchorId distance, result with
    | true, some (q, _) =>
      if 9593 ≤ q ∧ q ≤ 19187 then
        reconcile id (flagSweep id (fun f => { f with calDone := true })
          (setCal w.leg ⟨q, s.arith.temperature⟩ s))
      else calFailed id s
    | _, _ => calFailed id s

end Sys2Proof.Machine
end

