-- ==== Sys2Proof/Machine/Profiles.lean ====
section
/-! DEFINITION. The profile store (R94 to R106): normalisation, trim, the peak search, the event ANALYSIS_COMPLETE, and the
requests PROFILE_READ and PEAKS_READ. -/

namespace Sys2Proof.Machine

open Sys2Proof

/-- Normalisation of one accumulator entry (R98). -/
def normalise (round : Bool) (n acc : Nat) : Nat := (acc + if round then n / 2 else 0) / n

/-- The factor m of a trim code, in 64ths (R99). -/
def trimFactor : Nat → Nat
  | 1 => 60
  | 2 => 62
  | 3 => 63
  | 4 => 68
  | 5 => 66
  | 6 => 65
  | _ => 64

/-- Trim of one amplitude (R99). -/
def trimAmplitude (code a : Nat) : Nat := min 65535 (a * trimFactor code / 64)

/-- The trimmed profile of an accumulator (R98, R99). -/
def trimmedProfile (round : Bool) (n code : Nat) (acc : List Nat) : List Nat :=
  acc.map fun a => trimAmplitude code (normalise round n a)

/-- The peak test of a bin, given its left neighbour, itself and its right neighbour (R100). -/
def isPeak (floor left mid right : Nat) : Bool :=
  decide (floor ≤ mid) && decide (left < mid) && decide (right ≤ mid)

/-- The peaks found from bin k on, given the amplitudes from bin k - 1 on: bins above the blank with a right neighbour
(R100). -/
def findPeaks (floor blank : Nat) : Nat → List Nat → List (Nat × Nat)
  | k, left :: mid :: right :: rest =>
    let found := findPeaks floor blank (k + 1) (mid :: right :: rest)
    if blank < k ∧ isPeak floor left mid right then (k, mid) :: found else found
  | _, _ => []

/-- A found peak put in its place by amplitude, larger first, the smaller bin first among equals (R101). -/
def insertByAmplitude (x : Nat × Nat) : List (Nat × Nat) → List (Nat × Nat)
  | [] => [x]
  | y :: ys => if y.2 ≤ x.2 then x :: y :: ys else y :: insertByAmplitude x ys

/-- The peaks kept when more than 32 are found, in ascending k: those among the first 32 by amplitude (R101). -/
def keepPeaks (found : List (Nat × Nat)) : List (Nat × Nat) :=
  if found.length ≤ 32 then found
  else
    let kept := (found.foldr insertByAmplitude []).take 32
    found.filter fun x => kept.contains x

/-- A peak record as the peak search makes it (R102). -/
def Peak.fresh (x : Nat × Nat) : Peak := ⟨x.1, x.2, none, none, none, none, false⟩

/-- The REFINE batch of a sweep: one job per peak, in ascending k (R108, R116). -/
def refineBatch (id : Nat) (profile : List Nat) (ps : List Peak) : List (JobOwner × Nat × Nat × Bool) :=
  ps.map fun p =>
    let o := refineOperands profile p.k
    (.refineSweep id p.k, o.1, o.2, false)

/-- What the profile store does with a sweep at the completion of its analysis (R97 to R103). -/
def completeAnalysis (w : Sweep) (acc : List Nat) (s : State) : State :=
  let t := s.legSettings w.leg
  let profile := trimmedProfile w.options.round w.n t.trim acc
  let found := findPeaks t.floor t.blank 1 profile
  let ps := (keepPeaks found).map Peak.fresh
  let s1 := mapContent w.slot (fun c =>
    { c with acc := none, analysisStart := none, profile := some profile, peaks := some ps }) s
  let s2 := flagSweep w.id (fun f => { f with peaksTruncated := f.peaksTruncated || decide (32 < found.length) }) s1
  if w.flags.clipped then endSweep w.id .doneClipped 0 0 (levelClipped w.leg s2)
  else if ps.isEmpty then afterRefinement w s2
  else handBatch (refineBatch w.id profile ps) s2

/-- ANALYSIS_COMPLETE (R97, R103): the analysis of a slot completes at an instant after it began, no later than 20 µs
after. -/
def execAnalysisComplete (after : Nat) (slot : SlotId) (s : State) : Host.Outcome State Fault Refusal :=
  s.live <|
    match (s.slot slot).state, (s.slot slot).content with
    | .analysing, some c =>
      match c.analysisStart, c.acc, s.findSweep c.sweepId with
      | some start, some acc, some w =>
        completeAnalysis w acc (s.atEndOfWork after start 4000)
      | _, _, _ => s
    | _, _ => s

/-- The state check of PROFILE_READ and PEAKS_READ (R105, R106): the content of a READY slot, or the refusal. -/
def readySlot (v : Slot) : Except Status SlotContent :=
  match v.state, v.content with
  | .ready, some c => .ok c
  | .free, _ => .error .notFound
  | .ready, none => .error .notFound
  | _, _ => .error .pending

/-- PROFILE_READ (R105). -/
def serveProfileRead (p : List Byte) (s : State) : State × Reply :=
  let page := field p 1 1
  match legOf (field p 0 1) with
  | none => (s, refuse .badValue)
  | some slot =>
    match readySlot (s.slot slot) with
    | .error st => (s, refuse st)
    | .ok c =>
      if c.k / 256 ≤ page then (s, refuse .badValue)
      else
        let shown := ((c.profile.getD []).drop (256 * page)).take 256
        (s, okReply (c.header ++ u8 page ++ shown.flatMap (le 2)))

/-- PEAKS_READ (R106). -/
def servePeaksRead (p : List Byte) (s : State) : State × Reply :=
  match legOf (field p 0 1) with
  | none => (s, refuse .badValue)
  | some slot =>
    match readySlot (s.slot slot) with
    | .error st => (s, refuse st)
    | .ok c =>
      let ps := c.peaks.getD []
      (s, okReply (c.header ++ u8 (bitsOf [c.temperature.isSome, c.qEff.isSome])
        ++ leSigned 1 (c.temperature.getD 0) ++ leOpt 2 c.qEff ++ u8 ps.length ++ ps.flatMap Peak.layout))

end Sys2Proof.Machine
end

