-- ==== Sys2Proof/Machine/Correlator.lean ====
section
/-! DEFINITION. The correlator's jobs (R89 to R93): the cross-correlation and the autocorrelation, and the events
ACQUISITION_JOB_COMPLETE and SNAPSHOT_JOB_COMPLETE. -/

namespace Sys2Proof.Machine

open Sys2Proof

/-- The sum over i of c_i · x[2i]: the code against every second sample (R90). -/
def correlateCode : List Int → List Int → Int
  | c :: cs, x :: _ :: xs => c * x + correlateCode cs xs
  | c :: _, [x] => c * x
  | _, _ => 0

/-- C[k] (R90). -/
def crossCorrelation (l : Nat) (samples : List Int) (k : Nat) : Nat :=
  min 65535 ((correlateCode (chips l) (samples.drop k)).natAbs / 16)

/-- The sum of products of two runs of samples (R92). -/
def dotProduct : List Int → List Int → Int
  | x :: xs, y :: ys => x * y + dotProduct xs ys
  | _, _ => 0

/-- R[k] (R92). -/
def autoCorrelation (k : Nat) (samples : List Int) (lag : Nat) : Nat :=
  min 65535 ((dotProduct (samples.take k) (samples.drop lag)).natAbs / 64)

/-- The signed samples of a half. -/
def Half.signed (h : Half) : List Int := h.samples.map fun x => x.toInt

/-- C added into an accumulator (R91). -/
def addProfile (acc c : List Nat) : List Nat := List.zipWith (· + ·) acc c

/-- The correlator's half is freed and the correlator becomes IDLE (R89). -/
def endJob (h : HalfId) (s : State) : State := (releaseHalf h s).setCor ⟨none⟩

/-- After a job the correlator takes the next FULL half, and the choice is made again (R89). -/
def afterJob (s : State) : State := choose (correlatorTake s)

/-- The result of an acquisition half added into its sweep's slot: done rises, the clip mark is carried over, and at done N
the analysis begins (R63, R91, R95, R97). -/
def addCapture (w : Sweep) (h : Half) (l k : Nat) (s : State) : State :=
  let x := h.signed
  let c := (List.range k).map (crossCorrelation l x)
  let finished := w.done + 1 == w.n
  let s1 := s.updateSweep w.id fun v =>
    { v with done := v.done + 1, flags := { v.flags with clipped := v.flags.clipped || h.clip }
             state := if finished then .analysing else v.state }
  let s2 := mapContent w.slot (fun v => { v with
    acc := v.acc.map fun a => addProfile a c
    analysisStart := if finished then some s.time.clock else v.analysisStart }) s1
  if finished then s2.setSlot w.slot { s2.slot w.slot with state := .analysing } else s2

/-- ACQUISITION_JOB_COMPLETE (R89 to R91): at an instant after the take, no later than L·K/2 ns after it. -/
def execAcquisitionJobComplete (after : Nat) (s : State) : Host.Outcome State Fault Refusal :=
  s.live <|
    match s.cor.job with
    | none => s
    | some j =>
      let v := s.cap.half j.half
      match v.owner with
      | some (.acquisition id _ l k) =>
        let s1 := s.atEndOfWork after j.takenAt (l * k / 10)
        let s2 := match s1.findSweep id with
          | some w => addCapture w v l k s1
          | none => s1
        afterJob (endJob j.half s2)
      | _ => s

/-- SNAPSHOT_JOB_COMPLETE (R89, R92, R93, R196): at an instant after the take, no later than K·K/2 ns after it. -/
def execSnapshotJobComplete (after : Nat) (s : State) : Host.Outcome State Fault Refusal :=
  s.live <|
    match s.cor.job with
    | none => s
    | some j =>
      let v := s.cap.half j.half
      match v.owner with
      | some (.snapshot g k) =>
        let s1 := s.atEndOfWork after j.takenAt (k * k / 10)
        let s2 :=
          if s1.prof.lag.state = .correlating ∧ s1.prof.lag.leg = some g then
            searchLag g (s1.setLag { s1.prof.lag with
              state := .refining, profile := some ((List.range k).map (autoCorrelation k v.signed)) })
          else s1
        afterJob (endJob j.half s2)
      | _ => s

end Sys2Proof.Machine
end

