-- ==== Sys2Proof/Machine/Results.lean ====
section
/-! DEFINITION. The event DIVISION_COMPLETE: a division's result handed to its owner (R111, R114, R117, R125, R197). -/

namespace Sys2Proof.Machine

open Sys2Proof

/-- The offset f of a REFINE quotient (R116). -/
def offsetOf (quotient : Nat) : Int := (quotient : Int) - 8

/-- The offset and refined delay written into the peak record of bin k (R117). -/
def writeRefined (w : Sweep) (k quotient : Nat) (s : State) : State :=
  mapContent w.slot (fun c => { c with
    peaks := c.peaks.map fun ps => ps.map fun p =>
      if p.k = k then { p with f := some (offsetOf quotient), t16 := some (16 * k + quotient - 8) } else p }) s

/-- The result of a job handed to its owner, or discarded when the owner has gone (R114). -/
def handResult (j : Job) (s : State) : State :=
  match j.owner with
  | .refineSweep id k =>
    match s.findSweep id, j.result with
    | some w, some (q, _) =>
      let s1 := writeRefined w k q s
      if j.last then afterRefinement w s1 else s1
    | _, _ => s
  | .refinePairing g =>
    if s.prof.lag.state = .refining ∧ s.prof.lag.leg = some g then
      match j.result with
      | some (q, _) => pairingResult g q s
      | none => s
    else s
  | .cal id anchorId distance => judgeCal id anchorId distance j.result s

/-- DIVISION_COMPLETE (R111): 180 ns after its start, or 40 ns with OVERFLOW, the job completes; its result goes to its owner
and the divider starts the next job. -/
def execDivisionComplete (s : State) : Host.Outcome State Fault Refusal :=
  s.live <|
    match s.div.running with
    | none => s
    | some r =>
      let s1 := s.atClock (r.startClock + r.job.cycles)
      let s2 := handResult r.job (s1.setDiv { s1.div with running := none })
      s2.setDiv (s2.div.pump s2.time.clock)

end Sys2Proof.Machine
end

