-- ==== Sys2Proof/Machine/SpanMap.lean ====
section
/-! DEFINITION. The span map (chapter 8): ELEMENT_PUT, ELEMENT_DROP, MAP_CLEAR, MAP_READ and SCORE_CLEAR. -/

namespace Sys2Proof.Machine

open Sys2Proof

/-- A new element record, its condition cleared (R130, R132). -/
def Element.fresh (id : Nat) (kind : ElementKind) (anchor : Bool) (nominal : Nat) : Element :=
  ⟨id, kind, anchor, nominal, none, none, none, .unbased, 0, 0, none⟩

/-- An element put in its place in ascending nominal distance (R132). -/
def insertElement (e : Element) : List Element → List Element
  | [] => [e]
  | x :: xs => if e.nominal ≤ x.nominal then e :: x :: xs else x :: insertElement e xs

/-- The map revision raised by one, wrapping (R136). -/
def nextRevision (r : Nat) : Nat := (r + 1) % 65536

/-- A leg's list after an edit, with its revision raised (R136). -/
def editMap (g : LegId) (es : List Element) (s : State) : State :=
  s.setMap (s.map.set g ⟨es, nextRevision (s.map.get g).revision⟩)

/-- Whether the placement would break the order of end and line against the other elements (R131, check 4). -/
def breaksLine (kind : ElementKind) (distance : Nat) (others : List Element) : Bool :=
  match kind with
  | .eol => others.any fun e => decide (distance ≤ e.nominal) || e.kind == .eol
  | _ => others.any fun e => e.kind == .eol && decide (e.nominal ≤ distance)

/-- The list after a put: the record in its place, the anchor flag settled (R132 to R134). -/
def putElement (e : Element) (others : List Element) : List Element :=
  insertElement e (if e.anchor then others.map fun x => { x with anchor := false } else others)

/-- ELEMENT_PUT (R131 to R136). -/
def serveElementPut (p : List Byte) (s : State) : State × Reply :=
  let id := field p 1 1
  let distance := field p 3 2
  match legOf (field p 0 1), elementKindOf (field p 2 1), yesNoOf (field p 5 1) with
  | some g, some kind, some anchor =>
    let es := s.elements g
    let old := es.find? fun e => e.id == id
    let others := es.filter fun e => e.id != id
    if id = 0 then (s, refuse .badValue)
    else if old.isNone && decide (48 ≤ es.length) then (s, refuse .noRoom)
    else if others.any fun e => e.nominal == distance then (s, refuse .duplicate)
    else if breaksLine kind distance others then (s, refuse .badValue)
    else
      let es' := putElement (.fresh id kind anchor distance) others
      let near : StrayEntry → Bool := fun e =>
        match (s.leg g).settings with
        | some t => e.leg == g && decide (distanceBetween e.distance distance ≤ t.tolerance)
        | none => false
      let (strays, n) := s.stray.clear near
      let s1 := editMap g es' (s.setStray strays)
      let tail := u8 es'.length ++ u8 n ++ le 2 (s1.map.get g).revision
      match old with
      | none => (s1, okReply (u8 0 ++ tail ++ u8 0 ++ u8 0 ++ u8 0))
      | some e => (s1, okReply (u8 1 ++ tail ++ u8 3 ++ u8 e.state.code ++ u8 e.score))
  | _, _, _ => (s, refuse .badValue)

/-- ELEMENT_DROP (R137). -/
def serveElementDrop (p : List Byte) (s : State) : State × Reply :=
  let id := field p 1 1
  match legOf (field p 0 1) with
  | none => (s, refuse .badValue)
  | some g =>
    if id = 0 then (s, refuse .badValue)
    else
      match (s.elements g).find? fun e => e.id == id with
      | none => (s, refuse .notFound)
      | some e =>
        let s1 := editMap g ((s.elements g).filter fun x => x.id != id) s
        (s1, okReply (u8 e.kind.code ++ le 2 e.nominal ++ yesNo e.anchor ++ u8 e.state.code ++ u8 e.score
          ++ le 2 (s1.map.get g).revision))

/-- MAP_CLEAR (R138). -/
def serveMapClear (p : List Byte) (s : State) : State × Reply :=
  match legOf (field p 0 1) with
  | none => (s, refuse .badValue)
  | some g =>
    let s1 := editMap g [] s
    (s1, okReply (u8 (s.elements g).length ++ le 2 (s1.map.get g).revision))

/-- MAP_READ (R140). -/
def serveMapRead (p : List Byte) (s : State) : State × Reply :=
  let page := field p 1 1
  match legOf (field p 0 1) with
  | none => (s, refuse .badValue)
  | some g =>
    if 2 < page then (s, refuse .badValue)
    else
      let es := s.elements g
      let shown := (es.drop (16 * page)).take 16
      (s, okReply (u8 g.val ++ le 2 (s.map.get g).revision ++ u8 es.length ++ u8 page ++ u8 shown.length
        ++ shown.flatMap Element.layout))

/-- SCORE_CLEAR (R141). -/
def serveScoreClear (p : List Byte) (s : State) : State × Reply :=
  let id := field p 1 1
  match legOf (field p 0 1) with
  | none => (s, refuse .badValue)
  | some g =>
    let es := s.elements g
    let named : Element → Bool := fun e => id == 0 || e.id == id
    if id ≠ 0 ∧ !es.any named then (s, refuse .notFound)
    else
      (s.setElements g (es.map fun e => if named e then { e with score := 0 } else e),
        okReply (u8 (es.filter named).length ++ le 2 ((es.filter named).map (·.score)).sum))

end Sys2Proof.Machine
end

