-- ==== Sys2Proof/Machine/Windows.lean ====
section
/-! DEFINITION. The window scheduler (chapter 2): TIME_SET, TIME_GET, WINDOW_GRANT, WINDOW_REVOKE, WINDOW_LIST and the events
WINDOW_OPEN and WINDOW_CLOSE. -/

namespace Sys2Proof.Machine

open Sys2Proof

/-- The window table replaced. -/
def State.setTable (s : State) (t : List Window) : State := s.setWin { s.win with table := t }

/-- A window as it opens (R26). -/
def Window.opens (w : Window) : Window := { w with state := .opened, made := 0 }

/-- The window of an id opens, and the neighbours are informed: the sequencer chooses again; the monitor, which reads the
OPEN window at its scans, has nothing to write (R26, R32, R58, R179). -/
def openWindowAt (id : Nat) (s : State) : State :=
  choose (s.setTable (s.win.table.map fun w => if w.id = id then w.opens else w))

/-- The WINDOW_CLOSED report of a window at a time (R31). -/
def windowClosed (w : Window) (time : Nat) (revoked : Bool) : Report :=
  .windowClosed w.id w.legs w.start w.stop time w.made revoked

/-- A window that has left the table is reported, and the neighbours are informed: the report, the sequencer's choice and the
monitor's forced detectors, which may post BURST_END, come in no stated order (R10, R32, R179; log 7). The transmit gate, which
touches none of them, has been judged (R79). -/
def informClosing (r : Report) (s : State) : State :=
  match quietBlocks s with
  | [] => choose (post r s)
  | quiet => together ([post r] :: [choose] :: quiet) s

/-! ### Events -/

/-- The next window to open: the first record, when no window is OPEN (R22). -/
def nextToOpen (s : State) : Option Window := if s.openWindow.isSome then none else s.win.table.head?

/-- WINDOW_OPEN (R26): the timebase reaches the start of the first PENDING window while none is OPEN. -/
def execWindowOpen (s : State) : Host.Outcome State Fault Refusal :=
  s.live <|
    match nextToOpen s with
    | some w => openWindowAt w.id (s.passTo (s.time.reachTimebase w.start))
    | none => s

/-- The table after the OPEN window has closed on time: an adjacent window opens in the same event (R27). -/
def closedTable (stop : Nat) : List Window → List Window
  | w :: rest => if w.start = stop then w.opens :: rest else w :: rest
  | [] => []

/-- WINDOW_CLOSE (R27): the timebase reaches the OPEN window's end. -/
def execWindowClose (s : State) : Host.Outcome State Fault Refusal :=
  s.live <|
    match s.openWindow with
    | none => s
    | some w =>
      let s1 := s.passTo (s.time.reachTimebase w.stop)
      let rest := s1.win.table.filter fun x => x.id != w.id
      informClosing (windowClosed w s1.time.timebase false) (judgeGate (s1.setTable (closedTable w.stop rest)))

/-! ### Requests -/

/-- TIME_GET (R19). -/
def serveTimeGet (_p : List Byte) (s : State) : State × Reply := (s, okReply (le 6 s.time.timebase))

/-- Windows judged against a new timebase value: the missed are posted and removed, in table order (R21, R31). -/
def missWindows (before after : Nat) (s : State) : State :=
  let missed := s.win.table.filter fun w => decide (w.stop ≤ after)
  missed.foldl (fun t w => post (.windowMissed w.id w.legs w.start w.stop before after) t)
    (s.setTable (s.win.table.filter fun w => decide (after < w.stop)))

/-- The window that straddles a new value opens at once (R21). -/
def openStraddling (after : Nat) (s : State) : State :=
  match s.win.table.find? fun w => decide (w.start ≤ after) with
  | some w => openWindowAt w.id s
  | none => s

/-- TIME_SET (R20, R21). -/
def serveTimeSet (p : List Byte) (s : State) : State × Reply :=
  let v := field p 0 6
  if s.openWindow.isSome then (s, refuse .busy)
  else
    let before := s.time.timebase
    let s1 := cutRecords s
    let s2 := s1.setTime { s1.time with timebase := v }
    (openStraddling v (missWindows before v s2), okReply (le 6 before))

/-- Two spans overlap when each one's start is before the other's end (R22). -/
def overlaps (start stop : Nat) (w : Window) : Bool := decide (start < w.stop) && decide (w.start < stop)

/-- A window put in its place in ascending start (R22, R25). -/
def insertWindow (w : Window) : List Window → List Window
  | [] => [w]
  | x :: xs => if w.start < x.start then w :: x :: xs else x :: insertWindow w xs

/-- WINDOW_GRANT (R23 to R25). -/
def serveWindowGrant (p : List Byte) (s : State) : State × Reply :=
  let start := field p 0 6
  let length := field p 6 4
  let legs := field p 10 1
  let now := s.time.timebase
  if length < 50 ∨ 65535 < length ∨ legs = 0 ∨ 15 < legs ∨ 281474976710655 < start + length then (s, refuse .badValue)
  else if start < now then (s, refuse .late)
  else if s.win.table.any (overlaps start (start + length)) then (s, refuse .overlap)
  else if 4 ≤ s.win.table.length then (s, refuse .noRoom)
  else
    let id := allocateId 5 s.win.nextId (s.win.table.map (·.id))
    let w : Window := ⟨id, start, start + length, legSetOf legs, .pending, 0⟩
    let s1 := s.setWin ⟨insertWindow w s.win.table, nextIdAfter id⟩
    (if start = now ∧ s.openWindow.isNone then openWindowAt id s1 else s1, okReply (u8 id))

/-- WINDOW_REVOKE (R28, R29). -/
def serveWindowRevoke (p : List Byte) (s : State) : State × Reply :=
  match s.win.table.find? fun w => w.id == field p 0 1 with
  | none => (s, refuse .notFound)
  | some w =>
    let s1 := s.setTable (s.win.table.filter fun x => x.id != w.id)
    match w.state with
    | .pending => (s1, okReply (u8 w.state.code))
    | .opened =>
      (informClosing (windowClosed w s.time.timebase true) (judgeGate (judgeRevoked w.id s1)), okReply (u8 w.state.code))

/-- WINDOW_LIST (R30). -/
def serveWindowList (_p : List Byte) (s : State) : State × Reply :=
  (s, okReply (le 6 s.time.timebase ++ u8 s.win.table.length ++ s.win.table.flatMap Window.layout))

end Sys2Proof.Machine
end

