-- ==== Sys2Proof/Machine/Message.lean ====
section
/-! DEFINITION. The message controller (chapter 1): the receive assembler, the request list and its dispatch to the owners of
the requests, the reply slot, the transmitter, the two resets, and the events BYTE_ARRIVAL, FRAME_DELAY_EXPIRY, FRAME_SENT and
POWER_UP. -/

namespace Sys2Proof.Machine

open Sys2Proof

/-! ### STATUS_GET and RESTART (R14, R15) -/

/-- STATUS_GET (R14). -/
def serveStatusGet (_p : List Byte) (s : State) : State × Reply :=
  (s, okReply (le 6 s.time.timebase ++ leSigned 1 s.arith.temperature ++ (allLegs.flatMap fun g => u8 (s.leg g).state.code)
    ++ u8 s.seq.queue.length ++ u8 s.div.queue.length ++ u8 s.msg.reports.length ++ u8 s.ing.log.length
    ++ le 2 s.msg.frameErrors ++ le 2 s.msg.reportsLost ++ le 2 s.ing.discards))

/-- RESTART (R15, step 1): an OK reply, and dispatch stops. -/
def serveRestart (_p : List Byte) (s : State) : State × Reply :=
  (s.setMsg { s.msg with dispatching := false }, ⟨.ok, [], true⟩)

/-! ### Dispatch (R8) -/

/-- The block that owns a request kind in use serves it (R8, step 3). -/
def serveKind (kind : Byte) (p : List Byte) (s : State) : State × Reply :=
  match kind.toNat with
  | 0x01 => serveStatusGet p s
  | 0x02 => serveRestart p s
  | 0x03 => serveTimeSet p s
  | 0x04 => serveTimeGet p s
  | 0x08 => serveWindowGrant p s
  | 0x09 => serveWindowRevoke p s
  | 0x0A => serveWindowList p s
  | 0x10 => serveLegSet p s
  | 0x11 => serveLegEnable p s
  | 0x12 => serveLegDisable p s
  | 0x13 => serveLegGet p s
  | 0x14 => serveClassSet p s
  | 0x15 => serveClassGet p s
  | 0x18 => serveSweepReq p s
  | 0x19 => serveSweepCancel p s
  | 0x1A => serveSweepList p s
  | 0x1B => serveProfileRead p s
  | 0x1C => servePeaksRead p s
  | 0x20 => serveElementPut p s
  | 0x21 => serveElementDrop p s
  | 0x22 => serveMapClear p s
  | 0x23 => serveMapRead p s
  | 0x24 => serveScoreClear p s
  | 0x28 => serveStrayList p s
  | 0x29 => serveStrayClear p s
  | 0x2C => serveIngressSet p s
  | 0x2D => serveSurveyOpen p s
  | 0x2E => serveSurveyClose p s
  | 0x2F => serveSurveyRead p s
  | 0x30 => serveLogTake p s
  | 0x31 => serveWatchGet p s
  | _ => (s, refuse .badKind)

/-- A dispatched request checked and served: its effect and its reply (R8). -/
def serve (f : Frame) (s : State) : State × Reply :=
  if !kindsInUse.contains f.kind.toNat then (s, refuse .badKind)
  else if !lengthAllowed f.kind f.payload then (s, refuse .badLength)
  else serveKind f.kind f.payload s

/-- The reply of a request placed in the reply slot; an IDLE transmitter takes it at once (R8, R11, R12). -/
def placeReply (f : Frame) (r : Reply) (s : State) : State :=
  s.setMsg (Message.kick s.time.clock { s.msg with slot := some ⟨r.frame f.kind f.tag, r.restart⟩ })

/-- A request dispatched. The reports it posts join the queue while the mark `hold` keeps an IDLE transmitter from them; the
reply and those reports become ready at one moment, and which of them an IDLE transmitter takes first is free (R12; log 8). -/
def dispatch (f : Frame) (s : State) : State :=
  let held := serve f (s.setMsg { s.msg with hold := true })
  let calm := held.1.setMsg { held.1.msg with hold := false }
  if calm.msg.tx.isSome || calm.msg.reports.isEmpty then placeReply f held.2 calm
  else
    let t := calm.setDraws (calm.draws + 1)
    if Config.replyFirst calm.draws then placeReply f held.2 t
    else placeReply f held.2 (t.setMsg (Message.kick t.time.clock t.msg))

/-- Requests are dispatched, oldest first, while one waits, the reply slot is empty and dispatch runs (R8); at most `fuel`. -/
def dispatchFor : Nat → State → State
  | 0, s => s
  | fuel + 1, s =>
    match s.msg.requests with
    | [] => s
    | f :: rest =>
      if s.msg.slot.isNone && s.msg.dispatching then
        dispatchFor fuel (dispatch f (s.setMsg { s.msg with requests := rest }))
      else s

/-- The dispatch test of R8, made until it fails: no dispatch adds a request, so the list's length bounds it. -/
def dispatchWaiting (s : State) : State := dispatchFor s.msg.requests.length s

/-- The frame-error count raised by one, saturating (R6). -/
def countFrameError (s : State) : State :=
  s.setMsg { s.msg with frameErrors := satSucc 65535 s.msg.frameErrors }

/-- A good frame completes on the line: it joins the request list of 8 and the dispatch test is made, or it is an overrun
(R4, R7, R8). -/
def offerRequest (f : Frame) (s : State) : State :=
  if 8 ≤ s.msg.requests.length then countFrameError s
  else dispatchWaiting (s.setMsg { s.msg with requests := s.msg.requests ++ [f] })

/-! ### The receive assembler (R4 to R6) -/

/-- 5 ms in reference cycles (R5). -/
def frameDelay : Nat := 1000000

/-- Whether more than 5 ms pass between two consecutive bytes (R5). -/
def gapTooLong : List TimedByte → Bool
  | a :: b :: rest => decide (a.time + frameDelay < b.time) || gapTooLong (b :: rest)
  | _ => false

/-- The bytes without their times. -/
def plain (bs : List TimedByte) : List Byte := bs.map (·.byte)

/-- What the bytes after a SYNC make: a frame still to be completed, a discard, or a good frame and the input after it. -/
inductive FrameTry where
  | incomplete
  | discard
  | good (f : Frame) (rest : List TimedByte)
deriving DecidableEq, Repr

/-- The bytes `input` that follow a SYNC, judged in LENGTH and BODY at clock `now` (R4, R5). -/
def tryFrame (now : Nat) (first : TimedByte) (input : List TimedByte) : FrameTry :=
  let stale := decide (((input.getLast?).getD first).time + frameDelay < now)
  let length := unle (plain (input.take 2))
  if gapTooLong (first :: input.take 2) then .discard
  else if input.length < 2 then if stale then .discard else .incomplete
  else if length < 2 ∨ 1026 < length then .discard
  else
    let held := input.take (length + 4)
    if gapTooLong (first :: held) then .discard
    else if held.length < length + 4 then if stale then .discard else .incomplete
    else
      let bs := plain held
      if (crc (bs.take (length + 2))).toNat = unle (bs.drop (length + 2)) then
        .good ⟨bs.getD 2 0, bs.getD 3 0, (bs.drop 4).take (length - 2)⟩ (input.drop (length + 4))
      else .discard

/-- What came of the input: good frames and discards in their order, and the frame still held, as its SYNC and the bytes
after it. -/
structure Scanned where
  taken : List (Option Frame)
  held  : Option (TimedByte × List TimedByte)
deriving DecidableEq, Repr

/-- The input taken byte by byte from HUNT (R4): a discard, noted as none, resumes after the discarded frame's SYNC (R6). The
input's length is fuel enough, since every turn takes at least one byte. -/
def scanInput : Nat → Nat → List TimedByte → Scanned
  | 0, _, _ => ⟨[], none⟩
  | _ + 1, _, [] => ⟨[], none⟩
  | fuel + 1, now, x :: input =>
    if x.byte ≠ sync then scanInput fuel now input
    else
      match tryFrame now x input with
      | .incomplete => ⟨[], some (x, input)⟩
      | .discard =>
        let r := scanInput fuel now input
        { r with taken := none :: r.taken }
      | .good f rest =>
        let r := scanInput fuel now rest
        { r with taken := some f :: r.taken }

/-- The bytes that the running remainder covers: LENGTH and, once it is known, the bytes up to the CRC (1.3, R3). -/
def coveredSoFar (input : List TimedByte) : List Byte :=
  if input.length < 2 then plain input else plain (input.take (unle (plain (input.take 2)) + 2))

/-- The assembler with a frame held, or in HUNT with nothing retained (1.3, R4). The spec does not say what the remainder and the
arrival time of the SYNC are in HUNT, where nothing reads them: that they stand as after reset is the model's choice
(log 29). -/
def Assembler.holding : Option (TimedByte × List TimedByte) → Assembler
  | none => .reset
  | some (x, input) => ⟨if input.length < 2 then .length else .body, x.time, input, crc (coveredSoFar input)⟩

/-- The bytes of the frame the assembler holds, its SYNC first. -/
def Assembler.bytes (a : Assembler) : List TimedByte :=
  match a.mode with
  | .hunt => []
  | _ => ⟨sync, a.syncTime⟩ :: a.retained

/-- A discard is counted (R6); a good frame is offered to the request list (R7). -/
def takeResult (s : State) : Option Frame → State
  | none => countFrameError s
  | some f => offerRequest f s

/-- The assembler takes an input (R4 to R6). -/
def takeInput (input : List TimedByte) (s : State) : State :=
  let r := scanInput input.length s.time.clock input
  r.taken.foldl takeResult (s.setMsg { s.msg with assembler := .holding r.held })

/-- BYTE_ARRIVAL (R1, R4 to R6): the stop bit of a byte ends `after` cycles from now, and the byte is taken with its data bits as
received (receivedByte). -/
def execByteArrival (after : Nat) (b : Byte) (s : State) : Host.Outcome State Fault Refusal :=
  s.live <|
    let s1 := s.after after
    takeInput (s1.msg.assembler.bytes ++ [⟨b, s1.time.clock⟩]) s1

/-- FRAME_DELAY_EXPIRY (R5, R6): 5 ms after the last byte taken, the frame is discarded and its retained bytes are reread. -/
def execFrameDelayExpiry (s : State) : Host.Outcome State Fault Refusal :=
  s.live <|
    match s.msg.assembler.bytes with
    | [] => s
    | x :: input =>
      let s1 := s.atClock (((input.getLast?).getD x).time + frameDelay)
      takeInput input (countFrameError s1)

/-! ### The transmitter and the resets (R12, R13, R15, R16) -/

/-- The reference cycles a frame takes on the line, rounded up: 10 bits a byte at 230,400 bit/s (R1; log 11). -/
def frameCycles (f : Frame) : Nat := ((f.payload.length + 7) * 78125 + 8) / 9

/-- How many bits of a frame have begun and ended on the line after so many reference cycles: 230,400 of them a second are one each
15,625/18 cycles of 5 ns (R1). -/
def bitsSent (cycles : Nat) : Nat := cycles * 18 / 15625

/-- The level of the sent line now, true being high: the bit of the frame being sent that this cycle lies in, and high while the
transmitter has nothing to send (R1). The start bit of the first byte begins as the frame is taken (log 11), and after the last stop
bit the line is high, also when FRAME_SENT is taken late (log 2). -/
def lineLevel (s : State) : Bool :=
  match s.msg.tx with
  | none => true
  | some x => x.frame.lineBits.getD (bitsSent (s.time.clock - x.startClock)) true

/-- The capture unit after a reset: at its reset values, but for the samples of its halves, which a half that goes FREE keeps
(R83, R88). -/
def Capture.afterReset (c : Capture) : Capture :=
  { Capture.reset with half0 := { Half.reset with samples := c.half0.samples }
                       half1 := { Half.reset with samples := c.half1.samples } }

/-- Every piece of state at its reset value, out of reset (R15 to R17); the halves keep their samples (R83) and the stray entries,
none of them valid any more, their other fields (R165), and the command queue and the free-order counter are the model's own and
stay. -/
def State.afterReset (s : State) : State :=
  ((((State.reset.setInReset false).setPending s.pending).setDraws s.draws).setCap s.cap.afterReset).setStray s.stray.afterReset

/-- The part leaves reset: it stands as after a reset, then HELLO is posted (R15, R16). -/
def leaveReset (cause : ResetCause) (s : State) : State := post (.hello cause) s.afterReset

/-- FRAME_SENT (R12, R13, R15): the last byte of the frame has been sent; the part resets after the RESTART reply, otherwise
the transmitter takes its next frame, and the dispatch test is made when that was a reply. -/
def execFrameSent (s : State) : Host.Outcome State Fault Refusal :=
  s.live <|
    match s.msg.tx with
    | none => s
    | some x =>
      let s1 := s.atClock (x.startClock + frameCycles x.frame)
      if x.restart then leaveReset .restart s1
      else dispatchWaiting (s1.setMsg (Message.kick s1.time.clock { s1.msg with tx := none }))

/-- POWER_UP (R16): supply and reference are stable, and the part leaves reset with cause POWER. On a part that runs it is a
power cycle (log 6). -/
def execPowerUp (s : State) : Host.Outcome State Fault Refusal := .next (leaveReset .power s)

end Sys2Proof.Machine
end

