-- ==== Sys2Proof/Machine/Requests.lean ====
section
/-! DEFINITION. The request commands: a good frame of the kind completes on the line `after` cycles from now, joins the
request list and is dispatched when the reply slot is empty (R7, R8; log 1). What the dispatch does is in `serveKind`. -/

namespace Sys2Proof.Machine

open Sys2Proof

/-- A good frame completes `after` cycles from now (R7, R8). -/
def requestArrives (after : Nat) (f : Frame) (s : State) : Host.Outcome State Fault Refusal :=
  s.live (offerRequest f (s.after after))

/-- UNKNOWN_KIND (R8): a good frame of a KIND that is not in use. -/
def execUnknownKind (after : Nat) (kind tag : Byte) (payload : List Byte) (s : State) : Host.Outcome State Fault Refusal :=
  requestArrives after ⟨kind, tag, payload⟩ s

/-- STATUS_GET (R14). -/
def execStatusGet (after : Nat) (tag : Byte) (payload : List Byte) (s : State) : Host.Outcome State Fault Refusal :=
  requestArrives after ⟨0x01, tag, payload⟩ s

/-- RESTART (R15). -/
def execRestart (after : Nat) (tag : Byte) (payload : List Byte) (s : State) : Host.Outcome State Fault Refusal :=
  requestArrives after ⟨0x02, tag, payload⟩ s

/-- TIME_SET (R20, R21). -/
def execTimeSet (after : Nat) (tag : Byte) (payload : List Byte) (s : State) : Host.Outcome State Fault Refusal :=
  requestArrives after ⟨0x03, tag, payload⟩ s

/-- TIME_GET (R19). -/
def execTimeGet (after : Nat) (tag : Byte) (payload : List Byte) (s : State) : Host.Outcome State Fault Refusal :=
  requestArrives after ⟨0x04, tag, payload⟩ s

/-- WINDOW_GRANT (R24). -/
def execWindowGrant (after : Nat) (tag : Byte) (payload : List Byte) (s : State) : Host.Outcome State Fault Refusal :=
  requestArrives after ⟨0x08, tag, payload⟩ s

/-- WINDOW_REVOKE (R28). -/
def execWindowRevoke (after : Nat) (tag : Byte) (payload : List Byte) (s : State) : Host.Outcome State Fault Refusal :=
  requestArrives after ⟨0x09, tag, payload⟩ s

/-- WINDOW_LIST (R30). -/
def execWindowList (after : Nat) (tag : Byte) (payload : List Byte) (s : State) : Host.Outcome State Fault Refusal :=
  requestArrives after ⟨0x0A, tag, payload⟩ s

/-- LEG_SET (R42). -/
def execLegSet (after : Nat) (tag : Byte) (payload : List Byte) (s : State) : Host.Outcome State Fault Refusal :=
  requestArrives after ⟨0x10, tag, payload⟩ s

/-- LEG_ENABLE (R45). -/
def execLegEnable (after : Nat) (tag : Byte) (payload : List Byte) (s : State) : Host.Outcome State Fault Refusal :=
  requestArrives after ⟨0x11, tag, payload⟩ s

/-- LEG_DISABLE (R46). -/
def execLegDisable (after : Nat) (tag : Byte) (payload : List Byte) (s : State) : Host.Outcome State Fault Refusal :=
  requestArrives after ⟨0x12, tag, payload⟩ s

/-- LEG_GET (R47). -/
def execLegGet (after : Nat) (tag : Byte) (payload : List Byte) (s : State) : Host.Outcome State Fault Refusal :=
  requestArrives after ⟨0x13, tag, payload⟩ s

/-- CLASS_SET (R36). -/
def execClassSet (after : Nat) (tag : Byte) (payload : List Byte) (s : State) : Host.Outcome State Fault Refusal :=
  requestArrives after ⟨0x14, tag, payload⟩ s

/-- CLASS_GET (R38). -/
def execClassGet (after : Nat) (tag : Byte) (payload : List Byte) (s : State) : Host.Outcome State Fault Refusal :=
  requestArrives after ⟨0x15, tag, payload⟩ s

/-- SWEEP_REQ (R54). -/
def execSweepReq (after : Nat) (tag : Byte) (payload : List Byte) (s : State) : Host.Outcome State Fault Refusal :=
  requestArrives after ⟨0x18, tag, payload⟩ s

/-- SWEEP_CANCEL (R66). -/
def execSweepCancel (after : Nat) (tag : Byte) (payload : List Byte) (s : State) : Host.Outcome State Fault Refusal :=
  requestArrives after ⟨0x19, tag, payload⟩ s

/-- SWEEP_LIST (R69). -/
def execSweepList (after : Nat) (tag : Byte) (payload : List Byte) (s : State) : Host.Outcome State Fault Refusal :=
  requestArrives after ⟨0x1A, tag, payload⟩ s

/-- PROFILE_READ (R105). -/
def execProfileRead (after : Nat) (tag : Byte) (payload : List Byte) (s : State) : Host.Outcome State Fault Refusal :=
  requestArrives after ⟨0x1B, tag, payload⟩ s

/-- PEAKS_READ (R106). -/
def execPeaksRead (after : Nat) (tag : Byte) (payload : List Byte) (s : State) : Host.Outcome State Fault Refusal :=
  requestArrives after ⟨0x1C, tag, payload⟩ s

/-- ELEMENT_PUT (R131). -/
def execElementPut (after : Nat) (tag : Byte) (payload : List Byte) (s : State) : Host.Outcome State Fault Refusal :=
  requestArrives after ⟨0x20, tag, payload⟩ s

/-- ELEMENT_DROP (R137). -/
def execElementDrop (after : Nat) (tag : Byte) (payload : List Byte) (s : State) : Host.Outcome State Fault Refusal :=
  requestArrives after ⟨0x21, tag, payload⟩ s

/-- MAP_CLEAR (R138). -/
def execMapClear (after : Nat) (tag : Byte) (payload : List Byte) (s : State) : Host.Outcome State Fault Refusal :=
  requestArrives after ⟨0x22, tag, payload⟩ s

/-- MAP_READ (R140). -/
def execMapRead (after : Nat) (tag : Byte) (payload : List Byte) (s : State) : Host.Outcome State Fault Refusal :=
  requestArrives after ⟨0x23, tag, payload⟩ s

/-- SCORE_CLEAR (R141). -/
def execScoreClear (after : Nat) (tag : Byte) (payload : List Byte) (s : State) : Host.Outcome State Fault Refusal :=
  requestArrives after ⟨0x24, tag, payload⟩ s

/-- STRAY_LIST (R175). -/
def execStrayList (after : Nat) (tag : Byte) (payload : List Byte) (s : State) : Host.Outcome State Fault Refusal :=
  requestArrives after ⟨0x28, tag, payload⟩ s

/-- STRAY_CLEAR (R176). -/
def execStrayClear (after : Nat) (tag : Byte) (payload : List Byte) (s : State) : Host.Outcome State Fault Refusal :=
  requestArrives after ⟨0x29, tag, payload⟩ s

/-- INGRESS_SET (R181). -/
def execIngressSet (after : Nat) (tag : Byte) (payload : List Byte) (s : State) : Host.Outcome State Fault Refusal :=
  requestArrives after ⟨0x2C, tag, payload⟩ s

/-- SURVEY_OPEN (R193). -/
def execSurveyOpen (after : Nat) (tag : Byte) (payload : List Byte) (s : State) : Host.Outcome State Fault Refusal :=
  requestArrives after ⟨0x2D, tag, payload⟩ s

/-- SURVEY_CLOSE (R194). -/
def execSurveyClose (after : Nat) (tag : Byte) (payload : List Byte) (s : State) : Host.Outcome State Fault Refusal :=
  requestArrives after ⟨0x2E, tag, payload⟩ s

/-- SURVEY_READ (R194). -/
def execSurveyRead (after : Nat) (tag : Byte) (payload : List Byte) (s : State) : Host.Outcome State Fault Refusal :=
  requestArrives after ⟨0x2F, tag, payload⟩ s

/-- LOG_TAKE (R191). -/
def execLogTake (after : Nat) (tag : Byte) (payload : List Byte) (s : State) : Host.Outcome State Fault Refusal :=
  requestArrives after ⟨0x30, tag, payload⟩ s

/-- WATCH_GET (R192). -/
def execWatchGet (after : Nat) (tag : Byte) (payload : List Byte) (s : State) : Host.Outcome State Fault Refusal :=
  requestArrives after ⟨0x31, tag, payload⟩ s

end Sys2Proof.Machine
end

