-- ==== Sys2Proof/Machine/Dispatch.lean ====
section
/-! DEFINITION. The dispatch of a command to its meaning. -/

namespace Sys2Proof.Machine

open Sys2Proof

def exec (i : Instr) (s : State) : Host.Outcome State Fault Refusal :=
  match i with
  | .byteArrival after b => Sys2Proof.Machine.execByteArrival after b s
  | .frameDelayExpiry => Sys2Proof.Machine.execFrameDelayExpiry s
  | .unknownKind after kind tag payload => Sys2Proof.Machine.execUnknownKind after kind tag payload s
  | .statusGet after tag payload => Sys2Proof.Machine.execStatusGet after tag payload s
  | .restart after tag payload => Sys2Proof.Machine.execRestart after tag payload s
  | .timeSet after tag payload => Sys2Proof.Machine.execTimeSet after tag payload s
  | .timeGet after tag payload => Sys2Proof.Machine.execTimeGet after tag payload s
  | .windowGrant after tag payload => Sys2Proof.Machine.execWindowGrant after tag payload s
  | .windowRevoke after tag payload => Sys2Proof.Machine.execWindowRevoke after tag payload s
  | .windowList after tag payload => Sys2Proof.Machine.execWindowList after tag payload s
  | .windowOpen => Sys2Proof.Machine.execWindowOpen s
  | .windowClose => Sys2Proof.Machine.execWindowClose s
  | .legSet after tag payload => Sys2Proof.Machine.execLegSet after tag payload s
  | .legEnable after tag payload => Sys2Proof.Machine.execLegEnable after tag payload s
  | .legDisable after tag payload => Sys2Proof.Machine.execLegDisable after tag payload s
  | .legGet after tag payload => Sys2Proof.Machine.execLegGet after tag payload s
  | .classSet after tag payload => Sys2Proof.Machine.execClassSet after tag payload s
  | .classGet after tag payload => Sys2Proof.Machine.execClassGet after tag payload s
  | .sweepReq after tag payload => Sys2Proof.Machine.execSweepReq after tag payload s
  | .sweepCancel after tag payload => Sys2Proof.Machine.execSweepCancel after tag payload s
  | .sweepList after tag payload => Sys2Proof.Machine.execSweepList after tag payload s
  | .burstPhase samples => Sys2Proof.Machine.execBurstPhase s samples
  | .listenPhase samples => Sys2Proof.Machine.execListenPhase samples s
  | .acquisitionEnd samples => Sys2Proof.Machine.execAcquisitionEnd samples s
  | .snapshotSettleEnd samples => Sys2Proof.Machine.execSnapshotSettleEnd s samples
  | .snapshotComplete samples => Sys2Proof.Machine.execSnapshotComplete samples s
  | .acquisitionJobComplete after => Sys2Proof.Machine.execAcquisitionJobComplete after s
  | .snapshotJobComplete after => Sys2Proof.Machine.execSnapshotJobComplete after s
  | .analysisComplete after slot => Sys2Proof.Machine.execAnalysisComplete after slot s
  | .divisionComplete => Sys2Proof.Machine.execDivisionComplete s
  | .profileRead after tag payload => Sys2Proof.Machine.execProfileRead after tag payload s
  | .peaksRead after tag payload => Sys2Proof.Machine.execPeaksRead after tag payload s
  | .elementPut after tag payload => Sys2Proof.Machine.execElementPut after tag payload s
  | .elementDrop after tag payload => Sys2Proof.Machine.execElementDrop after tag payload s
  | .mapClear after tag payload => Sys2Proof.Machine.execMapClear after tag payload s
  | .mapRead after tag payload => Sys2Proof.Machine.execMapRead after tag payload s
  | .scoreClear after tag payload => Sys2Proof.Machine.execScoreClear after tag payload s
  | .strayList after tag payload => Sys2Proof.Machine.execStrayList after tag payload s
  | .strayClear after tag payload => Sys2Proof.Machine.execStrayClear after tag payload s
  | .ingressSet after tag payload => Sys2Proof.Machine.execIngressSet after tag payload s
  | .surveyOpen after tag payload => Sys2Proof.Machine.execSurveyOpen after tag payload s
  | .surveyClose after tag payload => Sys2Proof.Machine.execSurveyClose after tag payload s
  | .surveyRead after tag payload => Sys2Proof.Machine.execSurveyRead after tag payload s
  | .logTake after tag payload => Sys2Proof.Machine.execLogTake after tag payload s
  | .watchGet after tag payload => Sys2Proof.Machine.execWatchGet after tag payload s
  | .ingressScan leg levels => Sys2Proof.Machine.execIngressScan leg levels s
  | .temperatureConversion sensor => Sys2Proof.Machine.execTemperatureConversion sensor s
  | .frameSent => Sys2Proof.Machine.execFrameSent s
  | .powerUp => Sys2Proof.Machine.execPowerUp s

end Sys2Proof.Machine
end

