-- ==== Sys2Proof/Machine/Step.lean ====
section
/-! DEFINITION. One step: the command at the front of the queue is taken (log 1). -/

namespace Sys2Proof.Machine

open Sys2Proof

/-- With no command waiting, one cycle of the 200 MHz reference passes, unless the part is held in reset (R18; log 4). -/
def idleCycle (s : State) : State := if s.inReset then s else s.after 1

/-- One step: the command at the front of the queue runs with the queue's rest; on an empty queue a cycle passes. -/
def step (s : State) : Host.Outcome State Fault Refusal :=
  match s.pending with
  | [] => .next (idleCycle s)
  | c :: rest => exec c (s.setPending rest)

/-- `s` with the command a word spells at the front of its queue; unchanged where the word spells none. -/
def State.withFetchWord (s : State) (nbits w : Nat) : State :=
  match decodeTableWord nbits w with
  | none => s
  | some c => s.setPending (c :: s.pending)

end Sys2Proof.Machine
end

