-- ==== Sys2Proof/WellFormed.lean ====
section
/-! DEFINITION. Which commands are well formed: those that the line, the samplers and the detectors can carry. The machine
runs on every command; these checks say which ones the outside world can send. -/

namespace Sys2Proof

open Sys2Proof.Machine

/-- A payload fits in a frame: 0 to 1024 bytes (R2). -/
def payloadFits (p : List Byte) : Bool := decide (p.length ≤ 1024)

/-- A run of samples fits in a capture half: at most 2,048 (R83). -/
def samplesFit (xs : List Sample) : Bool := decide (xs.length ≤ 2048)

/-- One level for each of the 64 bins (R180). -/
def levelsFit (levels : List Int) : Bool := levels.length == 64

/-- The frame that a request command brings, if it is one (R2, 1.4). -/
def Instr.frame : Instr → Option Frame
  | .unknownKind _ kind tag p => some ⟨kind, tag, p⟩
  | .statusGet _ tag p => some ⟨0x01, tag, p⟩
  | .restart _ tag p => some ⟨0x02, tag, p⟩
  | .timeSet _ tag p => some ⟨0x03, tag, p⟩
  | .timeGet _ tag p => some ⟨0x04, tag, p⟩
  | .windowGrant _ tag p => some ⟨0x08, tag, p⟩
  | .windowRevoke _ tag p => some ⟨0x09, tag, p⟩
  | .windowList _ tag p => some ⟨0x0A, tag, p⟩
  | .legSet _ tag p => some ⟨0x10, tag, p⟩
  | .legEnable _ tag p => some ⟨0x11, tag, p⟩
  | .legDisable _ tag p => some ⟨0x12, tag, p⟩
  | .legGet _ tag p => some ⟨0x13, tag, p⟩
  | .classSet _ tag p => some ⟨0x14, tag, p⟩
  | .classGet _ tag p => some ⟨0x15, tag, p⟩
  | .sweepReq _ tag p => some ⟨0x18, tag, p⟩
  | .sweepCancel _ tag p => some ⟨0x19, tag, p⟩
  | .sweepList _ tag p => some ⟨0x1A, tag, p⟩
  | .profileRead _ tag p => some ⟨0x1B, tag, p⟩
  | .peaksRead _ tag p => some ⟨0x1C, tag, p⟩
  | .elementPut _ tag p => some ⟨0x20, tag, p⟩
  | .elementDrop _ tag p => some ⟨0x21, tag, p⟩
  | .mapClear _ tag p => some ⟨0x22, tag, p⟩
  | .mapRead _ tag p => some ⟨0x23, tag, p⟩
  | .scoreClear _ tag p => some ⟨0x24, tag, p⟩
  | .strayList _ tag p => some ⟨0x28, tag, p⟩
  | .strayClear _ tag p => some ⟨0x29, tag, p⟩
  | .ingressSet _ tag p => some ⟨0x2C, tag, p⟩
  | .surveyOpen _ tag p => some ⟨0x2D, tag, p⟩
  | .surveyClose _ tag p => some ⟨0x2E, tag, p⟩
  | .surveyRead _ tag p => some ⟨0x2F, tag, p⟩
  | .logTake _ tag p => some ⟨0x30, tag, p⟩
  | .watchGet _ tag p => some ⟨0x31, tag, p⟩
  | .byteArrival .. => none
  | .frameDelayExpiry => none
  | .windowOpen => none
  | .windowClose => none
  | .burstPhase _ => none
  | .listenPhase _ => none
  | .acquisitionEnd _ => none
  | .snapshotSettleEnd _ => none
  | .snapshotComplete _ => none
  | .acquisitionJobComplete _ => none
  | .snapshotJobComplete _ => none
  | .analysisComplete .. => none
  | .divisionComplete => none
  | .ingressScan .. => none
  | .temperatureConversion _ => none
  | .frameSent => none
  | .powerUp => none

/-- The cycles that pass before a request command's frame completes. -/
def Instr.after : Instr → Nat
  | .unknownKind n _ _ _ => n
  | .statusGet n _ _ => n
  | .restart n _ _ => n
  | .timeSet n _ _ => n
  | .timeGet n _ _ => n
  | .windowGrant n _ _ => n
  | .windowRevoke n _ _ => n
  | .windowList n _ _ => n
  | .legSet n _ _ => n
  | .legEnable n _ _ => n
  | .legDisable n _ _ => n
  | .legGet n _ _ => n
  | .classSet n _ _ => n
  | .classGet n _ _ => n
  | .sweepReq n _ _ => n
  | .sweepCancel n _ _ => n
  | .sweepList n _ _ => n
  | .profileRead n _ _ => n
  | .peaksRead n _ _ => n
  | .elementPut n _ _ => n
  | .elementDrop n _ _ => n
  | .mapClear n _ _ => n
  | .mapRead n _ _ => n
  | .scoreClear n _ _ => n
  | .strayList n _ _ => n
  | .strayClear n _ _ => n
  | .ingressSet n _ _ => n
  | .surveyOpen n _ _ => n
  | .surveyClose n _ _ => n
  | .surveyRead n _ _ => n
  | .logTake n _ _ => n
  | .watchGet n _ _ => n
  | .byteArrival n _ => n
  | .acquisitionJobComplete n => n
  | .snapshotJobComplete n => n
  | .analysisComplete n _ => n
  | .frameDelayExpiry => 0
  | .windowOpen => 0
  | .windowClose => 0
  | .burstPhase _ => 0
  | .listenPhase _ => 0
  | .acquisitionEnd _ => 0
  | .snapshotSettleEnd _ => 0
  | .snapshotComplete _ => 0
  | .divisionComplete => 0
  | .ingressScan .. => 0
  | .temperatureConversion _ => 0
  | .frameSent => 0
  | .powerUp => 0

/-- The checks: a payload fits in a frame, a KIND of UNKNOWN_KIND is not in use (R8), samples fit in a half, and a scan has a
level for every bin. -/
def Instr.wellFormed : Instr → Bool
  | .byteArrival .. => true
  | .frameDelayExpiry => true
  | .unknownKind _ kind _ p => payloadFits p && !kindsInUse.contains kind.toNat
  | .statusGet _ _ p => payloadFits p
  | .restart _ _ p => payloadFits p
  | .timeSet _ _ p => payloadFits p
  | .timeGet _ _ p => payloadFits p
  | .windowGrant _ _ p => payloadFits p
  | .windowRevoke _ _ p => payloadFits p
  | .windowList _ _ p => payloadFits p
  | .windowOpen => true
  | .windowClose => true
  | .legSet _ _ p => payloadFits p
  | .legEnable _ _ p => payloadFits p
  | .legDisable _ _ p => payloadFits p
  | .legGet _ _ p => payloadFits p
  | .classSet _ _ p => payloadFits p
  | .classGet _ _ p => payloadFits p
  | .sweepReq _ _ p => payloadFits p
  | .sweepCancel _ _ p => payloadFits p
  | .sweepList _ _ p => payloadFits p
  | .burstPhase xs => samplesFit xs
  | .listenPhase xs => samplesFit xs
  | .acquisitionEnd xs => samplesFit xs
  | .snapshotSettleEnd xs => samplesFit xs
  | .snapshotComplete xs => samplesFit xs
  | .acquisitionJobComplete .. => true
  | .snapshotJobComplete .. => true
  | .analysisComplete .. => true
  | .divisionComplete => true
  | .profileRead _ _ p => payloadFits p
  | .peaksRead _ _ p => payloadFits p
  | .elementPut _ _ p => payloadFits p
  | .elementDrop _ _ p => payloadFits p
  | .mapClear _ _ p => payloadFits p
  | .mapRead _ _ p => payloadFits p
  | .scoreClear _ _ p => payloadFits p
  | .strayList _ _ p => payloadFits p
  | .strayClear _ _ p => payloadFits p
  | .ingressSet _ _ p => payloadFits p
  | .surveyOpen _ _ p => payloadFits p
  | .surveyClose _ _ p => payloadFits p
  | .surveyRead _ _ p => payloadFits p
  | .logTake _ _ p => payloadFits p
  | .watchGet _ _ p => payloadFits p
  | .ingressScan _ levels => levelsFit levels
  | .temperatureConversion .. => true
  | .frameSent => true
  | .powerUp => true

end Sys2Proof
end

