-- ==== Sys2Proof/Safety.lean ====
section
/-! DEFINITION. What the statements are said in: when a request is served at once, what its reply does to the transmitter, and
the invariants of each block, in the words of the rules that give them. -/

namespace Sys2Proof.Machine

open Sys2Proof

/-! ### Requests and replies -/

/-- The part runs, dispatch runs, no request waits and the reply slot is empty, so that a request that completes now is
dispatched now (R8); an IDLE transmitter has no report waiting (R12). -/
structure Ready (s : State) : Prop where
  running     : s.inReset = false
  dispatching : s.msg.dispatching = true
  noRequest   : s.msg.requests = []
  noReply     : s.msg.slot = none
  noHold      : s.msg.hold = false
  idleEmpty   : s.msg.tx = none → s.msg.reports = []

/-- The reply frame of a request (R9, R202): kind plus 0x80 modulo 256, the TAG, the status byte and the fields. -/
def replyFrame (kind tag : Byte) (st : Status) (fields : List Byte) : Frame :=
  ⟨kind + 0x80, tag, BitVec.ofNat 8 st.code :: fields⟩

/-- What a reply does when no report goes with it: an IDLE transmitter takes it at once, otherwise it waits in the reply slot
(R8, R11, R12). -/
def State.replied (kind tag : Byte) (st : Status) (fields : List Byte) (s : State) : State :=
  match s.msg.tx with
  | none => s.setMsg { s.msg with tx := some ⟨replyFrame kind tag st fields, false, s.time.clock⟩ }
  | some _ => s.setMsg { s.msg with slot := some ⟨replyFrame kind tag st fields, false⟩ }

/-- The reply stands in the reply slot or is being sent (R11, R12). -/
def Answered (t : State) (kind tag : Byte) (st : Status) (fields : List Byte) : Prop :=
  t.msg.slot = some ⟨replyFrame kind tag st fields, false⟩ ∨
    ∃ c, t.msg.tx = some ⟨replyFrame kind tag st fields, false, c⟩

/-- The stray table after either reset: no entry is valid, each keeping its other fields, the replacement bits and the drop counts
are 0 (R165, R178). -/
def Strays.rested (t : Strays) : Strays :=
  let gone : StrayEntry → StrayEntry := fun e => { e with valid := false }
  { sets  := t.sets.map fun v => ⟨⟨gone v.ways.q0, gone v.ways.q1, gone v.ways.q2, gone v.ways.q3⟩, false, false, false⟩
    drops := ⟨0, 0, 0, 0⟩ }

/-- The part as it stands after either reset: every piece of state at its reset value, but the samples of the capture halves,
which R83 keeps, the fields of the stray entries besides valid, which R165 keeps, and the model's own queue and counter (log 6). -/
def State.rested (s : State) : State :=
  { State.reset with
    inReset := false
    pending := s.pending
    draws   := s.draws
    stray   := s.stray.rested
    cap     := { State.reset.cap with half0 := { Half.reset with samples := s.cap.half0.samples }
                                      half1 := { Half.reset with samples := s.cap.half1.samples } } }

/-- A report is in the queue, or the transmitter has taken it (R10, R12). -/
def Reported (t : State) (r : Report) : Prop :=
  r ∈ t.msg.reports ∨ ∃ c, t.msg.tx = some ⟨r.frame, false, c⟩

/-- The reports `rs` have joined the report queue in this order, and no other has; an IDLE transmitter may have taken the oldest of
what then stood there (R10, R12). -/
def Joined (s t : State) (rs : List Report) : Prop :=
  t.msg.reports = s.msg.reports ++ rs ∨
    ∃ r c, s.msg.reports ++ rs = r :: t.msg.reports ∧ t.msg.tx = some ⟨r.frame, false, c⟩

/-! ### Sampling (R80 to R82) -/

/-- What the capture input carries at the `j`-th sample instant of a sampling that begins at the clock `start` and takes a sample
each `period` cycles: what is told for it, and beyond that the free value of log 15. -/
def inputAt (given : List Sample) (start period j : Nat) : Sample := given.getD j (Config.captureInput (start + j * period))

/-- The first `n` of those samples. -/
def inputs (given : List Sample) (start period n : Nat) : List Sample := (List.range n).map (inputAt given start period)

/-- Whether a sample lies at an end of the range (R81). -/
def atRangeEnd (x : Sample) : Bool := x == 0x800 || x == 0x7FF

/-- The gate that the basis of an acquisition asks for (R79, the table). -/
def gateAsked (s : State) (a : InFlight) : Bool :=
  match a.basis with
  | .free => s.windowFree a.leg
  | .window id => s.admissible a.leg && (s.openWindow.elim false fun w => w.id == id)

/-! ### The message controller (R6, R7, R10 to R12) -/

/-- The capacities and counts of the message controller; an IDLE transmitter leaves neither a reply nor a report waiting (R12);
and a request waits only while the reply slot holds a reply or dispatch has stopped (R8). -/
structure LineInv (s : State) : Prop where
  requests    : s.msg.requests.length ≤ 8
  reports     : s.msg.reports.length ≤ 32
  frameErrors : s.msg.frameErrors ≤ 65535
  reportsLost : s.msg.reportsLost ≤ 65535
  noHold      : s.msg.hold = false
  idle        : s.msg.tx = none → s.msg.slot = none ∧ s.msg.reports = []
  waiting     : s.msg.requests ≠ [] → s.msg.dispatching = true → s.msg.slot ≠ none

/-! ### The window table (R22, R23) -/

/-- At most 4 windows in ascending order of start, none overlapping another, with distinct ids of 1..255, and at most one
OPEN. -/
structure WindowInv (s : State) : Prop where
  room    : s.win.table.length ≤ 4
  spans   : ∀ w ∈ s.win.table, w.start < w.stop
  ordered : s.win.table.Pairwise fun v w => v.stop ≤ w.start
  ids     : (s.win.table.map (·.id)).Nodup
  idRange : ∀ w ∈ s.win.table, 1 ≤ w.id ∧ w.id ≤ 255
  nextId  : 1 ≤ s.win.nextId ∧ s.win.nextId ≤ 255
  oneOpen : (s.win.table.filter fun w => w.state == .opened).length ≤ 1

/-! ### Legs, the plan and speeds (R34, R41, R118, R120) -/

/-- The plan has 64 classes and a limit of 0..64. The live fields of every leg lie in their ranges, its settings are ones LEG_SET accepts, a leg with settings has Q_cal and
T_cal, Q_cal lies in 9,593..19,187, and the temperature reading lies in -40..+85. -/
structure LegInv (s : State) : Prop where
  plan        : s.plan.stored.length = 64 ∧ s.plan.limit ≤ 64
  level       : ∀ g, (s.leg g).level ≤ 63
  faults      : ∀ g, (s.leg g).faults ≤ 15
  settle      : ∀ g, (s.leg g).settle ≤ 500
  settings    : ∀ g t, (s.leg g).settings = some t → t.allowed = true
  hasCal      : ∀ g, (s.leg g).settings.isSome = true → (s.arith.cal.get g).isSome = true
  speed       : ∀ g c, s.arith.cal.get g = some c → 9593 ≤ c.q ∧ c.q ≤ 19187 ∧ -40 ≤ c.t ∧ c.t ≤ 85
  temperature : -40 ≤ s.arith.temperature ∧ s.arith.temperature ≤ 85

/-! ### The queues (R51, R52, R109, R111) -/

/-- At most 4 sweep records with distinct slots and distinct ids of 1..255; at most 64 jobs in the divider queue, and none
while the divider is IDLE. -/
structure QueueInv (s : State) : Prop where
  sweeps  : s.seq.queue.length ≤ 4
  slots   : (s.seq.queue.map (·.slot)).Nodup
  ids     : (s.seq.queue.map (·.id)).Nodup
  idRange : ∀ w ∈ s.seq.queue, 1 ≤ w.id ∧ w.id ≤ 255
  nextId  : 1 ≤ s.seq.nextId ∧ s.seq.nextId ≤ 255
  jobs    : s.div.queue.length ≤ 64
  idle    : s.div.running = none → s.div.queue = []

/-! ### The probe (R61, R62, R77, R79) -/

/-- The acquisition in flight belongs to a record of the queue on a leg that is not OFF, and chips go to the output only while
the condition of the transmit gate holds for it. -/
structure ProbeInv (s : State) : Prop where
  owner : ∀ a, s.seq.inFlight = some a →
    (s.leg a.leg).state ≠ .off ∧ ∃ w ∈ s.seq.queue, w.id = a.sweepId ∧ w.leg = a.leg
  gate  : s.transmitting = true → ∃ a, s.seq.inFlight = some a ∧ gateHolds s a = true

/-! ### The span map (R129) -/

/-- One leg's element list: at most 48 elements in strictly ascending nominal distance of 0..65,535, with distinct ids of
1..255, at most one EOL, which is last, and at most one anchor. -/
structure ListInv (es : List Element) : Prop where
  room      : es.length ≤ 48
  ascending : es.Pairwise fun e f => e.nominal < f.nominal
  distances : ∀ e ∈ es, e.nominal ≤ 65535
  ids       : (es.map (·.id)).Nodup
  idRange   : ∀ e ∈ es, 1 ≤ e.id ∧ e.id ≤ 255
  eolLast   : es.Pairwise fun e _ => e.kind ≠ .eol
  oneAnchor : (es.filter (·.anchor)).length ≤ 1

/-- Every leg's list is one. -/
def MapInv (s : State) : Prop := ∀ g, ListInv (s.elements g)

/-! ### The stray table (R164, R165) -/

/-- A valid entry stands in its cell's set, holds a distance of its cell, and has age 0 when CONFIRMED. -/
structure EntryInv (set : Nat) (e : StrayEntry) : Prop where
  place     : e.cell % 16 = set
  cell      : e.distance / 32 = e.cell
  sightings : 1 ≤ e.sightings ∧ e.sightings ≤ 255
  age       : e.state = .confirmed → e.age = 0

/-- Sixteen sets; every valid entry is one; no two ways of a set hold valid entries with the same leg and cell; the drop counts
stay in range. -/
structure StrayInv (s : State) : Prop where
  sets    : s.stray.sets.length = 16
  entries : ∀ i < 16, ∀ w, ((s.stray.set i).ways.get w).valid = true → EntryInv i ((s.stray.set i).ways.get w)
  tags    : ∀ i < 16, ∀ v w, ((s.stray.set i).ways.get v).valid = true → ((s.stray.set i).ways.get w).valid = true →
    ((s.stray.set i).ways.get v).leg = ((s.stray.set i).ways.get w).leg →
    ((s.stray.set i).ways.get v).cell = ((s.stray.set i).ways.get w).cell → v = w
  drops   : ∀ g, s.stray.drops.get g ≤ 65535

/-! ### The ingress monitor (R179, R189) -/

/-- A bin that is not watched is QUIET; the log holds at most 128 records; the log-discard count stays in range. -/
structure IngressInv (s : State) : Prop where
  quiet    : ∀ g, ∀ b < 64, s.watched g b = false → (s.ingLeg g).detector b = .quiet
  log      : s.ing.log.length ≤ 128
  discards : s.ing.discards ≤ 65535

/-! ### Tables and shapes that the statements compare with -/

/-- The payload length of each request kind in use (R201); CLASS_SET has its own rule. -/
def requestLengths : List (Nat × Nat) :=
  [(0x01, 0), (0x02, 0), (0x03, 6), (0x04, 0), (0x08, 11), (0x09, 1), (0x0A, 0), (0x10, 27), (0x11, 1), (0x12, 1),
   (0x13, 1), (0x15, 0), (0x18, 4), (0x19, 1), (0x1A, 0), (0x1B, 2), (0x1C, 1), (0x20, 6), (0x21, 2), (0x22, 1),
   (0x23, 2), (0x24, 2), (0x28, 2), (0x29, 5), (0x2C, 7), (0x2D, 1), (0x2E, 1), (0x2F, 1), (0x30, 1), (0x31, 1)]

/-- The BAD_VALUE cases of WINDOW_GRANT (R24, check 1). -/
def grantOutOfRange (start length legs : Nat) : Prop :=
  length < 50 ∨ 65535 < length ∨ legs = 0 ∨ 15 < legs ∨ 281474976710655 < start + length

/-- The settings in the 27 bytes of LEG_SET (R201, the settings block), byte by byte. -/
def settingsOfBytes (b : Fin 27 → Byte) : Settings where
  codeLength   := (b 1).toNat + 256 * (b 2).toNat
  chipDivider  := (b 3).toNat
  profileBins  := (b 4).toNat + 256 * (b 5).toNat
  blank        := (b 6).toNat
  floor        := (b 7).toNat + 256 * (b 8).toNat
  carrier      := (b 9).toNat
  startLevel   := (b 10).toNat
  aLo          := (b 11).toNat + 256 * (b 12).toNat
  aHi          := (b 13).toNat + 256 * (b 14).toNat
  upStep       := (b 15).toNat
  downStep     := (b 16).toNat
  faultLimit   := (b 17).toNat
  vfMilli      := (b 18).toNat + 256 * (b 19).toNat
  tolerance    := (b 20).toNat
  missLimit    := (b 21).toNat
  confirmCount := (b 22).toNat
  ageLimit     := (b 23).toNat
  trim         := (b 24).toNat
  ctUp         := (b 25).toNat
  ctDn         := (b 26).toNat

/-- The half-width of the probe band for each chip divider (R39, the table). -/
def halfWidthTable : List Nat := [0, 32, 16, 11, 8, 7, 6, 5, 4, 4, 4, 3, 3, 3, 3, 3, 2]

/-- The settings LEG_SET accepts (R41, R42, check 3). -/
def settingsAccepted (t : Settings) : Prop :=
  t.codeLength ∈ [63, 127, 255, 511] ∧ (1 ≤ t.chipDivider ∧ t.chipDivider ≤ 16) ∧
    t.profileBins ∈ [256, 512, 768, 1024] ∧ t.blank ≤ 255 ∧ t.floor ≤ 65535 ∧ t.carrier ≤ 63 ∧ t.startLevel ≤ 63 ∧
    t.aHi ≤ 65535 ∧ (1 ≤ t.upStep ∧ t.upStep ≤ 4) ∧ (1 ≤ t.downStep ∧ t.downStep ≤ 4) ∧
    (1 ≤ t.faultLimit ∧ t.faultLimit ≤ 15) ∧ (500 ≤ t.vfMilli ∧ t.vfMilli ≤ 1000) ∧
    (1 ≤ t.tolerance ∧ t.tolerance ≤ 255) ∧ (1 ≤ t.missLimit ∧ t.missLimit ≤ 15) ∧
    (1 ≤ t.confirmCount ∧ t.confirmCount ≤ 15) ∧ (1 ≤ t.ageLimit ∧ t.ageLimit ≤ 255) ∧ t.trim ≤ 6 ∧ t.ctUp ≤ 7 ∧
    t.ctDn ≤ 7 ∧ t.blank < t.profileBins - 2 ∧
    halfWidthTable.getD t.chipDivider 0 ≤ t.carrier ∧ t.carrier + halfWidthTable.getD t.chipDivider 0 ≤ 63 ∧
    t.aLo ≤ t.aHi

/-- The BAD_VALUE cases of SWEEP_REQ after its leg and slot (R54, check 1). -/
def sweepOutOfRange (n options : Nat) : Prop :=
  n ∉ [1, 2, 4, 8, 16, 32, 64] ∨ 7 < options ∨ (options / 2 % 2 = 1 ∧ options / 4 % 2 = 1)

/-- The sum of `f i` for i = 0..n - 1. -/
def sumTo (n : Nat) (f : Nat → Int) : Int := ((List.range n).map f).sum

/-- The entries of a table that satisfy `p` and are valid stop being valid, `count` of them, and keep their other fields; every
other entry, the replacement bits and the drop counts stay (R174). -/
def ClearedStrays (p : StrayEntry → Bool) (old new : Strays) (count : Nat) : Prop :=
  new.drops = old.drops ∧
    (∀ i < 16, (new.set i).pairBit = (old.set i).pairBit ∧ (new.set i).lowBit = (old.set i).lowBit ∧
      (new.set i).highBit = (old.set i).highBit ∧
      ∀ w, (new.set i).ways.get w = if ((old.set i).ways.get w).valid && p ((old.set i).ways.get w) then
        { (old.set i).ways.get w with valid := false } else (old.set i).ways.get w) ∧
    count = ∑ i ∈ Finset.range 16, ∑ w : Fin 4,
      if ((old.set i).ways.get w).valid && p ((old.set i).ways.get w) then 1 else 0

/-- The replacement bits after a use of a way: pair, low and high bit (R166, the table). -/
def bitsAfterUse (v : StraySet) (w : Fin 4) : Bool × Bool × Bool :=
  match w with
  | 0 => (true, true, v.highBit)
  | 1 => (true, false, v.highBit)
  | 2 => (false, v.lowBit, true)
  | 3 => (false, v.lowBit, false)

/-- An entry written into a way of a set by a feed, the result being `fed`: confirmed, and reported, when it is a CANDIDATE at or
above the confirm count; the way is marked used, and everything else stays (R166, R168 to R170). -/
def PlacedStray (t : Strays) (i : Nat) (w : Fin 4) (confirmCount : Nat) (e : StrayEntry)
    (fed : Strays × Option Report) : Prop :=
  let now := decide (e.state = .candidate ∧ confirmCount ≤ e.sightings)
  fed.1.drops = t.drops ∧ fed.1.sets.length = t.sets.length ∧ (∀ j, j ≠ i → fed.1.set j = t.set j) ∧
    (fed.1.set i).ways = (t.set i).ways.set w { e with state := if now then .confirmed else e.state } ∧
    ((fed.1.set i).pairBit, (fed.1.set i).lowBit, (fed.1.set i).highBit) = bitsAfterUse (t.set i) w ∧
    fed.2 = if now then some (.strayConfirmed e.leg e.cell i w.val e.distance e.amplitude e.sightings e.firstSeen e.lastSeen)
      else none

/-- The ways in the order a victim is looked for, by the pair, low and high bits (R171, the table). -/
def victimTable : Bool → Bool → Bool → List (Fin 4)
  | false, false, false => [0, 1, 2, 3]
  | false, false, true  => [0, 1, 3, 2]
  | false, true,  false => [1, 0, 2, 3]
  | false, true,  true  => [1, 0, 3, 2]
  | true,  false, false => [2, 3, 0, 1]
  | true,  false, true  => [3, 2, 0, 1]
  | true,  true,  false => [2, 3, 1, 0]
  | true,  true,  true  => [3, 2, 1, 0]

/-! ### The choice and the end of a sweep (R56, R64, R65) -/

/-- A record of the sweep queue may start an acquisition now (R56). -/
def MayStart (s : State) (w : Sweep) : Prop :=
  (w.state = .queued ∨ w.state = .acquiring) ∧ w.started < w.n ∧ (s.leg w.leg).state = .enabled ∧
    s.admissible w.leg = true ∧
    (s.windowFree w.leg = true ∨
      ∃ o, s.openWindow = some o ∧ o.legs.get w.leg = true ∧ s.time.timebase + w.tAcq ≤ o.stop)

/-- The SWEEP_END of a record that ends in `s` otherwise than DONE: its peak count is the length of its slot's peak list, if the
search has run, and nothing was matched or handed to the stray table (R65). -/
def sweepEndIn (s : State) (outcome : SweepOutcome) (level : Nat) (w : Sweep) : Report :=
  .sweepEnd w.id w.leg w.slot outcome w.flags w.started w.done
    (((s.slot w.slot).content.bind (·.peaks)).elim 0 (·.length)) 0 0 level s.time.timebase

/-- What the end of a sweep leaves when its outcome is neither DONE nor DONE_CLIPPED (R64, R115): no record, a FREE slot without
content, none of its jobs in the divider's queue or waiting list, and no acquisition of it in flight. -/
structure Ended (t : State) (w : Sweep) : Prop where
  record  : t.findSweep w.id = none
  slot    : t.slot w.slot = ⟨.free, none⟩
  jobs    : ∀ j ∈ t.div.queue, JobOwner.ofSweep w.id j.owner = false
  batches : ∀ b ∈ t.div.waiting, ∀ j ∈ b, JobOwner.ofSweep w.id j.owner = false
  flight  : ∀ a, t.seq.inFlight = some a → a.sweepId ≠ w.id

/-- Records of the queue without what a choice of an acquisition may change in them: started, the level used, and whether one that is
not ANALYSING is QUEUED or ACQUIRING (R57). Records that stay in the queue when others end have the same of these, in the same
order. -/
def keptRecords (ws : List Sweep) : List Sweep :=
  ws.map fun w => { w with started := 0, levelUsed := none, state := if w.state = .analysing then .analysing else .queued }

/-- A half whose capture is cut off: FULL and void from that instant with the samples taken, one of that very instant among them
(the model's choice, log 30), while the correlator is BUSY; freed by an
IDLE correlator that has no other half to take, and then FREE or granted again (R85, R86, R89). -/
def CutOff (s t : State) (h : HalfId) : Prop :=
  (s.cor.job ≠ none → (t.cap.half h).state = .full ∧ (t.cap.half h).void = true ∧
    (t.cap.half h).samples = (s.cap.half h).samples ∧ (t.cap.half h).fillOrder = some s.time.clock) ∧
  (s.cor.job = none → (∀ k, k ≠ h → (s.cap.half k).state ≠ .full) →
    (t.cap.half h).void = false ∧ ((t.cap.half h).state = .free ∨ (t.cap.half h).state = .filling))

/-! ### The divider's queue and its waiting list (R110, R111, R115) -/

/-- Waiting batches have entered the queue from the head of the list, in order, as many as fit one after another: the next does not
fit, or none is left (R110). -/
def Entered (old new : Divider) : Prop :=
  new.running = old.running ∧ new.batches = old.batches ∧ ∃ entered, old.waiting = entered ++ new.waiting ∧
    new.queue = old.queue ++ entered.flatten ∧ (entered ≠ [] → new.queue.length ≤ 64) ∧
    ∀ b ∈ new.waiting.head?, 64 < new.queue.length + b.length

/-- The divider at an instant: waiting batches enter, an idle divider starts the job at the head of the queue, and the room that frees
lets waiting batches enter (R110, R111). -/
def DividerTurn (clock : Nat) (old new : Divider) : Prop :=
  ∃ filled started, Entered old filled ∧ Entered started new ∧
    (filled.running ≠ none ∨ filled.queue = [] → started = filled) ∧
    ∀ j rest, filled.running = none → filled.queue = j :: rest →
      started = { filled with running := some ⟨j, clock⟩, queue := rest }

/-- A batch that becomes ready joins the waiting list behind the others; it enters the queue when none waits before it and it fits,
and an idle divider starts the job at the head of the queue, whose room lets waiting batches enter (R110, R111). -/
structure Handed (old new : Divider) (clock : Nat) (jobs : List Job) : Prop where
  turn    : DividerTurn clock { old with waiting := old.waiting ++ [jobs], batches := old.batches + 1 } new
  batches : new.batches = old.batches + 1
  kept    : ∀ j ∈ jobs, new.running = some ⟨j, clock⟩ ∨ j ∈ new.queue ∨ ∃ b ∈ new.waiting, j ∈ b
  busy    : old.waiting = [] → old.running ≠ none → old.queue.length + jobs.length ≤ 64 →
    new.queue = old.queue ++ jobs ∧ new.running = old.running ∧ new.waiting = []
  idle    : old.waiting = [] → old.running = none → old.queue.length + jobs.length ≤ 64 →
    ∀ j rest, old.queue ++ jobs = j :: rest → new.running = some ⟨j, clock⟩ ∧ new.queue = rest ∧ new.waiting = []
  waits   : old.running ≠ none → ∀ b rest, old.waiting ++ [jobs] = b :: rest → 64 < old.queue.length + b.length →
    new.queue = old.queue ∧ new.running = old.running ∧ new.waiting = old.waiting ++ [jobs]

/-- The running pairing `p` has settled: the lag slot is FREE; an open record of the pairing carries the outcome and what was
found; a closed one is rewritten in the log, if it is still there, and its BURST_END is posted (R189, R190, R197). -/
def Settled (s t : State) (p : Pairing) (outcome : PairingOutcome) (echo position element : Option Nat) : Prop :=
  let judged : BurstRecord → BurstRecord := fun r =>
    { r with outcome := outcome, echo := echo, position := position, element := element }
  t.ing.pairing = none ∧ t.prof.lag = ⟨.free, none, none, none⟩ ∧
    (p.closed = none → t.msg = s.msg ∧ t.ing.log = s.ing.log ∧
      ∀ r, (s.ingLeg p.leg).record = some r → r.serial = p.serial → (t.ingLeg p.leg).record = some (judged r)) ∧
    ∀ r, p.closed = some r → t.ing.log = (s.ing.log.map fun x => if x.serial = p.serial then judged r else x) ∧
      (∀ g, (t.ingLeg g).record = (s.ingLeg g).record) ∧ t.msg = s.msg.post t.time.clock (.burstEnd (judged r))

/-- The log after a record has joined it (R189): a full log loses its oldest. -/
def loggedWith (log : List BurstRecord) (r : BurstRecord) : List BurstRecord :=
  if 128 ≤ log.length then log.drop 1 ++ [r] else log ++ [r]

/-- A record closed with its end time and flags has gone to the log, and its BURST_END is posted, unless its pairing still runs, which
then keeps it; or, its snapshot still waiting, it has gone there with CAPTURE_BUSY (R86, R187, R189, R190). -/
def ClosedIntoLog (s t : State) (g : LegId) (r : BurstRecord) : Prop :=
  let busy := { r with outcome := .captureBusy, echo := none, position := none, element := none }
  ((∀ p, s.ing.pairing = some p → p.serial ≠ r.serial) → t.ing.log = loggedWith s.ing.log r ∧
    t.ing.pairing = s.ing.pairing ∧ t.msg = s.msg.post t.time.clock (.burstEnd r)) ∧
  ∀ p, s.ing.pairing = some p → p.serial = r.serial →
    (s.cap.waiting = none → t.ing.log = loggedWith s.ing.log r ∧ t.ing.pairing = some { p with closed := some r } ∧
      t.msg = s.msg) ∧
    (s.cap.waiting ≠ none → p.leg = g → p.closed = none → t.ing.log = loggedWith s.ing.log busy ∧ t.ing.pairing = none ∧
      t.cap.waiting = none ∧ t.msg = s.msg.post t.time.clock (.burstEnd busy))

/-- An open record after a further reading scan (R186): one scan more; the bins that entered BURST at it join its bins; a bin in BURST
whose reading is above the peak level becomes the peak, the highest reading first and then the lower bin, and without one the peak
stays; the rest of the record stays. -/
structure ScanUpdated (before after : Nat → Detector) (reading : Nat → Option Int) (r r' : BurstRecord) : Prop where
  kept  : r' = { r with scans := r.scans + 1, bins := r'.bins, peakLevel := r'.peakLevel, peakBin := r'.peakBin }
  bins  : r'.bins = (List.range 64).filter fun b => decide (b ∈ r.bins ∨ (after b = .burst ∧ before b = .quiet))
  stays : (∀ b < 64, after b = .burst → ∀ x, reading b = some x → x ≤ r.peakLevel) →
    r'.peakLevel = r.peakLevel ∧ r'.peakBin = r.peakBin
  rises : ∀ b < 64, after b = .burst → ∀ x, reading b = some x → r.peakLevel < x →
    (∀ c < 64, after c = .burst → ∀ y, reading c = some y → y < x ∨ (y = x ∧ b ≤ c)) →
    r'.peakLevel = x ∧ r'.peakBin = b

/-- Strays fed one after another, with the reports of those that were confirmed, in their order (R156, R167 to R172). -/
def fedStrays (g : LegId) (time confirmCount : Nat) : List Peak → Strays → Strays × List Report
  | [], t => (t, [])
  | p :: ps, t =>
    let fed := t.feed g (p.distance.getD 0) p.amplitude time confirmCount
    let rest := fedStrays g time confirmCount ps fed.1
    (rest.1, fed.2.toList ++ rest.2)

/-- The valid CANDIDATE entries of a leg whose cells were not fed are one older, and not valid from the limit on; every other entry,
the replacement bits and the drop counts stay (R173, R174). -/
def AgedStrays (g : LegId) (fedCells : List Nat) (limit : Nat) (old new : Strays) : Prop :=
  new.drops = old.drops ∧ ∀ i < 16, (new.set i).pairBit = (old.set i).pairBit ∧ (new.set i).lowBit = (old.set i).lowBit ∧
    (new.set i).highBit = (old.set i).highBit ∧ ∀ w,
      let e := (old.set i).ways.get w
      (new.set i).ways.get w =
        if e.valid = true ∧ e.leg = g ∧ e.state = .candidate ∧ e.cell ∉ fedCells then
          { e with age := e.age + 1, valid := decide (e.age + 1 < limit) }
        else e

end Sys2Proof.Machine
end

