-- ==== Sys2Proof/Certificates/Slice0/Obligations.lean ====
section
/-! DEFINITION. The statements for the provers. -/

open Sys2Proof Sys2Proof.Machine

/-! ### The step, time and reset -/

/-- The task's law of a block: a step takes the command at the front of the queue and runs it with the queue's rest; with no
command waiting, one reference cycle passes in a running part (the model's choice, log 4). -/
def Obligations.StepTakesFrontCommand : Prop :=
  (∀ (c : Instr) (rest : List Instr) (s : State), step (s.setPending (c :: rest)) = exec c (s.setPending rest)) ∧
    ∀ s : State, s.pending = [] → step s = .next (if s.inReset then s else s.after 1)

/-- R18: the timebase counts whole microseconds of the reference, 200 cycles each, and wraps at 48 bits; time that passes in
two runs is time that passes in one. On which cycle of the microsecond the count advances is counted from the end of the last reset
by the reference clock alone, also after a load of the timebase: that is the model's choice (log 10). While no samples are being
taken and no burst is being sent, the time is all that passing cycles change: that windows, scans, conversions and the transmitter stay
as they are meanwhile is the model's choice too, their events being rows of the table (log 4). -/
def Obligations.TimebaseCountsMicroseconds : Prop :=
  (∀ (t : Time) (k : Nat), (t.advance (200 * k)).timebase = (t.timebase + k) % 281474976710656) ∧
    (∀ (t : Time) (m n : Nat), (t.advance m).advance n = t.advance (m + n)) ∧
    (∀ (t : Time) (n : Nat), t.timebase < 281474976710656 → t.clock % 200 + n < 200 →
      t.advance n = ⟨t.clock + n, t.timebase⟩) ∧
    (∀ (t : Time), t.timebase < 281474976710656 → t.clock % 200 = 199 →
      (t.advance 1).timebase = if t.timebase = 281474976710655 then 0 else t.timebase + 1) ∧
    (∀ (s : State) (m n : Nat), (s.after m).after n = s.after (m + n)) ∧
    ∀ (s : State) (n : Nat), s.cap.sampling = none → s.probe.phase ≠ .burst → s.after n = s.setTime (s.time.advance n)

/-- R17, R33, R48, R49, R73, R88, R107, R127, R128, R142, R178, R199: the values after reset. R120, R180: the first conversion completes
1 s and the first scan of every leg falls 1 ms after the part leaves reset, 200,000,000 and 200,000 cycles of 5 ns. -/
def Obligations.ResetValues : Prop :=
  let s := State.reset
  (s.msg.assembler.mode = .hunt ∧ s.msg.assembler.retained = [] ∧ s.msg.requests = [] ∧ s.msg.slot = none ∧
    s.msg.reports = [] ∧ s.msg.tx = none ∧ s.msg.dispatching = true ∧ s.msg.frameErrors = 0 ∧ s.msg.reportsLost = 0) ∧
  (s.time.clock = 0 ∧ s.time.timebase = 0 ∧ s.win.table = [] ∧ s.win.nextId = 1) ∧
  (s.plan.limit = 0 ∧ s.plan.stored = List.replicate 64 .fixed) ∧
  (∀ g, s.leg g = ⟨none, .off, 0, 0, 0⟩) ∧
  (s.seq.queue = [] ∧ s.seq.nextId = 1 ∧ s.seq.inFlight = none) ∧
  (s.probe.phase = .idle ∧ s.probe.gate = false ∧ s.probe.carrier = none ∧ s.cap.coupler = none ∧
    s.cap.stream = .none ∧ s.cap.waiting = none ∧ ∀ h, (s.cap.half h).state = .free ∧ (s.cap.half h).owner = none ∧
      (s.cap.half h).void = false ∧ (s.cap.half h).clip = false ∧ (s.cap.half h).fillOrder = none) ∧
  (s.cor.job = none ∧ (∀ i, s.slot i = ⟨.free, none⟩) ∧ s.prof.lag = ⟨.free, none, none, none⟩) ∧
  (s.div.running = none ∧ s.div.queue = [] ∧ s.div.waiting = []) ∧
  (s.arith.temperature = 25 ∧ s.arith.nextConversion = 200000000 ∧ ∀ g, s.arith.cal.get g = none) ∧
  (∀ g, s.map.get g = ⟨[], 0⟩) ∧
  ((∀ i < 16, ∀ w, ((s.stray.set i).ways.get w).valid = false) ∧
    (∀ i < 16, (s.stray.set i).pairBit = false ∧ (s.stray.set i).lowBit = false ∧ (s.stray.set i).highBit = false) ∧
    ∀ g, s.stray.drops.get g = 0) ∧
  s.ing.log = [] ∧ s.ing.discards = 0 ∧ s.ing.pairing = none ∧
    ∀ g, (s.ingLeg g).settings = ⟨.absolute, -80, 40, 12, true⟩ ∧ (s.ingLeg g).nextScan = 200000 ∧ (s.ingLeg g).record = none ∧
      (s.ingLeg g).longHeld = false ∧ (s.ingLeg g).survey = none ∧ (s.ingLeg g).result = none ∧
      ∀ b < 64, (s.ingLeg g).detector b = .quiet ∧ (s.ingLeg g).readings.getD b none = none

/-- R16: POWER_UP leaves reset with cause POWER: every piece of state at its reset value, but the samples of the capture halves,
which are kept (R83), the fields of the stray entries, none of which is valid any more (R165), and the command queue, and HELLO with part code 0x416, revision 1 and cause 1 is the frame being sent. That
the same holds of a part that runs, a power cycle, is the model's deduction (log 6). R15, R16 (read as log 5 says): while the part is
held in reset, no other command has an effect. -/
def Obligations.PowerUpLeavesReset : Prop :=
  (∀ s : State, exec .powerUp s = .next (s.rested.setMsg
      { State.reset.msg with tx := some ⟨⟨0x60, 0, [0x16, 0x04, 0x01, 0x01]⟩, false, 0⟩ })) ∧
    ∀ (c : Instr) (s : State), s.inReset = true → c ≠ .powerUp → exec c s = .next s

/-- Every invariant of the blocks holds at reset (R17, R33, R48, R49, R73, R88, R127, R128, R142, R178, R199). -/
def Obligations.InvariantsHoldAtReset : Prop :=
  LineInv State.reset ∧ WindowInv State.reset ∧ LegInv State.reset ∧ QueueInv State.reset ∧ ProbeInv State.reset ∧
    MapInv State.reset ∧ StrayInv State.reset ∧ IngressInv State.reset

/-! ### The message line -/

/-- R7, R8: a request that completes while 8 wait is an overrun, counted and otherwise without effect; one that completes while
the reply slot is held or dispatch has stopped joins the tail of the list and is not served. -/
def Obligations.RequestsWaitOrOverrun : Prop :=
  ∀ (c : Instr) (f : Frame) (s : State), c.frame = some f → s.inReset = false →
    (8 ≤ s.msg.requests.length → exec c s = .next ((s.after c.after).setMsg
      { s.msg with frameErrors := min 65535 (s.msg.frameErrors + 1) })) ∧
    (s.msg.requests.length < 8 → (s.msg.slot ≠ none ∨ s.msg.dispatching = false) →
      exec c s = .next ((s.after c.after).setMsg { s.msg with requests := s.msg.requests ++ [f] }))

/-- R8, R9, R201: a dispatched request whose KIND is not in use is answered BAD_KIND, and one of a kind in use with a payload of
another length than its kind's BAD_LENGTH (CLASS_SET must hold 3 bytes and its count, read from its second byte); the reply
carries the kind plus 0x80 and the TAG, and nothing else changes. -/
def Obligations.BadKindAndBadLength : Prop :=
  (∀ (n : Nat) (kind tag : Byte) (p : List Byte) (s : State), Ready s → kind.toNat ∉ kindsInUse →
    exec (.unknownKind n kind tag p) s = .next ((s.after n).replied kind tag .badKind [])) ∧
  ∀ (c : Instr) (f : Frame) (s : State), Ready s → c.frame = some f →
    ((∃ n, (f.kind.toNat, n) ∈ requestLengths ∧ f.payload.length ≠ n) ∨
      (f.kind = 0x14 ∧ ∀ b0 b1 rest, f.payload = b0 :: b1 :: rest → rest.length ≠ 1 + b1.toNat)) →
    exec c s = .next ((s.after c.after).replied f.kind f.tag .badLength [])

/-- R14, R202: STATUS_GET answers OK with its 21 bytes of fields, taken at dispatch, and changes no other state. R19: TIME_GET
answers OK with the timebase value at its dispatch and changes no other state. R15, step 1: RESTART places an OK reply, marked as
the RESTART reply, and stops dispatch; nothing else changes. -/
def Obligations.StatusTimeAndRestart : Prop :=
  ∀ (n : Nat) (tag : Byte) (s : State), Ready s →
    let u := s.after n
    exec (.statusGet n tag []) s = .next (u.replied 0x01 tag .ok
      (le 6 u.time.timebase ++ leSigned 1 u.arith.temperature ++ u8 (u.leg 0).state.code ++ u8 (u.leg 1).state.code
        ++ u8 (u.leg 2).state.code ++ u8 (u.leg 3).state.code ++ u8 u.seq.queue.length ++ u8 u.div.queue.length
        ++ u8 u.msg.reports.length ++ u8 u.ing.log.length ++ le 2 u.msg.frameErrors ++ le 2 u.msg.reportsLost
        ++ le 2 u.ing.discards)) ∧
    exec (.timeGet n tag []) s = .next (u.replied 0x04 tag .ok (le 6 u.time.timebase)) ∧
    exec (.restart n tag []) s = .next (u.setMsg (match u.msg.tx with
      | none => { u.msg with dispatching := false, tx := some ⟨replyFrame 0x02 tag .ok [], true, u.time.clock⟩ }
      | some _ => { u.msg with dispatching := false, slot := some ⟨replyFrame 0x02 tag .ok [], true⟩ }))

/-- R1, R2: while a frame is being sent, the line carries its bytes back to back, each as a low start bit, its 8 data bits with the
least significant first and a high stop bit, each bit 1/230,400 s (15,625/18 cycles) long from the clock at which the frame was taken
(log 11); after its last bit, and while the transmitter is IDLE, the line is high. R12, R13, R15, R16: the end of a frame falls where its bytes end on the line, rounded up to a cycle (log 11), or now when it is
taken late (log 2). The transmitter takes the waiting reply, otherwise the oldest report, otherwise goes IDLE; after the RESTART
reply it takes nothing, and the part leaves reset with cause RESTART, HELLO being sent, the samples of the capture halves kept
(R83) and the stray entries' fields, none of them valid (R165). R8: when a reply is taken while requests wait and dispatch runs, the oldest of them is dispatched at that instant, as the
command of its kind would be, its reply fills the slot, and the others go on waiting. An IDLE transmitter has nothing to end, and
the state stays (log 3). -/
def Obligations.FrameSentTakesNext : Prop :=
  (∀ s : State, (s.msg.tx = none → lineLevel s = true) ∧ ∀ x, s.msg.tx = some x →
    let covered := le 2 (x.frame.payload.length + 2) ++ [x.frame.kind, x.frame.tag] ++ x.frame.payload
    let bytes := [0xB6] ++ covered ++ le 2 (crc covered).toNat
    let bit := (s.time.clock - x.startClock) * 18 / 15625
    (10 * bytes.length ≤ bit → lineLevel s = true) ∧
    (bit < 10 * bytes.length → lineLevel s = if bit % 10 = 0 then false else if bit % 10 = 9 then true
      else (bytes.getD (bit / 10) 0).getLsbD (bit % 10 - 1))) ∧
  ∀ s : State, s.inReset = false →
    (∀ x, s.msg.tx = some x → s.msg.hold = false →
      let u := s.atClock (x.startClock + ((x.frame.payload.length + 7) * 78125 + 8) / 9)
      (x.restart = false → s.msg.requests = [] ∨ s.msg.dispatching = false →
        (∀ r, s.msg.slot = some r → exec .frameSent s = .next (u.setMsg
          { s.msg with slot := none, tx := some ⟨r.frame, r.restart, u.time.clock⟩ })) ∧
        (∀ r rs, s.msg.slot = none → s.msg.reports = r :: rs → exec .frameSent s = .next (u.setMsg
          { s.msg with reports := rs, tx := some ⟨r.frame, false, u.time.clock⟩ })) ∧
        (s.msg.slot = none → s.msg.reports = [] → exec .frameSent s = .next (u.setMsg { s.msg with tx := none }))) ∧
      (x.restart = false → s.msg.dispatching = true → ∀ r f waiting, s.msg.slot = some r → s.msg.requests = f :: waiting →
        (∃ t y, exec .frameSent s = .next t ∧ t.time.clock = u.time.clock ∧ t.msg.requests = waiting ∧
          t.msg.tx = some ⟨r.frame, r.restart, u.time.clock⟩ ∧ t.msg.slot = some y ∧ y.frame.kind = f.kind + 0x80 ∧
          y.frame.tag = f.tag) ∧
        ∀ c : Instr, waiting = [] → c.frame = some f → c.after = 0 → exec .frameSent s = exec c (u.setMsg
          { s.msg with slot := none, requests := [], tx := some ⟨r.frame, r.restart, u.time.clock⟩ })) ∧
      (x.restart = true → exec .frameSent s = .next (u.rested.setMsg
          { State.reset.msg with tx := some ⟨⟨0x60, 0, [0x16, 0x04, 0x01, 0x02]⟩, false, 0⟩ }))) ∧
    (s.msg.tx = none → exec .frameSent s = .next s)

/-- R10: a report posted to a queue of 32 is dropped and counted; otherwise it joins the tail, and an IDLE transmitter with
nothing waiting takes it at once. 1.4, R200, R202: the kind and the payload of each report, field by field. -/
def Obligations.PostingAReport : Prop :=
  (∀ (r : Report) (s : State),
    (32 ≤ s.msg.reports.length →
      post r s = s.setMsg { s.msg with reportsLost := min 65535 (s.msg.reportsLost + 1) }) ∧
    (s.msg.reports.length < 32 → s.msg.tx ≠ none → post r s = s.setMsg { s.msg with reports := s.msg.reports ++ [r] }) ∧
    (s.msg.reports = [] → s.msg.tx = none → s.msg.slot = none → s.msg.hold = false →
      post r s = s.setMsg { s.msg with tx := some ⟨⟨r.kind, 0, r.payload⟩, false, s.time.clock⟩ })) ∧
  (∀ cause, (Report.hello cause).frame = ⟨0x60, 0, [0x16, 0x04, 1] ++ u8 cause.code⟩) ∧
  (∀ id leg slot outcome flags started done peaks matched strays level time,
    (Report.sweepEnd id leg slot outcome flags started done peaks matched strays level time).frame = ⟨0x61, 0,
      u8 id ++ u8 leg.val ++ u8 slot.val ++ u8 outcome.code
        ++ u8 (bitsOf [flags.clipped, flags.calDone, flags.calFailed, flags.peaksTruncated, flags.range])
        ++ u8 started ++ u8 done ++ u8 peaks ++ u8 matched ++ u8 strays ++ u8 level ++ le 6 time⟩) ∧
  (∀ leg element sweep old new distance misses time a b,
    (Report.elementChange leg element sweep old new distance misses time a b).frame = ⟨0x62, 0,
      u8 leg.val ++ u8 element ++ u8 sweep ++ u8 old.code ++ u8 new.code ++ le 2 distance ++ u8 misses ++ le 6 time
        ++ u8 (bitsOf [a.isSome, b.isSome]) ++ le 2 (a.getD 0) ++ le 2 (b.getD 0)⟩) ∧
  (∀ leg cell set way distance amplitude sightings first last,
    (Report.strayConfirmed leg cell set way distance amplitude sightings first last).frame = ⟨0x63, 0,
      u8 leg.val ++ le 2 cell ++ u8 set ++ u8 way ++ le 2 distance ++ le 2 amplitude ++ u8 sightings ++ le 6 first
        ++ le 6 last⟩) ∧
  (∀ r, (Report.burstEnd r).frame = ⟨0x64, 0,
      u8 r.leg.val ++ le 6 r.startTime ++ le 6 (r.endTime.getD 0) ++ binSet r.bins ++ leSigned 2 r.peakLevel ++ u8 r.peakBin
        ++ le 2 r.scans ++ u8 (bitsOf [r.long, r.cut]) ++ u8 r.outcome.code
        ++ u8 (bitsOf [r.echo.isSome, r.position.isSome, r.element.isSome]) ++ le 2 (r.echo.getD 0)
        ++ le 2 (r.position.getD 0) ++ u8 (r.element.getD 0)⟩) ∧
  (∀ leg faults level sweep time, (Report.legFault leg faults level sweep time).frame = ⟨0x65, 0,
      u8 leg.val ++ u8 faults ++ u8 level ++ u8 sweep ++ le 6 time⟩) ∧
  (∀ id legs start stop before after, (Report.windowMissed id legs start stop before after).frame = ⟨0x66, 0,
      u8 id ++ u8 (bitsOf [legs.get 0, legs.get 1, legs.get 2, legs.get 3]) ++ le 6 start ++ le 6 stop ++ le 6 before
        ++ le 6 after⟩) ∧
  ∀ id legs start stop time made revoked, (Report.windowClosed id legs start stop time made revoked).frame = ⟨0x67, 0,
      u8 id ++ u8 (bitsOf [legs.get 0, legs.get 1, legs.get 2, legs.get 3]) ++ le 6 start ++ le 6 stop ++ le 6 time
        ++ le 2 made ++ yesNo revoked⟩

/-- R3: the check value of the text "123456789", and of STATUS_GET's four bytes in 1.2; and the CRC is the remainder of the
bits of the bytes, most significant first, under x^16 + x^12 + x^5 + 1, each bit carried in from the top. -/
def Obligations.CrcFollowsItsPolynomial : Prop :=
  crc [0x31, 0x32, 0x33, 0x34, 0x35, 0x36, 0x37, 0x38, 0x39] = 0x29B1 ∧ crc [0x02, 0x00, 0x01, 0x05] = 0x0A3C ∧
    crc [] = 0xFFFF ∧
    ∀ (bs : List Byte) (b : Byte), (crc (bs ++ [b])).toNat =
      (Nat.repeat (fun r => if 32768 ≤ r then (2 * r) % 65536 ^^^ 0x1021 else 2 * r) 8)
        ((crc bs).toNat ^^^ (256 * b.toNat))

/-- R1: a byte is taken with its 8 data bits as received, the least significant first, whatever its stop bit is. R2 to R7: the bytes of a
frame of up to 1,024 payload bytes, arriving from HUNT with no more than 5 ms between consecutive
bytes, bring exactly that frame to the request list, however they are spaced, and leave the assembler in HUNT, its
remainder and SYNC time as after reset (log 29). -/
def Obligations.FrameBytesBringTheFrame : Prop :=
  (∀ (b : Byte) (start stop : Bool), receivedByte ([start] ++ (List.ofFn fun i : Fin 8 => b.getLsbD i.val) ++ [stop]) = b) ∧
  ∀ (f : Frame) (gaps : List Nat) (s : State), f.payload.length ≤ 1024 → s.inReset = false →
    s.msg.assembler.mode = .hunt → gaps.length = f.bytes.length → (∀ n ∈ gaps.tail, n ≤ 1000000) →
    Host.Core.run Sys2Proof.core f.bytes.length (s.setPending (List.zipWith Instr.byteArrival gaps f.bytes)) =
      .next (offerRequest f (((s.after gaps.sum).setPending []).setMsg { s.msg with assembler := .reset }))

/-- R4: in HUNT a byte other than SYNC leaves no trace, and SYNC starts a frame. R4, R6: a byte that makes LENGTH fall out of range,
or that completes a frame whose CRC does not match, brings a discard: one error is counted, and where the bytes after the SYNC hold
no further SYNC, the assembler is in HUNT with nothing retained. R5, R6: 5 ms after the last byte of a frame in progress the frame
is discarded and one error is counted, and every good frame held inside the retained bytes reaches the request list, in the order
sent; where they hold no SYNC, nothing more happens. A late expiry is log 2, in HUNT nothing is due and the state stays (log 3), and
the remainder and SYNC time in HUNT are those after reset (log 29). -/
def Obligations.AssemblerHuntsAndDiscards : Prop :=
  (∀ (n : Nat) (b : Byte) (s : State), s.inReset = false → s.msg.assembler = .reset →
    (b ≠ 0xB6 → exec (.byteArrival n b) s = .next (s.after n)) ∧
      exec (.byteArrival n 0xB6) s = .next ((s.after n).setMsg
        { s.msg with assembler := ⟨.length, (s.after n).time.clock, [], 0xFFFF⟩ })) ∧
  (∀ (n : Nat) (b : Byte) (s : State), s.inReset = false → s.msg.assembler.mode ≠ .hunt →
    let bs := s.msg.assembler.retained.map (·.byte) ++ [b]
    let length := (bs.getD 0 0).toNat + 256 * (bs.getD 1 0).toNat
    2 ≤ bs.length → (∀ x ∈ bs, x ≠ 0xB6) →
    (length < 2 ∨ 1026 < length ∨ (bs.length = length + 4 ∧
      (crc (bs.take (length + 2))).toNat ≠ (bs.getD (length + 2) 0).toNat + 256 * (bs.getD (length + 3) 0).toNat)) →
    exec (.byteArrival n b) s = .next ((s.after n).setMsg
      { s.msg with assembler := .reset, frameErrors := min 65535 (s.msg.frameErrors + 1) })) ∧
  ∀ s : State, s.inReset = false →
    (s.msg.assembler.mode ≠ .hunt →
      let u := s.atClock (((s.msg.assembler.retained.map (·.time)).getLast?.getD s.msg.assembler.syncTime) + 1000000)
      let v := u.setMsg { s.msg with assembler := .reset, frameErrors := min 65535 (s.msg.frameErrors + 1) }
      ((∀ x ∈ s.msg.assembler.retained, x.byte ≠ 0xB6) → exec .frameDelayExpiry s = .next v) ∧
      ∀ fs : List Frame, (∀ f ∈ fs, f.payload.length ≤ 1024) →
        s.msg.assembler.retained.map (·.byte) = fs.flatMap Frame.bytes →
        (s.msg.assembler.retained.IsChain fun x y => y.time ≤ x.time + 1000000) →
        exec .frameDelayExpiry s = .next (fs.foldl (fun t f => offerRequest f t) v)) ∧
    (s.msg.assembler.mode = .hunt → exec .frameDelayExpiry s = .next s)

/-! ### Time and windows -/

/-- R23, R52: the id given is the first, counting upward from next-id and wrapping from 255 to 1, that no record carries; with at
most 4 records it is found within five tries, and next-id becomes the id after it. -/
def Obligations.FirstFreeIdIsGiven : Prop :=
  ∀ (next : Nat) (used : List Nat), 1 ≤ next → next ≤ 255 → used.length ≤ 4 →
    ∃ k ≤ 4, allocateId 5 next used = (next - 1 + k) % 255 + 1 ∧ (next - 1 + k) % 255 + 1 ∉ used ∧
      (∀ j < k, (next - 1 + j) % 255 + 1 ∈ used) ∧
      nextIdAfter (allocateId 5 next used) = (next + k) % 255 + 1

/-- R20, R21, R31, R188: TIME_SET is refused BUSY while a window is OPEN. Otherwise the timebase takes the value carried, the reply
carries the value it replaced, no burst record stays open: each stands in the log, ended at the value before the load, with CUT and
without LONG, and CAPTURE_BUSY where its snapshot was still waiting (R86); the windows that ended by the new value leave the table,
and, with room in the report queue, WINDOW_MISSED with both values is queued or taken for each; the one that straddles it is OPEN
with its granted span, the others stay PENDING; and the plan, the legs, the correlator, the divider, the span arithmetic, the map,
the stray table and the detectors are unchanged. -/
def Obligations.TimeSetLoadsTheTimebase : Prop :=
  ∀ (n v : Nat) (tag : Byte) (s : State), Ready s → v < 281474976710656 →
    let u := s.after n
    (s.openWindow ≠ none → exec (.timeSet n tag (le 6 v)) s = .next (u.replied 0x03 tag .busy [])) ∧
    (s.openWindow = none → WindowInv s → ∃ t, exec (.timeSet n tag (le 6 v)) s = .next t ∧
      t.time = ⟨u.time.clock, v⟩ ∧ Answered t 0x03 tag .ok (le 6 u.time.timebase) ∧ (∀ g, (t.ingLeg g).record = none) ∧
      (∀ g r, (s.ingLeg g).record = some r →
        let closed := { r with endTime := some u.time.timebase, long := false, cut := true }
        (s.cap.waiting = none ∨ (∀ p, s.ing.pairing = some p → p.serial ≠ r.serial) → closed ∈ t.ing.log) ∧
        ∀ p, s.ing.pairing = some p → p.leg = g → p.serial = r.serial → p.closed = none → s.cap.waiting ≠ none →
          { closed with outcome := .captureBusy, echo := none, position := none, element := none } ∈ t.ing.log) ∧
      (s.msg.reports.length + 9 ≤ 32 → ∀ w ∈ s.win.table, w.stop ≤ v →
        Reported t (.windowMissed w.id w.legs w.start w.stop u.time.timebase v)) ∧
      t.win.nextId = s.win.nextId ∧
      t.win.table.map (fun w => (w.id, w.start, w.stop, w.legs, w.state)) =
        ((s.win.table.filter fun w => v < w.stop).map fun w =>
          (w.id, w.start, w.stop, w.legs, if w.start ≤ v then WindowState.opened else .pending)) ∧
      t.plan = s.plan ∧ t.legs = s.legs ∧ t.cor = s.cor ∧ t.div = s.div ∧ t.arith = s.arith ∧ t.map = s.map ∧
      t.stray = s.stray ∧ t.pending = s.pending ∧ ∀ g, (t.ingLeg g).detectors = (s.ingLeg g).detectors)

/-- R24, R25: WINDOW_GRANT's checks in their order, each refusal changing nothing; an accepted grant that starts later, or now
while another window is OPEN, joins the table PENDING in its place by start, with the id of R23; one that starts now with no
window OPEN is OPEN at once. -/
def Obligations.WindowGrantChecksAndJoins : Prop :=
  ∀ (n start length : Nat) (legs tag : Byte) (s : State), Ready s → start < 281474976710656 → length < 4294967296 →
    let u := s.after n
    let c := Instr.windowGrant n tag (le 6 start ++ le 4 length ++ [legs])
    let clash := ∃ w ∈ s.win.table, start < w.stop ∧ w.start < start + length
    let id := allocateId 5 s.win.nextId (s.win.table.map (·.id))
    (grantOutOfRange start length legs.toNat → exec c s = .next (u.replied 0x08 tag .badValue [])) ∧
    (¬ grantOutOfRange start length legs.toNat → start < u.time.timebase →
      exec c s = .next (u.replied 0x08 tag .late [])) ∧
    (¬ grantOutOfRange start length legs.toNat → u.time.timebase ≤ start → clash →
      exec c s = .next (u.replied 0x08 tag .overlap [])) ∧
    (¬ grantOutOfRange start length legs.toNat → u.time.timebase ≤ start → ¬ clash → 4 ≤ s.win.table.length →
      exec c s = .next (u.replied 0x08 tag .noRoom [])) ∧
    (¬ grantOutOfRange start length legs.toNat → u.time.timebase ≤ start → ¬ clash → s.win.table.length < 4 →
      (u.time.timebase < start ∨ s.openWindow ≠ none → ∃ before rest,
        s.win.table = before ++ rest ∧ (∀ w ∈ before, w.start ≤ start) ∧ (∀ w ∈ rest.head?, start < w.start) ∧
        exec c s = .next ((u.setWin ⟨before ++ ⟨id, start, start + length, legSetOf legs.toNat, .pending, 0⟩ :: rest,
          nextIdAfter id⟩).replied 0x08 tag .ok (u8 id))) ∧
      (u.time.timebase = start → s.openWindow = none → WindowInv s → ∃ t w, exec c s = .next t ∧ t.openWindow = some w ∧
        w.id = id ∧ w.start = start ∧ w.stop = start + length ∧ w.legs = legSetOf legs.toNat ∧
        t.win.nextId = nextIdAfter id ∧ t.time = u.time ∧ Answered t 0x08 tag .ok (u8 id)))

/-- R28, R29, R31: WINDOW_REVOKE of an id not in the table is refused NOT_FOUND; of a PENDING window it removes the record and
nothing else; of the OPEN window it removes the record and answers OK with the state OPEN, the other windows staying as they
are, and, with room in the report queue for it and for the BURST_END reports the close may bring, in whatever order they join
(R10; log 7), WINDOW_CLOSED with the revoked flag is in the report queue or taken by the transmitter. -/
def Obligations.WindowRevokeRemoves : Prop :=
  ∀ (n : Nat) (id tag : Byte) (s : State), Ready s →
    let u := s.after n
    (s.win.table.find? (fun w => w.id == id.toNat) = none →
      exec (.windowRevoke n tag [id]) s = .next (u.replied 0x09 tag .notFound [])) ∧
    ∀ w, s.win.table.find? (fun x => x.id == id.toNat) = some w →
      (w.state = .pending → exec (.windowRevoke n tag [id]) s = .next
        ((u.setWin { s.win with table := s.win.table.filter fun x => x.id ≠ w.id }).replied 0x09 tag .ok [0])) ∧
      (w.state = .opened → WindowInv s → s.msg.reports.length + 7 ≤ 32 → ∃ t, exec (.windowRevoke n tag [id]) s = .next t ∧
        t.win = { s.win with table := s.win.table.filter fun x => x.id ≠ w.id } ∧ t.openWindow = none ∧
        Answered t 0x09 tag .ok [1] ∧ t.time = u.time ∧ t.plan = s.plan ∧ t.legs = s.legs ∧ t.div = s.div ∧
        t.arith = s.arith ∧ t.map = s.map ∧ t.stray = s.stray ∧
        (Report.windowClosed w.id w.legs w.start w.stop u.time.timebase w.made true ∈ t.msg.reports ∨
          ∃ c, t.msg.tx = some ⟨(Report.windowClosed w.id w.legs w.start w.stop u.time.timebase w.made true).frame, false, c⟩))

/-- R26: when the timebase reaches the start of the first window while none is OPEN, the window is OPEN with its granted span; a
late event finds the timebase past the start and leaves it there (log 2). The plan, the legs, the divider, the span arithmetic,
the map, the stray table and the message controller are unchanged. -/
def Obligations.WindowOpensAtItsStart : Prop :=
  ∀ (w : Window) (rest : List Window) (s : State), s.inReset = false → WindowInv s → s.win.table = w :: rest →
    s.openWindow = none → w.start < 281474976710656 →
    ∃ t x, exec .windowOpen s = .next t ∧ t.openWindow = some x ∧ x.id = w.id ∧ x.start = w.start ∧ x.stop = w.stop ∧
      x.legs = w.legs ∧ t.time.timebase = max s.time.timebase w.start ∧ t.win.table.map (·.id) = s.win.table.map (·.id) ∧
      t.plan = s.plan ∧ t.legs = s.legs ∧ t.div = s.div ∧ t.arith = s.arith ∧ t.map = s.map ∧ t.stray = s.stray ∧
      t.msg = s.msg

/-- R27, R31: when the timebase reaches the OPEN window's end the window leaves the table; a window that starts where it ended is
OPEN after the same event, and otherwise none is. With room in the report queue for it and for the BURST_END reports the close may
bring, in whatever order they join (R10; log 7), WINDOW_CLOSED without the revoked flag is queued or taken. An event that comes late
finds the timebase past the end and leaves it there, and the close time is that later value (log 2). -/
def Obligations.WindowClosesAtItsEnd : Prop :=
  ∀ (w : Window) (s : State), s.inReset = false → WindowInv s → LineInv s → s.openWindow = some w →
    w.stop < 281474976710656 → s.msg.reports.length + 7 ≤ 32 →
    ∃ t, exec .windowClose s = .next t ∧ t.time.timebase = max s.time.timebase w.stop ∧
      t.win.table.map (·.id) = (s.win.table.filter fun x => x.id ≠ w.id).map (·.id) ∧
      (∀ x, t.openWindow = some x → x.start = w.stop) ∧
      (∀ x, (s.win.table.filter fun y => y.id ≠ w.id).head? = some x → x.start = w.stop → ∃ y, t.openWindow = some y ∧
        y.id = x.id) ∧
      (Report.windowClosed w.id w.legs w.start w.stop (max s.time.timebase w.stop) w.made false ∈ t.msg.reports ∨
        ∃ c, t.msg.tx = some ⟨(Report.windowClosed w.id w.legs w.start w.stop (max s.time.timebase w.stop) w.made
          false).frame, false, c⟩) ∧
      t.plan = s.plan ∧ t.legs = s.legs ∧ t.div = s.div ∧ t.arith = s.arith ∧ t.map = s.map ∧ t.stray = s.stray

/-! ### Legs and the spectrum plan -/

/-- R42, R43: LEG_SET's three checks in their order, each refusal changing nothing; accepted, it replaces the settings of the OFF
leg, puts Q_cal at Q_nom and T_cal at the temperature reading, and changes nothing else: the leg stays OFF with its level,
fault counter and countdown. -/
def Obligations.LegSetReplacesSettings : Prop :=
  ∀ (n : Nat) (tag : Byte) (b : Fin 27 → Byte) (s : State), Ready s →
    let u := s.after n
    let c := Instr.legSet n tag (List.ofFn b)
    let t := settingsOfBytes b
    (4 ≤ (b 0).toNat → exec c s = .next (u.replied 0x10 tag .badValue [])) ∧
    ∀ g : LegId, (b 0).toNat = g.val →
      ((s.leg g).state ≠ .off → exec c s = .next (u.replied 0x10 tag .legState [])) ∧
      ((s.leg g).state = .off → ¬ settingsAccepted t → exec c s = .next (u.replied 0x10 tag .badValue [])) ∧
      ((s.leg g).state = .off → settingsAccepted t → exec c s = .next
        (((u.setLegs (s.legs.set g { s.leg g with settings := some t })).setArith
          { s.arith with cal := s.arith.cal.set g (some ⟨(t.vfMilli * 1918672 + 50000) / 100000, s.arith.temperature⟩) }
          ).replied 0x10 tag .ok []))

/-- R45: LEG_ENABLE is refused BAD_VALUE above leg 3 and LEG_STATE on an ENABLED leg or an OFF leg without settings; otherwise the
leg is ENABLED at its start level with fault counter 0 and countdown 500, its settings kept, the reply carries the state it
left, and the other legs, the plan, the correlator, the divider, the span arithmetic, the map and the stray table stay. -/
def Obligations.LegEnableStartsTheLeg : Prop :=
  ∀ (n : Nat) (leg tag : Byte) (s : State), Ready s →
    let u := s.after n
    let c := Instr.legEnable n tag [leg]
    (4 ≤ leg.toNat → exec c s = .next (u.replied 0x11 tag .badValue [])) ∧
    ∀ g : LegId, leg.toNat = g.val →
      ((s.leg g).state = .enabled ∨ ((s.leg g).state = .off ∧ (s.leg g).settings = none) →
        exec c s = .next (u.replied 0x11 tag .legState [])) ∧
      ∀ set, (s.leg g).settings = some set → (s.leg g).state ≠ .enabled → ∃ t, exec c s = .next t ∧
        t.legs = s.legs.set g ⟨some set, .enabled, set.startLevel, 0, 500⟩ ∧
        Answered t 0x11 tag .ok (u8 (s.leg g).state.code) ∧ t.time = u.time ∧ t.plan = s.plan ∧ t.cor = s.cor ∧
        t.div = s.div ∧ t.arith = s.arith ∧ t.map = s.map ∧ t.stray = s.stray ∧ t.msg.reports = s.msg.reports ∧
        t.pending = s.pending

/-- R46, R68, R188: LEG_DISABLE is refused BAD_VALUE above leg 3 and LEG_STATE on an OFF leg; otherwise the leg is OFF with
countdown 0, keeping its settings, level and fault counter, and it has no open record, no open survey, no long-held mark, no latest
reading and every detector QUIET; the latched survey result, the plan, the windows' ids, the span arithmetic, the map and the stray
table stay. R64, R65, R68: each of its sweeps has ended LEG_OFF, its slot FREE, with its SWEEP_END in queue order, the records of
other legs staying; an acquisition of one of them in flight is cut off (log 30) and the probe muted. R188, R189: the open record is in the log,
ended now with CUT. R86, R115, R198: a running pairing of the leg is settled OFF, the lag slot FREE: a waiting snapshot is withdrawn, a
filling one cut off, a queued REFINE job removed; the record's log entry, if it is there, says OFF, and BURST_END is posted. With room
for them the SWEEP_END and BURST_END reports join the queue, in no stated order between the two kinds (log 7), and no other. -/
def Obligations.LegDisableTearsDown : Prop :=
  ∀ (n : Nat) (leg tag : Byte) (s : State), Ready s →
    let u := s.after n
    let c := Instr.legDisable n tag [leg]
    (4 ≤ leg.toNat → exec c s = .next (u.replied 0x12 tag .badValue [])) ∧
    ∀ g : LegId, leg.toNat = g.val →
      ((s.leg g).state = .off → exec c s = .next (u.replied 0x12 tag .legState [])) ∧
      ((s.leg g).state ≠ .off → ∃ t, exec c s = .next t ∧
        t.legs = s.legs.set g { s.leg g with state := .off, settle := 0 } ∧
        Answered t 0x12 tag .ok (u8 (s.leg g).state.code) ∧ (∀ w ∈ t.seq.queue, w.leg ≠ g) ∧ t.cap.waiting ≠ some g ∧
        (t.ingLeg g).record = none ∧ (t.ingLeg g).survey = none ∧ (t.ingLeg g).longHeld = false ∧
        (∀ b, (t.ingLeg g).detector b = .quiet) ∧ (∀ b, (t.ingLeg g).readings.getD b none = none) ∧
        (t.ingLeg g).result = (s.ingLeg g).result ∧ t.time = u.time ∧ t.plan = s.plan ∧
        t.win.table.map (·.id) = s.win.table.map (·.id) ∧ t.arith = s.arith ∧ t.map = s.map ∧ t.stray = s.stray ∧
        (QueueInv s →
          let record := (s.ingLeg g).record
          let shut : BurstRecord → BurstRecord := fun r => { r with endTime := some u.time.timebase, long := false, cut := true }
          let off : BurstRecord → BurstRecord := fun r =>
            { r with outcome := .off, echo := none, position := none, element := none }
          let logged := record.elim s.ing.log fun r => loggedWith s.ing.log (shut r)
          (∀ w ∈ s.seq.queue, w.leg = g → Ended t w) ∧
          keptRecords t.seq.queue = keptRecords (s.seq.queue.filter fun w => w.leg ≠ g) ∧
          (∀ a h, s.seq.inFlight = some a → (∃ w ∈ s.seq.queue, w.id = a.sweepId ∧ w.leg = g) → s.cap.stream = .acquisition →
            s.cap.inState .filling = some h → CutOff u t h ∧
              (t.seq.inFlight = none → t.probe.phase = .idle ∧ t.probe.gate = false)) ∧
          (∀ p, s.ing.pairing = some p → p.leg = g → t.ing.pairing = none ∧ t.prof.lag = ⟨.free, none, none, none⟩ ∧
            (∀ j ∈ t.div.queue, j.owner ≠ .refinePairing g) ∧ (∀ b ∈ t.div.waiting, ∀ j ∈ b, j.owner ≠ .refinePairing g) ∧
            ∀ h, s.cap.stream = .snapshot → s.cap.coupler = some g → s.cap.inState .filling = some h →
              s.seq.inFlight = none → CutOff u t h) ∧
          ∃ bursts : List Report,
            ((∀ p, s.ing.pairing = some p → p.leg ≠ g ∧ ∀ r, record = some r → p.serial ≠ r.serial) →
              bursts = (record.map fun r => .burstEnd (shut r)).toList ∧ t.ing.log = logged ∧
                t.ing.pairing = s.ing.pairing) ∧
            (∀ p r, s.ing.pairing = some p → p.leg = g → record = some r → p.serial = r.serial →
              bursts = [.burstEnd (off (shut r))] ∧
                t.ing.log = logged.map fun x => if x.serial = p.serial then off (shut r) else x) ∧
            (∀ p x, s.ing.pairing = some p → p.leg = g → p.closed = some x → (∀ r, record = some r → p.serial ≠ r.serial) →
              bursts = (record.map fun r => .burstEnd (shut r)).toList ++ [.burstEnd (off x)] ∧
                t.ing.log = logged.map fun y => if y.serial = p.serial then off x else y) ∧
            (s.msg.reports.length + 6 ≤ 32 → ∃ rs, Joined s t rs ∧
              rs.filter (fun r => r.kind == 0x61) =
                (s.seq.queue.filter fun w => w.leg = g).map (sweepEndIn u .legOff (s.leg g).level) ∧
              rs.filter (fun r => r.kind == 0x64) = bursts ∧ ∀ r ∈ rs, r.kind = 0x61 ∨ r.kind = 0x64)))

/-- R35, R36, R37, R67: CLASS_SET is refused BAD_VALUE, changing nothing, when its range, a class or its limit is out of range;
otherwise the classes of the range and the limit are the ones carried, the other bins keep theirs, and the legs, the span arithmetic,
the map and the stray table stay. R64, R65: each QUEUED or ACQUIRING sweep whose band is not admissible ends EXCLUDED, its slot FREE,
and the SWEEP_END reports join the queue in queue order, with none but BURST_END among them (log 7); the ANALYSING records and those
whose band is admissible stay in queue order. -/
def Obligations.ClassSetWritesThePlan : Prop :=
  ∀ (n : Nat) (first limit tag : Byte) (classes : List Byte) (s : State), Ready s → QueueInv s → classes.length < 256 →
    s.plan.stored.length = 64 →
    let u := s.after n
    let c := Instr.classSet n tag ([first, BitVec.ofNat 8 classes.length, limit] ++ classes)
    let bad := 63 < first.toNat ∨ 64 < classes.length ∨ 64 < first.toNat + classes.length ∨ (∃ b ∈ classes, 2 < b.toNat) ∨
      64 < limit.toNat
    (bad → exec c s = .next (u.replied 0x14 tag .badValue [])) ∧
    (¬ bad → ∃ t, exec c s = .next t ∧ t.plan.limit = limit.toNat ∧ t.plan.stored.length = 64 ∧
      (∀ b < 64, (t.plan.stored.getD b .fixed).code =
        if first.toNat ≤ b ∧ b < first.toNat + classes.length then (classes.getD (b - first.toNat) 0).toNat
        else (s.plan.stored.getD b .fixed).code) ∧
      (∀ w ∈ t.seq.queue, w.state ≠ .analysing → t.admissible w.leg = true) ∧ Answered t 0x14 tag .ok [] ∧
      t.time = u.time ∧ t.legs = s.legs ∧ t.arith = s.arith ∧ t.map = s.map ∧ t.stray = s.stray ∧
      let excluded : Sweep → Bool := fun w => decide (w.state ≠ .analysing ∧ t.admissible w.leg = false)
      keptRecords t.seq.queue = keptRecords (s.seq.queue.filter fun w => !excluded w) ∧
      (∀ w ∈ s.seq.queue, excluded w = true → Ended t w) ∧
      (s.msg.reports.length + 9 ≤ 32 → ∃ rs, Joined s t rs ∧
        rs.filter (fun r => r.kind == 0x61) =
          (s.seq.queue.filter excluded).map (fun w => sweepEndIn u .excluded (s.leg w.leg).level w) ∧
        ∀ r ∈ rs, r.kind = 0x61 ∨ r.kind = 0x64))

/-- R34, R39, R40: the effective class, the half-width of the band by its table, and the two tests of a band. -/
def Obligations.BandTestsFollowTheMap : Prop :=
  (∀ (p : Plan) (b : Nat), p.effective b = if b < p.limit then p.stored.getD b .fixed else .fixed) ∧
    (∀ t : Settings, 1 ≤ t.chipDivider → t.chipDivider ≤ 16 → t.halfWidth = halfWidthTable.getD t.chipDivider 0) ∧
    ∀ (p : Plan) (t : Settings), t.halfWidth ≤ t.carrier →
      (p.admissible t = true ↔
        ∀ b, t.carrier - t.halfWidth ≤ b → b ≤ t.carrier + t.halfWidth → p.effective b ≠ .fixed) ∧
      (p.windowFree t = true ↔
        ∀ b, t.carrier - t.halfWidth ≤ b → b ≤ t.carrier + t.halfWidth → p.effective b = .free) ∧
      (p.windowFree t = true → p.admissible t = true)

/-! ### Sweeps -/

/-- R52 to R55: SWEEP_REQ's checks in their order, each refusal changing nothing; accepted, the sweep stands at the tail of the
queue with the id of R52, the T_acq of R53 and no flags, in the slot named, whose content is that of R96 with every accumulator entry 0.
R55 to R57: it is QUEUED, with started 0, no level used and its slot HELD, unless it may start at once, because nothing is in flight, no
half fills, one is FREE, no older record may start, and its band is window-free or the OPEN window has room for it: then its first
acquisition is in flight and it is ACQUIRING, with started 1, the leg's level as the level used, and its slot FILLING. The reply carries the id and T_acq; and the plan, the legs, the divider, the span arithmetic, the map and the stray table stay. -/
def Obligations.SweepRequestChecksAndJoins : Prop :=
  ∀ (n : Nat) (leg slot reps options tag : Byte) (s : State), Ready s →
    let u := s.after n
    let c := Instr.sweepReq n tag [leg, slot, reps, options]
    let id := allocateId 5 s.seq.nextId (s.seq.queue.map (·.id))
    (4 ≤ leg.toNat ∨ 4 ≤ slot.toNat ∨ sweepOutOfRange reps.toNat options.toNat →
      exec c s = .next (u.replied 0x18 tag .badValue [])) ∧
    ∀ (g : LegId) (i : SlotId), leg.toNat = g.val → slot.toNat = i.val → ¬ sweepOutOfRange reps.toNat options.toNat →
      let named := ∃ w ∈ s.seq.queue, w.slot = i
      ((s.leg g).state ≠ .enabled → exec c s = .next (u.replied 0x18 tag .legState [])) ∧
      ((s.leg g).state = .enabled → options.toNat / 4 % 2 = 1 → s.anchor g = none →
        exec c s = .next (u.replied 0x18 tag .notFound [])) ∧
      ((s.leg g).state = .enabled → (options.toNat / 4 % 2 = 1 → s.anchor g ≠ none) → s.admissible g = false →
        exec c s = .next (u.replied 0x18 tag .excluded [])) ∧
      ((s.leg g).state = .enabled → (options.toNat / 4 % 2 = 1 → s.anchor g ≠ none) → s.admissible g = true → named →
        exec c s = .next (u.replied 0x18 tag .busy [])) ∧
      ((s.leg g).state = .enabled → (options.toNat / 4 % 2 = 1 → s.anchor g ≠ none) → s.admissible g = true → ¬ named →
        QueueInv s → ∃ t v ws, exec c s = .next t ∧ t.seq.queue = ws ++ [v] ∧
          ws.map (fun w => (w.id, w.leg, w.slot, w.n, w.done)) = s.seq.queue.map (fun w => (w.id, w.leg, w.slot, w.n, w.done)) ∧
          v.id = id ∧ v.leg = g ∧ v.slot = i ∧ v.n = reps.toNat ∧ v.done = 0 ∧
          v.options = ⟨options.toNat % 2 = 1, options.toNat / 2 % 2 = 1, options.toNat / 4 % 2 = 1⟩ ∧
          v.tAcq = (2000 + 10 * (s.legSettings g).codeLength * (s.legSettings g).chipDivider
            + 5 * (s.legSettings g).profileBins * (s.legSettings g).chipDivider + 999) / 1000 ∧
          v.flags = ⟨false, false, false, false, false⟩ ∧ t.seq.nextId = nextIdAfter id ∧
          (let starts := s.seq.inFlight = none ∧ s.cap.inState .filling = none ∧ s.cap.inState .free ≠ none ∧
              (∀ w ∈ s.seq.queue, ¬ MayStart u w) ∧ (s.windowFree g = true ∨
                ∃ o, s.openWindow = some o ∧ o.legs.get g = true ∧ u.time.timebase + v.tAcq ≤ o.stop);
            (starts → v.state = .acquiring ∧ v.started = 1 ∧ v.levelUsed = some (s.leg g).level ∧
              (t.slot i).state = .filling ∧ t.seq.inFlight.map (·.sweepId) = some id) ∧
            (¬ starts → v.state = .queued ∧ v.started = 0 ∧ v.levelUsed = none ∧ (t.slot i).state = .held)) ∧
          (t.slot i).content = some ⟨g, id, reps.toNat, v.options, (s.legSettings g).profileBins,
            some (List.replicate (s.legSettings g).profileBins 0), none, none, none, none, none, none, none⟩ ∧
          Answered t 0x18 tag .ok (u8 id ++ le 2 v.tAcq) ∧ t.time = u.time ∧ t.plan = s.plan ∧ t.legs = s.legs ∧
          t.div = s.div ∧ t.arith = s.arith ∧ t.map = s.map ∧ t.stray = s.stray)

/-- R64, R66: SWEEP_CANCEL of an id not in the queue is refused NOT_FOUND and changes nothing; otherwise the record has left
the queue, its slot is FREE without content, no acquisition of it is in flight, one that was is cut off (log 30), the other records stay, the
reply carries the state, started and done it had, and the legs, the plan, the map, the stray table and the calibrations stay. R110,
R115: its unstarted division jobs are removed, the others keep their order, and the waiting batches that fit one after another enter
the queue. R65, R10: SWEEP_END with outcome CANCELLED and its fields joins the report queue, or is dropped and counted. -/
def Obligations.SweepCancelEndsTheSweep : Prop :=
  ∀ (n : Nat) (id tag : Byte) (s : State), Ready s →
    let u := s.after n
    (s.findSweep id.toNat = none → exec (.sweepCancel n tag [id]) s = .next (u.replied 0x19 tag .notFound [])) ∧
    ∀ w, s.findSweep id.toNat = some w → QueueInv s → ∃ t, exec (.sweepCancel n tag [id]) s = .next t ∧
      Ended t w ∧ keptRecords t.seq.queue = keptRecords (s.seq.queue.filter fun v => v.id ≠ w.id) ∧
      DividerTurn u.time.clock { s.div with
        queue   := s.div.queue.filter fun j => !JobOwner.ofSweep w.id j.owner
        waiting := (s.div.waiting.map fun b => b.filter fun j => !JobOwner.ofSweep w.id j.owner).filter fun b => b ≠ [] }
        t.div ∧
      (∀ a h, s.seq.inFlight = some a → a.sweepId = w.id → s.cap.inState .filling = some h → CutOff u t h) ∧
      (s.msg.reports.length < 32 → Joined s t [sweepEndIn u .cancelled (s.leg w.leg).level w]) ∧
      (32 ≤ s.msg.reports.length → t.msg.reports = s.msg.reports ∧
        t.msg.reportsLost = min 65535 (s.msg.reportsLost + 1)) ∧
      Answered t 0x19 tag .ok (u8 w.state.code ++ u8 w.started ++ u8 w.done) ∧ t.time = u.time ∧ t.legs = s.legs ∧
      t.plan = s.plan ∧ t.map = s.map ∧ t.stray = s.stray ∧ t.arith = s.arith

/-- R56, R57, R84: with no acquisition in flight, no half filling and a half FREE, the oldest eligible record starts, that is the
oldest QUEUED or ACQUIRING one with started below N whose leg is ENABLED, whose band is admissible, and whose band is window-free or
whose T_acq fits into what is left of the OPEN window, which includes its leg: it is in flight with the basis of R56, its started has
risen by one, it is ACQUIRING with a level used, the half granted (half 0 first) is its own and fills from position 0, the probe is in
SETTLE with the gate shut on the leg's carrier, and a WINDOW basis is counted; the slot of a QUEUED record moves from HELD to FILLING
with its content, and the other slots stay (R95); the leg bears the mark of log 16 (R179). With a half FILLING or none FREE nothing at
all happens. -/
def Obligations.OldestEligibleRecordStarts : Prop :=
  (∀ (s : State) (h : HalfId) (before after : List Sweep) (w : Sweep),
    s.seq.inFlight = none → s.cap.inState .filling = none → s.cap.inState .free = some h →
    s.seq.queue = before ++ w :: after → (∀ v ∈ before, ¬ MayStart s v) → MayStart s w →
    (∀ v ∈ before ++ after, v.id ≠ w.id) →
    let t := choose s
    let basis := if s.windowFree w.leg then Basis.free else .window (s.openWindow.elim 0 fun o => o.id)
    t.seq.inFlight = some ⟨w.id, w.leg, basis, s.time.timebase, s.time.clock⟩ ∧
      t.seq.queue = before ++ (if w.state = .queued then
        { w with started := w.started + 1, state := .acquiring, levelUsed := some (s.leg w.leg).level }
        else { w with started := w.started + 1 }) :: after ∧
      (t.cap.half h).state = .filling ∧
      (t.cap.half h).owner = some (.acquisition w.id w.leg (s.legSettings w.leg).codeLength (s.legSettings w.leg).profileBins) ∧
      (t.cap.half h).void = false ∧ (t.cap.half h).clip = false ∧ t.cap.coupler = some w.leg ∧
      t.cap.position = 0 ∧ t.cap.sampling = none ∧
      (∀ c, w.state = .queued → s.slot w.slot = ⟨.held, some c⟩ → t.slot w.slot = ⟨.filling, some c⟩) ∧
      ((s.slot w.slot).state ≠ .held → t.slot w.slot = s.slot w.slot) ∧ (∀ i, i ≠ w.slot → t.slot i = s.slot i) ∧
      (t.ingLeg w.leg).acquired = true ∧
      t.cap.stream = .acquisition ∧ t.probe.phase = .settle ∧ t.probe.gate = false ∧
      t.probe.carrier = some (s.legSettings w.leg).carrier ∧
      (∀ o, s.openWindow = some o → ∀ o', t.openWindow = some o' →
        o'.made = if s.windowFree w.leg then o.made else min 65535 (o.made + 1))) ∧
    (∀ s : State, (s.cap.inState .filling ≠ none ∨ s.cap.inState .free = none) → choose s = s) ∧
    ∀ s : State, s.cap.half0.state = .free → s.cap.inState .free = some .h0

/-! ### Probe and capture -/

/-- R78, R79, R80: at BURST_PHASE the settle of the acquisition in flight ends 2,000 ns after its start: the gate is what its basis
asks, the phase is BURST, and sampling begins. R74 to R77, R80, R81: at every later instant the code register has made one step at the
end of each chip, the samples whose instants have come, one each 5·D ns and 2L + K in all, stand in the FILLING half, whose clip mark
is set if one of them is -2048 or +2047, and while chips are sent through an open gate the output carries the carrier of the leg's bin
at the level used, turned by P / 2048 each cycle since the start of chip 0, times the chip in force; once the L chips are sent, or
with the gate shut, it is muted. The samples are what BURST_PHASE tells, and free beyond that (log 15). R78: at LISTEN_PHASE the
burst ends 2,000 + 10·L·D ns after the start, its own samples told for the instants to come: the phase is LISTEN and the output is
muted. A late event is log 2; with no settle, or
no burst, running nothing happens (log 3). -/
def Obligations.BurstAndListenPhases : Prop :=
  (∀ (xs : List Sample) (s : State), s.inReset = false → s.probe.phase ≠ .settle ∨ s.seq.inFlight = none →
    exec (.burstPhase xs) s = .next s) ∧
  (∀ (xs : List Sample) (s : State), s.inReset = false → s.probe.phase ≠ .burst ∨ s.seq.inFlight = none →
    exec (.listenPhase xs) s = .next s) ∧
  (∀ (xs : List Sample) (s : State) (a : InFlight), s.inReset = false → s.seq.inFlight = some a → s.probe.phase = .burst →
    let t := s.legSettings a.leg
    let u := (s.told xs).atClock (a.startClock + 400 + 2 * t.codeLength * t.chipDivider)
    let v := u.setProbe { u.probe with phase := .listen, gate := false }
    exec (.listenPhase xs) s = .next v ∧ probeOutput v = none) ∧
  ∀ (s : State) (a : InFlight) (h : HalfId) (xs : List Sample), s.inReset = false → s.seq.inFlight = some a →
    s.probe.phase = .settle → s.cap.inState .filling = some h → s.cap.stream = .acquisition → s.cap.position = 0 →
    s.cap.sampling = none →
    let l := (s.legSettings a.leg).codeLength
    let d := (s.legSettings a.leg).chipDivider
    let all := 2 * l + (s.legSettings a.leg).profileBins
    let burst := a.startClock + 400
    1 ≤ d → all ≤ (s.cap.half h).samples.length → ∃ u, exec (.burstPhase xs) s = .next u ∧
      u.time.clock = max s.time.clock burst ∧ u.probe.phase = .burst ∧ u.probe.gate = gateAsked s a ∧
      u.probe.carrier = s.probe.carrier ∧ u.seq = s.seq ∧ u.win = s.win ∧ u.plan = s.plan ∧ u.legs = s.legs ∧ u.cor = s.cor ∧
      u.prof = s.prof ∧ u.div = s.div ∧ u.arith = s.arith ∧ u.map = s.map ∧ u.stray = s.stray ∧ u.ing = s.ing ∧
      u.msg = s.msg ∧ ∀ n,
        let v := u.after n
        let elapsed := v.time.clock - burst
        let taken := min all (elapsed / d + 1)
        (v.cap.half h).samples = inputs xs burst d taken ++ (s.cap.half h).samples.drop taken ∧ v.cap.position = taken ∧
          (v.cap.half h).clip = ((s.cap.half h).clip || (inputs xs burst d taken).any atRangeEnd) ∧
          (v.cap.half h).state = .filling ∧ (∀ k, k ≠ h → v.cap.half k = s.cap.half k) ∧
          v.probe.code = codeAfter l (min l (elapsed / (2 * d))) (codeStart l) ∧
          (gateAsked s a = false ∨ 2 * l * d ≤ elapsed → probeOutput v = none) ∧
          ∀ w level bin, s.findSweep a.sweepId = some w → w.levelUsed = some level → s.probe.carrier = some bin →
            gateAsked s a = true → elapsed < 2 * l * d →
            probeOutput v = some ⟨a.leg, 57 + 32 * bin, 63 - level, 10 * d, chips l,
              (chips l).getD (elapsed / (2 * d)) 0, elapsed * (57 + 32 * bin) % 2048⟩

/-- R60, R78, R83, R89: ACQUISITION_END ends the acquisition in flight T_acq after its start: with the correlator BUSY its half
stands FULL, not void, with its owner, its fill order that instant; an IDLE correlator takes it at once when the other half is not
FULL. No done is raised, the records keep their ids, slots and done, whatever is in flight afterwards started at that very instant,
the message controller, the plan, the legs, the divider, the span arithmetic, the map and the stray table stay. R80, R81: from the
start of its burst to its end the half has taken the 2L samples of the burst and the K of the listen, and its clip mark says whether
one of them is -2048 or +2047. The samples are what the three commands tell, in order, provided that none of their instants passes
before it is told, and free where nothing is told (log 15). A late end is log 2; with
nothing in flight, or before the listen, nothing happens (log 3). -/
def Obligations.AcquisitionEndsAfterItsTime : Prop :=
  (∀ (zs : List Sample) (s : State), s.inReset = false → s.seq.inFlight = none ∨ s.probe.phase ≠ .listen →
    exec (.acquisitionEnd zs) s = .next s) ∧
  (∀ (zs : List Sample) (s : State) (a : InFlight) (w : Sweep), s.inReset = false → s.seq.inFlight = some a →
    s.probe.phase = .listen → s.findSweep a.sweepId = some w → ∃ t, exec (.acquisitionEnd zs) s = .next t ∧
      t.time.clock = max s.time.clock (a.startClock + 200 * w.tAcq) ∧
      (∀ h, s.cap.inState .filling = some h →
        (s.cor.job ≠ none → (t.cap.half h).state = .full ∧ (t.cap.half h).void = false ∧
          (t.cap.half h).owner = (s.cap.half h).owner ∧ (t.cap.half h).fillOrder = some t.time.clock) ∧
        ∀ l k, s.cor.job = none → (s.cap.half h).owner = some (.acquisition a.sweepId a.leg l k) →
          (∀ i, i ≠ h → (s.cap.half i).state ≠ .full) →
          t.cor.job = some ⟨h, t.time.clock⟩ ∧ (t.cap.half h).state = .correlating ∧
            (t.cap.half h).owner = (s.cap.half h).owner ∧ (t.cap.half h).fillOrder = some t.time.clock) ∧
      t.seq.queue.map (fun v => (v.id, v.slot, v.done)) = s.seq.queue.map (fun v => (v.id, v.slot, v.done)) ∧
      (∀ b, t.seq.inFlight = some b → b.startClock = t.time.clock) ∧
      (t.seq.inFlight = none → t.probe.phase = .idle ∧ t.probe.gate = false) ∧ t.msg = s.msg ∧ t.plan = s.plan ∧
      t.legs = s.legs ∧ t.div = s.div ∧ t.arith = s.arith ∧ t.map = s.map ∧ t.stray = s.stray) ∧
  ∀ (s t u v : State) (a : InFlight) (w : Sweep) (h : HalfId) (xs ys zs : List Sample), s.inReset = false →
    s.seq.inFlight = some a → s.findSweep a.sweepId = some w → s.probe.phase = .settle → s.cap.inState .filling = some h →
    s.cap.stream = .acquisition → s.cap.position = 0 → s.cap.sampling = none →
    let d := (s.legSettings a.leg).chipDivider
    let all := 2 * (s.legSettings a.leg).codeLength + (s.legSettings a.leg).profileBins
    1 ≤ d → all ≤ (s.cap.half h).samples.length → 400 + all * d ≤ 200 * w.tAcq →
    exec (.burstPhase xs) s = .next t → exec (.listenPhase ys) t = .next u → exec (.acquisitionEnd zs) u = .next v →
    zs = [] ∨ u.cap.position ≤ (xs ++ ys).length →
      (v.cap.half h).samples = inputs (xs ++ ys ++ zs) (a.startClock + 400) d all ++ (s.cap.half h).samples.drop all ∧
      (s.cor.job ≠ none →
        (v.cap.half h).clip = ((s.cap.half h).clip || (inputs (xs ++ ys ++ zs) (a.startClock + 400) d all).any atRangeEnd))

/-- R82: a snapshot's sampling begins 2,000 ns after its grant, and at every later instant the samples whose instants have come, one
each 5·D ns and 2K in all, stand in its half, whose clip mark they do not set (R81). It completes 2,000 + 10·K·D ns, rounded up to
whole microseconds, after its grant, its 2K samples taken: with the correlator BUSY its half stands FULL and not void with its owner,
its fill order that instant, and an IDLE correlator takes it at once for a lag slot that waits for it (R89, R104). The stream stops or
a new one starts at that instant, and the message controller, the plan, the legs, the divider, the span arithmetic, the map and the
stray table stay. The samples are what SNAPSHOT_SETTLE_END tells, then SNAPSHOT_COMPLETE, and free where nothing is told (log 15).
A late event is log 2; a settle end while sampling, a completion before it, and either without a snapshot leave the state as it is
(log 3). -/
def Obligations.SnapshotSettlesAndCompletes : Prop :=
  (∀ (xs : List Sample) (s : State), s.inReset = false →
    (s.cap.stream ≠ .snapshot ∨ s.cap.sampling ≠ none → exec (.snapshotSettleEnd xs) s = .next s) ∧
    (s.cap.stream ≠ .snapshot ∨ s.cap.sampling = none → exec (.snapshotComplete xs) s = .next s)) ∧
  (∀ (s : State) (g : LegId) (h : HalfId) (xs : List Sample), s.inReset = false → s.cap.stream = .snapshot →
    s.cap.sampling = none → s.cap.coupler = some g → s.cap.inState .filling = some h → s.cap.position = 0 →
    let d := (s.legSettings g).chipDivider
    let all := 2 * (s.legSettings g).profileBins
    let begins := s.cap.snapStart + 400
    1 ≤ d → all ≤ (s.cap.half h).samples.length →
    ∃ u, exec (.snapshotSettleEnd xs) s = .next u ∧ u.time.clock = max s.time.clock begins ∧ u.cap.stream = .snapshot ∧
      u.cap.sampling ≠ none ∧ u.seq = s.seq ∧ u.win = s.win ∧ u.plan = s.plan ∧ u.legs = s.legs ∧ u.cor = s.cor ∧
      u.prof = s.prof ∧ u.div = s.div ∧ u.arith = s.arith ∧ u.map = s.map ∧ u.stray = s.stray ∧ u.ing = s.ing ∧
      u.msg = s.msg ∧
      (∀ n, let v := u.after n
        let taken := min all ((v.time.clock - begins) / d + 1)
        (v.cap.half h).samples = inputs xs begins d taken ++ (s.cap.half h).samples.drop taken ∧ v.cap.position = taken ∧
          (v.cap.half h).clip = (s.cap.half h).clip ∧ (v.cap.half h).state = .filling) ∧
      ∀ ys v, exec (.snapshotComplete ys) u = .next v →
        (v.cap.half h).samples = inputs (xs ++ ys) begins d all ++ (s.cap.half h).samples.drop all) ∧
  ∀ (ys : List Sample) (s : State) (g : LegId), s.inReset = false → s.cap.stream = .snapshot → s.cap.sampling ≠ none →
    s.cap.coupler = some g → ∃ t, exec (.snapshotComplete ys) s = .next t ∧
      t.time.clock = max s.time.clock (s.cap.snapStart +
        200 * ((2000 + 10 * (s.legSettings g).profileBins * (s.legSettings g).chipDivider + 999) / 1000)) ∧
      (∀ h, s.cap.inState .filling = some h →
        (s.cor.job ≠ none → (t.cap.half h).state = .full ∧ (t.cap.half h).void = false ∧
          (t.cap.half h).owner = (s.cap.half h).owner ∧ (t.cap.half h).fillOrder = some t.time.clock) ∧
        ∀ k, s.cor.job = none → (s.cap.half h).owner = some (.snapshot g k) → s.prof.lag.state = .capturing →
          s.prof.lag.leg = some g → (∀ i, i ≠ h → (s.cap.half i).state ≠ .full) →
          t.cor.job = some ⟨h, t.time.clock⟩ ∧ (t.cap.half h).state = .correlating ∧ t.prof.lag.state = .correlating) ∧
      (t.cap.stream = .snapshot → t.cap.snapStart = t.time.clock ∧ t.cap.sampling = none) ∧
      (∀ a, t.seq.inFlight = some a → s.seq.inFlight = some a ∨ a.startClock = t.time.clock) ∧ t.msg = s.msg ∧
      t.plan = s.plan ∧ t.legs = s.legs ∧ t.div = s.div ∧ t.arith = s.arith ∧ t.map = s.map ∧ t.stray = s.stray

/-- R62, R78, R85: an abandoned acquisition stops at once: nothing is in flight, the probe is IDLE and muted, its half stands FULL and
void from that instant with the samples taken so far (one of that very instant among them, log 30), or is freed by an IDLE correlator that has no older half (R89), and a record
still in the queue has its started one lower and keeps the rest. R29, R61: at a WINDOW_REVOKE of the OPEN window that the acquisition
in flight names, it goes on with basis FREE when its band is window-free, and is abandoned when it is not; whatever flies afterwards
then started at that instant. R37, R61: after a CLASS_SET whatever is in flight is admissible, and window-free if its basis is FREE; an
acquisition that was not is abandoned, and where no window is OPEN the record of one abandoned for its FREE basis is not started
again. -/
def Obligations.AbandonedAcquisitionsAreGivenBack : Prop :=
  (∀ (s : State) (a : InFlight), s.seq.inFlight = some a →
    let t := abandon s
    t.seq = { s.seq with inFlight := none, queue := s.seq.queue.map fun w =>
      if w.id = a.sweepId then { w with started := w.started - 1 } else w } ∧
    t.probe = { s.probe with phase := .idle, gate := false } ∧ probeOutput t = none ∧ t.cap.stream = .none ∧
    t.cap.sampling = none ∧
    (∀ h, s.cap.inState .filling = some h →
      (s.cor.job ≠ none → t.cor = s.cor ∧ t.cap.half h =
        { s.cap.half h with state := .full, void := true, fillOrder := some s.time.clock, turn := s.cap.fills }) ∧
      (s.cor.job = none → (∀ k, k ≠ h → (s.cap.half k).state ≠ .full) → t.cor = s.cor ∧ t.cap.half h =
        { s.cap.half h with state := .free, owner := none, void := false, clip := false, fillOrder := none, turn := 0 })) ∧
    t.time = s.time ∧ t.msg = s.msg ∧ t.win = s.win ∧ t.plan = s.plan ∧ t.legs = s.legs ∧ t.div = s.div ∧
    t.arith = s.arith ∧ t.map = s.map ∧ t.stray = s.stray ∧ t.ing = s.ing) ∧
  (∀ (n : Nat) (id tag : Byte) (s : State) (w : Window) (a : InFlight) (h : HalfId), Ready s → WindowInv s → QueueInv s →
    ProbeInv s → s.win.table.find? (fun x => x.id == id.toNat) = some w → w.state = .opened → s.seq.inFlight = some a →
    a.basis = .window w.id → s.cap.inState .filling = some h → s.cor.job ≠ none →
    let u := s.after n
    ∃ t, exec (.windowRevoke n tag [id]) s = .next t ∧ t.cor = s.cor ∧
      (s.windowFree a.leg = true → t.seq = { s.seq with inFlight := some { a with basis := .free } } ∧
        t.cap.half h = u.cap.half h ∧ t.probe = u.probe) ∧
      (s.windowFree a.leg = false → t.cap.half h = { u.cap.half h with
          state := .full, void := true, fillOrder := some u.time.clock, turn := s.cap.fills } ∧
        (∀ b, t.seq.inFlight = some b → b.startClock = u.time.clock ∧ b.sweepId ≠ a.sweepId) ∧
        ∀ x, s.findSweep a.sweepId = some x → t.findSweep a.sweepId = some { x with started := x.started - 1 })) ∧
  ∀ (n : Nat) (first limit tag : Byte) (classes : List Byte) (s : State), Ready s → QueueInv s → ProbeInv s →
    classes.length < 256 → s.plan.stored.length = 64 →
    first.toNat + classes.length ≤ 64 → first.toNat ≤ 63 → (∀ b ∈ classes, b.toNat ≤ 2) → limit.toNat ≤ 64 →
    let u := s.after n
    ∃ t, exec (.classSet n tag ([first, BitVec.ofNat 8 classes.length, limit] ++ classes)) s = .next t ∧
      (∀ b, t.seq.inFlight = some b → t.admissible b.leg = true ∧ (b.basis = .free → t.windowFree b.leg = true)) ∧
      ∀ a h, s.seq.inFlight = some a → s.cap.inState .filling = some h → s.cor.job ≠ none →
        (t.admissible a.leg = true → (a.basis = .free → t.windowFree a.leg = true) →
          t.seq.inFlight = some a ∧ t.cap.half h = u.cap.half h) ∧
        (t.admissible a.leg = false ∨ (a.basis = .free ∧ t.windowFree a.leg = false) →
          (t.cap.half h).state = .full ∧ (t.cap.half h).void = true ∧ (t.cap.half h).fillOrder = some u.time.clock ∧
          (t.cap.half h).samples = (u.cap.half h).samples) ∧
        ∀ x, t.admissible a.leg = true → a.basis = .free → t.windowFree a.leg = false → s.openWindow = none →
          s.findSweep a.sweepId = some x → t.findSweep a.sweepId = some { x with started := x.started - 1 }

/-! ### Correlation, analysis and the divider -/

/-- R74: each code has L chips, (L + 1)/2 of them +1 and (L - 1)/2 of them -1, and its register is back at all ones after L
steps and not before. R90, R92: C[k] and R[k] are the limited quotients of the sums the rules give. -/
def Obligations.CodesAndCorrelations : Prop :=
  (∀ l ∈ [63, 127, 255, 511], (chips l).length = l ∧ (chips l).count 1 = (l + 1) / 2 ∧ (chips l).count (-1) = (l - 1) / 2 ∧
    codeAfter l l (codeStart l) = codeStart l ∧ ∀ n, 0 < n → n < l → codeAfter l n (codeStart l) ≠ codeStart l) ∧
  (∀ (l : Nat) (xs : List Int) (k : Nat), 2 * l + k ≤ xs.length →
    crossCorrelation l xs k =
      min 65535 ((sumTo l fun i => (chips l).getD i 0 * xs.getD (2 * i + k) 0).natAbs / 16)) ∧
    ∀ (n : Nat) (xs : List Int) (k : Nat), n + k ≤ xs.length →
      autoCorrelation n xs k = min 65535 ((sumTo n fun j => xs.getD j 0 * xs.getD (j + k) 0).natAbs / 64)

/-- R91: at ACQUISITION_JOB_COMPLETE the half is no longer CORRELATING, and a sweep still in the queue has C added into its
accumulator, its done raised by one, and CLIPPED from the half's clip mark; at done N the record and slot are ANALYSING, the analysis beginning at that instant (R97); a sweep
that has ended changes nothing but the half. -/
def Obligations.AcquisitionJobAddsItsCapture : Prop :=
  ∀ (s : State) (n : Nat) (j : CorJob) (id : Nat) (g : LegId) (l k : Nat), s.inReset = false → s.cor.job = some j →
    (s.cap.half j.half).owner = some (.acquisition id g l k) →
    ∃ t, exec (.acquisitionJobComplete n) s = .next t ∧ (t.cap.half j.half).state ≠ .correlating ∧
      max (j.takenAt + 1) s.time.clock ≤ t.time.clock ∧ t.time.clock ≤ max s.time.clock (max (j.takenAt + 1) (j.takenAt + l * k / 10)) ∧
      t.msg = s.msg ∧ t.plan = s.plan ∧ t.legs = s.legs ∧ t.div = s.div ∧ t.arith = s.arith ∧ t.map = s.map ∧
      t.stray = s.stray ∧
      (s.findSweep id = none → t.seq.queue.map (fun v => (v.id, v.done, v.flags)) =
        s.seq.queue.map (fun v => (v.id, v.done, v.flags)) ∧ ∀ i, (t.slot i).content = (s.slot i).content) ∧
      ∀ w v acc, s.findSweep id = some w → s.slot w.slot = ⟨.filling, some v⟩ → v.acc = some acc → acc.length = k →
        w.state = .acquiring →
        ∃ w' v', t.findSweep id = some w' ∧ w'.done = w.done + 1 ∧
          w'.flags = { w.flags with clipped := w.flags.clipped || (s.cap.half j.half).clip } ∧
          w'.state = (if w.done + 1 = w.n then .analysing else .acquiring) ∧
          t.slot w.slot = ⟨if w.done + 1 = w.n then .analysing else .filling, some v'⟩ ∧
          v' = { v with
            acc := some ((List.range k).map fun i => acc.getD i 0 + crossCorrelation l (s.cap.half j.half).signed i)
            analysisStart := if w.done + 1 = w.n then some t.time.clock else v.analysisStart }

/-- R93, R104, R196: at SNAPSHOT_JOB_COMPLETE the half is no longer CORRELATING; when the lag slot is CORRELATING for its leg and no
lag of the lag profile qualifies, the pairing settles NO_ECHO and the lag slot is FREE; when a lag qualifies, the lag slot is
REFINING with the lag profile, the pairing keeps the lag peak, and a batch of one REFINE job of R116 at the lag peak goes to the
divider; when the lag slot is not CORRELATING for the leg, the divider, the pairing, the ingress log and the message controller stay
as they are. The plan, the legs, the span arithmetic, the map and the stray table stay. -/
def Obligations.SnapshotJobWritesTheLagProfile : Prop :=
  ∀ (s : State) (n : Nat) (j : CorJob) (g : LegId) (k : Nat), s.inReset = false → s.cor.job = some j →
    (s.cap.half j.half).owner = some (.snapshot g k) →
    let lags := (List.range k).map (autoCorrelation k (s.cap.half j.half).signed)
    ∃ t, exec (.snapshotJobComplete n) s = .next t ∧ (t.cap.half j.half).state ≠ .correlating ∧ t.plan = s.plan ∧
      t.legs = s.legs ∧ t.arith = s.arith ∧ t.map = s.map ∧ t.stray = s.stray ∧
      (s.prof.lag.state = .correlating → s.prof.lag.leg = some g → s.prof.lag.k = some k → ∀ p, s.ing.pairing = some p →
        (lagPeak (s.legSettings g) k lags = none → Settled s t p .noEcho none none none) ∧
        ∀ b, lagPeak (s.legSettings g) k lags = some b → t.prof.lag = ⟨.refining, some g, some k, some lags⟩ ∧
          t.ing.pairing = some { p with lagPeak := some b } ∧
          Handed s.div t.div t.time.clock
            [⟨.refinePairing g, (refineOperands lags b).1, (refineOperands lags b).2, false, s.div.batches, true⟩]) ∧
      (¬ (s.prof.lag.state = .correlating ∧ s.prof.lag.leg = some g) → t.div = s.div ∧ t.ing.pairing = s.ing.pairing ∧
        t.ing.log = s.ing.log ∧ t.msg = s.msg)

/-- R98, R99: normalisation of an accumulator entry, with ROUND and without, and trim by the factor of the leg's code, limited.
R100, R101: the bins found are exactly those that pass the four tests, in ascending order; at most 32 are kept, in ascending
order, all of them when there are no more, and no kept peak gives way to one that was dropped. R196: the lag peak of a lag profile is
the qualifying lag of largest R, the smaller among equals. -/
def Obligations.ProfilesAreTrimmedAndSearched : Prop :=
  (∀ n a : Nat, normalise true n a = (a + n / 2) / n ∧ normalise false n a = a / n) ∧
    (∀ a : Nat, ∀ p ∈ [(0, 64), (1, 60), (2, 62), (3, 63), (4, 68), (5, 66), (6, 65)],
      trimAmplitude p.1 a = min 65535 (a * p.2 / 64)) ∧
    (∀ (floor blank : Nat) (a : List Nat) (k v : Nat), (k, v) ∈ findPeaks floor blank 1 a ↔
      blank < k ∧ 1 ≤ k ∧ k + 1 < a.length ∧ v = a.getD k 0 ∧ floor ≤ v ∧ a.getD (k - 1) 0 < v ∧ a.getD (k + 1) 0 ≤ v) ∧
    (∀ (floor blank : Nat) (a : List Nat), (findPeaks floor blank 1 a).Pairwise fun x y => x.1 < y.1) ∧
    (∀ found : List (Nat × Nat), (found.Pairwise fun x y => x.1 < y.1) →
      (found.length ≤ 32 → keepPeaks found = found) ∧ (32 < found.length → (keepPeaks found).length = 32) ∧
      (keepPeaks found).Sublist found ∧
      ∀ x ∈ found, ∀ y ∈ found, x ∈ keepPeaks found → y ∉ keepPeaks found → y.2 < x.2 ∨ (y.2 = x.2 ∧ x.1 < y.1)) ∧
    ∀ (t : Settings) (k : Nat) (r : List Nat), 2 ≤ k →
      (∀ b, lagPeak t k r = some b →
        (t.blank < b ∧ b ≤ k - 2 ∧ t.floor ≤ r.getD b 0 ∧ r.getD (b - 1) 0 < r.getD b 0 ∧ r.getD (b + 1) 0 ≤ r.getD b 0) ∧
        ∀ c, t.blank < c → c ≤ k - 2 → t.floor ≤ r.getD c 0 → r.getD (c - 1) 0 < r.getD c 0 → r.getD (c + 1) 0 ≤ r.getD c 0 →
          r.getD c 0 < r.getD b 0 ∨ (r.getD c 0 = r.getD b 0 ∧ b ≤ c)) ∧
      (lagPeak t k r = none → ∀ b, ¬ (t.blank < b ∧ b ≤ k - 2 ∧ t.floor ≤ r.getD b 0 ∧ r.getD (b - 1) 0 < r.getD b 0 ∧
        r.getD (b + 1) 0 ≤ r.getD b 0))

/-- R102, R103, R108, R116: at ANALYSIS_COMPLETE, within 20 µs of its beginning, an unclipped sweep with peaks has the trimmed
profile and its unrefined peak list in the slot, which stays ANALYSING with its record, PEAKS_TRUNCATED when more than 32 were found,
and one batch goes to the divider: one REFINE job for each peak kept, in ascending k, its operands those of R116, the last of them
marked. R103, R143: an unclipped sweep without peaks passes at once to reconciliation, a CALIBRATE one with CAL_FAILED. A clipped
sweep has left the queue, its slot is READY with profile, unrefined peaks, flags and completion time, the leg's level is a step down
and its fault counter unchanged, and SWEEP_END with outcome DONE_CLIPPED and the fields of R65 is posted. In the first and third case the plan, the span arithmetic, the map and the stray table stay. -/
def Obligations.AnalysisStoresProfileAndPeaks : Prop :=
  ∀ (s : State) (n : Nat) (i : SlotId) (v : SlotContent) (acc : List Nat) (start : Nat) (w : Sweep), s.inReset = false →
    QueueInv s → s.slot i = ⟨.analysing, some v⟩ → v.analysisStart = some start → v.acc = some acc →
    s.findSweep v.sweepId = some w → w.slot = i →
    let t := s.legSettings w.leg
    let profile := acc.map fun a => trimAmplitude t.trim (normalise w.options.round w.n a)
    let found := findPeaks t.floor t.blank 1 profile
    let peaks := (keepPeaks found).map fun x => (⟨x.1, x.2, none, none, none, none, false⟩ : Peak)
    (w.flags.clipped = false → found ≠ [] → ∃ u c jobs, exec (.analysisComplete n i) s = .next u ∧
      u.slot i = ⟨.analysing, some c⟩ ∧ c.profile = some profile ∧ c.peaks = some peaks ∧ c.acc = none ∧
      u.findSweep w.id = some { w with flags :=
        { w.flags with peaksTruncated := w.flags.peaksTruncated || decide (32 < found.length) } } ∧
      Handed s.div u.div u.time.clock jobs ∧
      (jobs.map fun j => (j.owner, j.dividend, j.divisor, j.round, j.batch)) = ((keepPeaks found).map fun x =>
        (JobOwner.refineSweep w.id x.1, (refineOperands profile x.1).1, (refineOperands profile x.1).2, false,
          s.div.batches)) ∧
      jobs.map (·.last) = List.replicate (jobs.length - 1) false ++ [true] ∧ u.legs = s.legs ∧ u.map = s.map ∧
      u.stray = s.stray ∧ u.msg = s.msg ∧ u.plan = s.plan ∧ u.arith = s.arith ∧
      u.time.clock ≤ max s.time.clock (start + 4000)) ∧
    (w.flags.clipped = false → found = [] → ∃ x, s.time.clock ≤ x.time.clock ∧
      x.time.clock ≤ max s.time.clock (start + 4000) ∧ x.slot i = ⟨.analysing, some { v with
        acc := none, analysisStart := none, profile := some profile, peaks := some [] }⟩ ∧
      x.findSweep w.id = some w ∧ x.legs = s.legs ∧ x.map = s.map ∧ x.stray = s.stray ∧ x.ing = s.ing ∧ x.msg = s.msg ∧
      x.arith = s.arith ∧ x.div = s.div ∧ x.plan = s.plan ∧ x.win = s.win ∧
      exec (.analysisComplete n i) s = .next (reconcile w.id (if w.options.calibrate then
        x.updateSweep w.id fun y => { y with flags := { y.flags with calFailed := true } } else x))) ∧
    (w.flags.clipped = true →
      let flags := { w.flags with peaksTruncated := w.flags.peaksTruncated || decide (32 < found.length) }
      let level := (s.leg w.leg).level - t.downStep
      ∃ u, exec (.analysisComplete n i) s = .next u ∧ u.findSweep w.id = none ∧
      u.slot i = ⟨.ready, some { v with
        acc := none, analysisStart := none, profile := some profile, peaks := some peaks, flags := some flags
        completion := some u.time.timebase }⟩ ∧
      u.msg = s.msg.post u.time.clock (.sweepEnd w.id w.leg i .doneClipped flags w.started w.done peaks.length 0 0 level
        u.time.timebase) ∧
      s.time.clock ≤ u.time.clock ∧ u.time.clock ≤ max s.time.clock (start + 4000) ∧
      u.legs = s.legs.set w.leg { s.leg w.leg with level := level } ∧ u.map = s.map ∧
      u.stray = s.stray ∧ u.plan = s.plan ∧ u.arith = s.arith)

/-- R112, R113: the six octal digits give the quotient and the remainder of the division of what is loaded, which a job with
round set has rounded by half its divisor, or OVERFLOW exactly when the quotient would not fit. R116: for a bin that stands above its
left neighbour and not below its right one, the REFINE dividend is 66·x + 2·y and the divisor 4·(x + y), the division does not
overflow, and the offset lies within -8..+8, being +8 on a plateau and 0 between equal flanks. -/
def Obligations.DivisionByOctalDigits : Prop :=
  (∀ j : Job, 1 ≤ j.divisor →
    let loaded := if j.round then j.dividend + j.divisor / 2 else j.dividend
    (j.divisor * 262144 ≤ loaded → j.result = none) ∧
    (loaded < j.divisor * 262144 → j.result = some (loaded / j.divisor, loaded % j.divisor)) ∧
    (∀ q r, j.result = some (q, r) → q ≤ 262143 ∧ r < j.divisor)) ∧
  ∀ (a : List Nat) (k : Nat), a.getD (k - 1) 0 < a.getD k 0 → a.getD (k + 1) 0 ≤ a.getD k 0 →
    let x := a.getD k 0 - a.getD (k - 1) 0
    let y := a.getD k 0 - a.getD (k + 1) 0
    refineOperands a k = (66 * x + 2 * y, 4 * (x + y)) ∧
    ∀ (o : JobOwner) (b : Nat) (m : Bool), ∃ q r,
      (Job.mk o (refineOperands a k).1 (refineOperands a k).2 false b m).result = some (q, r) ∧
        -8 ≤ offsetOf q ∧ offsetOf q ≤ 8 ∧ (y = 0 → offsetOf q = 8) ∧ (x = y → offsetOf q = 0)

/-- R111: DIVISION_COMPLETE ends the running job 180 ns after its start, or 40 ns after it with OVERFLOW, and the divider runs the
next job of its queue. R110: as that frees room, waiting batches enter in order, until one does not fit. R114, R117: a sweep's REFINE result puts f and t16 into the peak record of its bin, and the rest of the state
stays; of a sweep that has ended it is discarded. At the last job of the batch the sweep passes to reconciliation (R143), or with
CALIBRATE to the anchor search: without an anchor, or without a peak whose provisional distance lies within four tolerances of it,
CAL_FAILED is set and reconciliation follows (R123); otherwise the nearest such peak, then the one of larger amplitude, then of
smaller k, gives a batch of one CAL job (R124). A late completion is log 2; with the divider IDLE nothing happens (log 3). -/
def Obligations.RefineResultIsWritten : Prop :=
  (∀ s : State, s.inReset = false → s.div.running = none → exec .divisionComplete s = .next s) ∧
  (∀ (d : Divider) (clock : Nat), d.waiting = [] → d.pump clock = match d.running, d.queue with
    | none, j :: rest => { d with running := some ⟨j, clock⟩, queue := rest }
    | _, _ => d) ∧
  (∀ (d : Divider) (clock : Nat), DividerTurn clock d (d.pump clock)) ∧
  ∀ (s : State) (r : Running), s.inReset = false → s.div.running = some r →
    let u := s.atClock (r.startClock + if r.job.result = none then 8 else 36)
    let idle := u.setDiv { s.div with running := none }
    let next : State → State := fun x => x.setDiv (x.div.pump u.time.clock)
    (∃ t, exec .divisionComplete s = .next t ∧ t.time = u.time) ∧
    ∀ id k, r.job.owner = .refineSweep id k →
      (s.findSweep id = none → exec .divisionComplete s = .next (next idle)) ∧
      ∀ q m w c ps, r.job.result = some (q, m) → s.findSweep id = some w → (s.slot w.slot).content = some c →
        c.peaks = some ps →
        let refined := ps.map fun p => if p.k = k then { p with f := some ((q : Int) - 8), t16 := some (16 * k + q - 8) } else p
        let v := idle.setSlot w.slot { s.slot w.slot with content := some { c with peaks := some refined } }
        let failed := v.updateSweep id fun x => { x with flags := { x.flags with calFailed := true } }
        (r.job.last = false → exec .divisionComplete s = .next (next v)) ∧
        (r.job.last = true → w.options.calibrate = false → exec .divisionComplete s = .next (next (reconcile id v))) ∧
        (r.job.last = true → w.options.calibrate = true →
          (s.anchor w.leg = none → exec .divisionComplete s = .next (next (reconcile id failed))) ∧
          ∀ a, s.anchor w.leg = some a →
            let t := s.legSettings w.leg
            let off : Peak → Nat := fun p =>
              distanceBetween (toDistance (s.qEff w.leg) (p.t16.getD 0) t.chipDivider).1 a.nominal
            ((∀ p ∈ refined, 4 * t.tolerance < off p) →
              exec .divisionComplete s = .next (next (reconcile id failed))) ∧
            ∀ p ∈ refined, off p ≤ 4 * t.tolerance → (refined.Pairwise fun x y => x.k < y.k) →
              (∀ x ∈ refined, off p < off x ∨ (off p = off x ∧ (x.amplitude < p.amplitude ∨
                (x.amplitude = p.amplitude ∧ p.k ≤ x.k)))) →
              ∃ d, Handed idle.div d u.time.clock [⟨.cal id a.id a.nominal, 40960 * a.nominal,
                  p.t16.getD 0 * t.chipDivider, w.options.round, s.div.batches, true⟩] ∧
                exec .divisionComplete s = .next (next (v.setDiv d)))

/-- R125: a CAL result that is no OVERFLOW and lies in 9,593..19,187, while the leg's anchor is still the job's, becomes Q_cal with
the temperature reading as T_cal, and CAL_DONE is set; otherwise CAL_FAILED is set and the calibration stays; either way the sweep
passes to reconciliation, and the result of a sweep that has ended is discarded (R114). R197: a pairing's REFINE result gives t16 and
the echo distance; the pairing settles NO_ANCHOR without an anchor, OUT_OF_SPAN when the echo is longer than the anchor's measured, or
else nominal, distance, and otherwise LOCATED at their difference, the element nearest to it within two tolerances, the shorter among
equals, being recorded and its score raised by one, saturating; the rest of the map, the legs, the plan, the span arithmetic and the
stray table stay. A result for a lag slot no longer REFINING for the leg is discarded (R114). A late completion is log 2. -/
def Obligations.CalAndPairingResultsAreJudged : Prop :=
  ∀ (s : State) (r : Running), s.inReset = false → s.div.running = some r →
    let u := s.atClock (r.startClock + if r.job.result = none then 8 else 36)
    let idle := u.setDiv { s.div with running := none }
    let next : State → State := fun x => x.setDiv (x.div.pump u.time.clock)
    (∀ id anchorId distance, r.job.owner = .cal id anchorId distance →
      (s.findSweep id = none → exec .divisionComplete s = .next (next idle)) ∧
      ∀ w, s.findSweep id = some w →
        let flagged : (SweepFlags → SweepFlags) → State → State := fun f x =>
          x.updateSweep id fun y => { y with flags := f y.flags }
        let kept := ∃ a, s.anchor w.leg = some a ∧ a.id = anchorId ∧ a.nominal = distance
        (∀ q m, r.job.result = some (q, m) → kept → 9593 ≤ q → q ≤ 19187 → exec .divisionComplete s =
          .next (next (reconcile id (flagged (fun f => { f with calDone := true }) (idle.setArith
            { s.arith with cal := s.arith.cal.set w.leg (some ⟨q, s.arith.temperature⟩) }))))) ∧
        (r.job.result = none ∨ ¬ kept ∨ (∃ q m, r.job.result = some (q, m) ∧ (q < 9593 ∨ 19187 < q)) →
          exec .divisionComplete s =
            .next (next (reconcile id (flagged (fun f => { f with calFailed := true }) idle))))) ∧
    ∀ g, r.job.owner = .refinePairing g →
      (¬ (s.prof.lag.state = .refining ∧ s.prof.lag.leg = some g) → exec .divisionComplete s = .next (next idle)) ∧
      ∀ p b q m, s.prof.lag.state = .refining → s.prof.lag.leg = some g → s.ing.pairing = some p → p.lagPeak = some b →
        r.job.result = some (q, m) → ∃ t, exec .divisionComplete s = .next t ∧ t.time = u.time ∧ t.legs = s.legs ∧
          t.plan = s.plan ∧ t.arith = s.arith ∧ t.stray = s.stray ∧ t.seq = s.seq ∧
          (s.anchor g = none → Settled s t p .noAnchor none none none ∧ t.map = s.map) ∧
          ∀ a, s.anchor g = some a →
            let echo := (toDistance (s.qEff g) (16 * b + q - 8) (s.legSettings g).chipDivider).1
            let base := a.measured.getD a.nominal
            let near : Element → Nat := fun e => distanceBetween e.nominal (base - echo)
            let reach := 2 * (s.legSettings g).tolerance
            (base < echo → Settled s t p .outOfSpan (some echo) none none ∧ t.map = s.map) ∧
            (echo ≤ base → (∀ e ∈ s.elements g, reach < near e) →
              Settled s t p .located (some echo) (some (base - echo)) none ∧ t.map = s.map) ∧
            (echo ≤ base → ListInv (s.elements g) → ∀ e ∈ s.elements g, near e ≤ reach →
              (∀ x ∈ s.elements g, near e < near x ∨ (near e = near x ∧ e.nominal ≤ x.nominal)) →
              Settled s t p .located (some echo) (some (base - echo)) (some e.id) ∧
                t.map = s.map.set g { s.map.get g with elements := (s.elements g).map fun x =>
                  if x.id = e.id then { x with score := min 255 (x.score + 1) } else x })

/-- R118, R121, R122: Q_nom by VF_milli; Q_eff lies in range and is Q_cal less the truncated correction, clamped; and a distance
is the rounded quotient, clamped at 65,535 with RANGE. R120: TEMPERATURE_CONVERSION replaces the reading by the sensor's value, the
command's operand (log 18), clamped to -40..+85, at its instant, or now when it is taken late (log 2), the next falling 1 s after that
instant, and changes nothing else. -/
def Obligations.SpeedDistanceAndTemperature : Prop :=
  (∀ vf : Nat, 500 ≤ vf → vf ≤ 1000 → qNominal vf = (vf * 1918672 + 50000) / 100000 ∧ 9593 ≤ qNominal vf ∧ qNominal vf ≤ 19187) ∧
    (∀ (t : Settings) (c : Cal) (x : Int),
      let code := if c.t < x then t.ctUp else if x < c.t then t.ctDn else 0
      let correction := if code = 1 then x - c.t else if code = 2 then (x - c.t).tdiv 2 else if code = 3 then (x - c.t).tdiv 4
        else if code = 4 then (x - c.t).tdiv 8 else 0
      (qEffective t c x : Int) = max 9593 (min 19187 (c.q - correction))) ∧
    (∀ q t16 d : Nat, let v := (q * t16 * d + 20480) / 40960
      toDistance q t16 d = if 65535 < v then (65535, true) else (v, false)) ∧
    ∀ (x : Int) (s : State), s.inReset = false → exec (.temperatureConversion x) s = .next
      ((s.atClock s.arith.nextConversion).setArith
        ⟨max (-40) (min 85 x), s.arith.nextConversion + 200000000, s.arith.cal⟩)

/-! ### Reading the part -/

/-- R30, R38, R69: WINDOW_LIST, CLASS_GET and SWEEP_LIST answer OK with the whole table, plan and queue as at dispatch, in the
layouts of R202, and change no other state. -/
def Obligations.WholeTablesAreListed : Prop :=
  ∀ (n : Nat) (tag : Byte) (s : State), Ready s →
    let u := s.after n
    exec (.windowList n tag []) s = .next (u.replied 0x0A tag .ok (le 6 u.time.timebase ++ u8 s.win.table.length
      ++ s.win.table.flatMap fun w => u8 w.id ++ le 6 w.start ++ le 6 w.stop
        ++ u8 (bitsOf [w.legs.get 0, w.legs.get 1, w.legs.get 2, w.legs.get 3]) ++ u8 w.state.code ++ le 2 w.made)) ∧
    exec (.classGet n tag []) s = .next (u.replied 0x15 tag .ok (u8 s.plan.limit
      ++ (List.range 64).flatMap fun b => u8 (s.plan.stored.getD b .fixed).code)) ∧
    exec (.sweepList n tag []) s = .next (u.replied 0x1A tag .ok (le 6 u.time.timebase ++ u8 s.seq.queue.length
      ++ (s.seq.queue.flatMap fun w => u8 w.id ++ u8 w.leg.val ++ u8 w.slot.val ++ u8 w.n ++ u8 w.started ++ u8 w.done
        ++ u8 (bitsOf [w.options.round, w.options.baseline, w.options.calibrate]) ++ u8 w.state.code ++ le 2 w.tAcq
        ++ u8 (if w.levelUsed = none then 0 else 1) ++ u8 (w.levelUsed.getD 0)
        ++ u8 (bitsOf [w.flags.clipped, w.flags.calDone, w.flags.calFailed, w.flags.peaksTruncated, w.flags.range]))
      ++ match s.seq.inFlight with
        | none => List.replicate 12 0
        | some a => [1] ++ u8 a.sweepId ++ u8 a.leg.val
          ++ (match a.basis with
            | .free => [0, 0, 0]
            | .window id => [1, 1] ++ u8 id)
          ++ le 6 a.startTime))

/-- R47, R192, R194: LEG_GET, WATCH_GET and SURVEY_READ are refused BAD_VALUE above leg 3, and SURVEY_READ NOT_FOUND without a
latched result; otherwise each answers OK with the fields of R202, what is absent sent as zeros, and changes no other state. That the
onset_b of WATCH_GET is the one that the settings and the latched result of the dispatch give, also before the reading scan from which
they apply, is the model's choice (log 31). -/
def Obligations.LegAndWatchAreRead : Prop :=
  ∀ (n : Nat) (leg tag : Byte) (s : State), Ready s →
    let u := s.after n
    (4 ≤ leg.toNat → exec (.legGet n tag [leg]) s = .next (u.replied 0x13 tag .badValue []) ∧
      exec (.watchGet n tag [leg]) s = .next (u.replied 0x31 tag .badValue []) ∧
      exec (.surveyRead n tag [leg]) s = .next (u.replied 0x2F tag .badValue [])) ∧
    ∀ g : LegId, leg.toNat = g.val →
      let r := s.leg g
      let l := s.ingLeg g
      let live := u8 r.state.code ++ u8 (if r.settings = none then 0 else 1) ++ u8 r.level ++ u8 r.faults ++ le 2 r.settle
      (r.settings = none → exec (.legGet n tag [leg]) s = .next (u.replied 0x13 tag .ok (live ++ List.replicate 33 0))) ∧
      (∀ t c, r.settings = some t → s.arith.cal.get g = some c → exec (.legGet n tag [leg]) s = .next
        (u.replied 0x13 tag .ok (live ++ le 2 t.codeLength ++ u8 t.chipDivider ++ le 2 t.profileBins ++ u8 t.blank
          ++ le 2 t.floor ++ u8 t.carrier ++ u8 t.startLevel ++ le 2 t.aLo ++ le 2 t.aHi ++ u8 t.upStep ++ u8 t.downStep
          ++ u8 t.faultLimit ++ le 2 t.vfMilli ++ u8 t.tolerance ++ u8 t.missLimit ++ u8 t.confirmCount ++ u8 t.ageLimit
          ++ u8 t.trim ++ u8 t.ctUp ++ u8 t.ctDn ++ u8 (t.carrier - t.halfWidth) ++ u8 (t.carrier + t.halfWidth)
          ++ yesNo (s.plan.admissible t) ++ yesNo (s.plan.windowFree t) ++ le 2 c.q ++ leSigned 1 c.t))) ∧
      (l.result = none → exec (.surveyRead n tag [leg]) s = .next (u.replied 0x2F tag .notFound [])) ∧
      (∀ v, l.result = some v → exec (.surveyRead n tag [leg]) s = .next (u.replied 0x2F tag .ok (le 6 v.openTime
        ++ le 6 v.closeTime ++ le 4 v.scans ++ u8 (bitsOf [v.short, v.full])
        ++ binSet ((List.range 64).filter fun b => (v.bins.getD b none).isSome)
        ++ ((List.range 64).flatMap fun b => leSigned 2 ((v.bins.getD b none).elim 0 (·.1))
          ++ leSigned 2 ((v.bins.getD b none).elim 0 (·.2)))
        ++ u8 (if l.survey = none then 0 else 1) ++ le 4 (l.survey.elim 0 (·.scans))))) ∧
      exec (.watchGet n tag [leg]) s = .next (u.replied 0x31 tag .ok (u8 l.settings.mode.code ++ leSigned 2 l.settings.onset
        ++ leSigned 1 l.settings.margin ++ leSigned 1 l.settings.hysteresis ++ yesNo l.settings.pairing ++ le 2 r.settle
        ++ yesNo l.longHeld
        ++ (match l.record with
          | none => List.replicate 21 0
          | some x => [1] ++ le 6 x.startTime ++ le 2 x.scans ++ binSet x.bins ++ leSigned 2 x.peakLevel ++ u8 x.peakBin
            ++ u8 x.outcome.code)
        ++ u8 (if l.survey = none then 0 else 1) ++ le 4 (l.survey.elim 0 (·.scans))
        ++ (List.range 64).flatMap fun b =>
          u8 (bitsOf [s.watched g b, (s.seq.inFlight.elim false fun a => a.leg == g) && (s.legSettings g).inBand b,
            l.detector b == .burst, (l.readings.getD b none).isSome])
          ++ leSigned 2 (if s.watched g b then
              match l.settings.mode, l.result.bind fun r => r.bins.getD b none with
              | .relative, some (mean, _) => min 240 (mean + l.settings.margin)
              | _, _ => l.settings.onset
            else 0) ++ leSigned 2 ((l.readings.getD b none).getD 0)))

/-- R105, R106, R140, R175, R203: PROFILE_READ, PEAKS_READ, MAP_READ and STRAY_LIST with their checks in order, each refusal and
each reading changing no other state; a page of the map or of the strays beyond the end is served with no records, and the
strays of a leg come in ascending latest distance. The records have the fields, order and sizes of R202. -/
def Obligations.PagesAreRead : Prop :=
  (∀ (n : Nat) (slot page tag : Byte) (s : State), Ready s →
    let u := s.after n
    let profile := exec (.profileRead n tag [slot, page]) s
    let peaks := exec (.peaksRead n tag [slot]) s
    (4 ≤ slot.toNat → profile = .next (u.replied 0x1B tag .badValue []) ∧
      peaks = .next (u.replied 0x1C tag .badValue [])) ∧
    ∀ i : SlotId, slot.toNat = i.val →
      ((s.slot i).state = .free → profile = .next (u.replied 0x1B tag .notFound []) ∧
        peaks = .next (u.replied 0x1C tag .notFound [])) ∧
      ((s.slot i).state = .held ∨ (s.slot i).state = .filling ∨ (s.slot i).state = .analysing →
        profile = .next (u.replied 0x1B tag .pending []) ∧ peaks = .next (u.replied 0x1C tag .pending [])) ∧
      ∀ c, s.slot i = ⟨.ready, some c⟩ →
        let header := u8 c.leg.val ++ u8 c.sweepId ++ u8 c.n
          ++ u8 (bitsOf [c.options.round, c.options.baseline, c.options.calibrate]) ++ le 2 c.k
          ++ u8 (c.flags.getD .none).bits ++ le 6 (c.completion.getD 0)
        (c.k / 256 ≤ page.toNat → profile = .next (u.replied 0x1B tag .badValue [])) ∧
        (∀ a, c.profile = some a → page.toNat < c.k / 256 → a.length = c.k → profile = .next (u.replied 0x1B tag .ok
          (header ++ [page] ++ (List.range 256).flatMap fun j => le 2 (a.getD (256 * page.toNat + j) 0)))) ∧
        ∀ ps, c.peaks = some ps → peaks = .next (u.replied 0x1C tag .ok (header
          ++ u8 (bitsOf [c.temperature.isSome, c.qEff.isSome]) ++ leSigned 1 (c.temperature.getD 0)
          ++ le 2 (c.qEff.getD 0) ++ u8 ps.length ++ ps.flatMap fun p => le 2 p.k ++ le 2 p.amplitude
            ++ u8 (bitsOf [p.f.isSome && p.t16.isSome, p.distance.isSome, p.element.isSome, p.range])
            ++ leSigned 1 (p.f.getD 0) ++ le 2 (p.t16.getD 0) ++ le 2 (p.distance.getD 0) ++ u8 (p.element.getD 0)))) ∧
  (∀ (n : Nat) (leg page tag : Byte) (s : State), Ready s →
    let u := s.after n
    (4 ≤ leg.toNat ∨ 2 < page.toNat → exec (.mapRead n tag [leg, page]) s = .next (u.replied 0x23 tag .badValue [])) ∧
    (4 ≤ leg.toNat ∨ 3 < page.toNat → exec (.strayList n tag [leg, page]) s = .next (u.replied 0x28 tag .badValue [])) ∧
    ∀ g : LegId, leg.toNat = g.val →
      (page.toNat ≤ 2 →
        let shown := ((s.elements g).drop (16 * page.toNat)).take 16
        exec (.mapRead n tag [leg, page]) s = .next (u.replied 0x23 tag .ok ([leg] ++ le 2 (s.map.get g).revision
          ++ u8 (s.elements g).length ++ [page] ++ u8 shown.length ++ shown.flatMap fun e => u8 e.id ++ u8 e.kind.code
            ++ yesNo e.anchor ++ le 2 e.nominal ++ u8 e.state.code ++ u8 e.misses ++ u8 e.score
            ++ u8 (bitsOf [e.measured.isSome, e.amplitude.isSome, e.baseline.isSome, e.lastSeen.isSome])
            ++ le 2 (e.measured.getD 0) ++ le 2 (e.amplitude.getD 0) ++ le 2 (e.baseline.getD 0)
            ++ le 6 (e.lastSeen.getD 0)))) ∧
      (page.toNat ≤ 3 → ∃ all : List (Nat × Fin 4 × StrayEntry),
        all.Nodup ∧ (all.Pairwise fun x y => x.2.2.distance ≤ y.2.2.distance) ∧
        (∀ i w e, (i, w, e) ∈ all ↔ i < 16 ∧ e = (s.stray.set i).ways.get w ∧ e.valid = true ∧ e.leg = g) ∧
        let shown := (all.drop (16 * page.toNat)).take 16
        exec (.strayList n tag [leg, page]) s = .next (u.replied 0x28 tag .ok ([leg] ++ u8 all.length
          ++ u8 (all.filter fun x => x.2.2.state == .confirmed).length ++ le 2 (s.stray.drops.get g) ++ [page]
          ++ u8 shown.length ++ shown.flatMap fun x => u8 x.1 ++ u8 x.2.1.val ++ le 2 x.2.2.cell ++ le 2 x.2.2.distance
            ++ le 2 x.2.2.amplitude ++ u8 x.2.2.sightings ++ u8 x.2.2.age ++ u8 x.2.2.state.code ++ le 6 x.2.2.firstSeen
            ++ le 6 x.2.2.lastSeen ++ u8 (bitsOf [(s.stray.set x.1).pairBit, (s.stray.set x.1).lowBit,
              (s.stray.set x.1).highBit]))))) ∧
  (∀ e : Element, e.layout.length = 21) ∧ (∀ (i w b : Nat) (e : StrayEntry), (e.layout i w b).length = 24) ∧
    (∀ r : BurstRecord, r.layout.length = 34) ∧ (∀ p : Peak, p.layout.length = 11) ∧ ∀ w : Window, w.layout.length = 17

/-! ### The span map and the stray table -/

/-- R131 to R136: ELEMENT_PUT's checks in their order, each refusal changing nothing; accepted, a record with its condition
cleared stands in its place by nominal distance in place of any of its id, the others lose their anchor flag when it is the
anchor, the leg's strays within the match tolerance are invalidated and nothing else of the table, the revision rises by one,
the other legs' maps stay, and the reply carries what R132 and R133 name. -/
def Obligations.ElementPutPlacesItsElement : Prop :=
  ∀ (n d : Nat) (leg id kind flag tag : Byte) (s : State), Ready s → d < 65536 →
    let u := s.after n
    let c := Instr.elementPut n tag ([leg, id, kind] ++ le 2 d ++ [flag])
    (4 ≤ leg.toNat ∨ id.toNat = 0 ∨ 2 < kind.toNat ∨ 1 < flag.toNat → exec c s = .next (u.replied 0x20 tag .badValue [])) ∧
    ∀ g : LegId, leg.toNat = g.val → 1 ≤ id.toNat → kind.toNat ≤ 2 → flag.toNat ≤ 1 →
      let es := s.elements g
      let others := es.filter fun e => e.id ≠ id.toNat
      let full := (∀ e ∈ es, e.id ≠ id.toNat) ∧ 48 ≤ es.length
      let taken := ∃ e ∈ others, e.nominal = d
      let breaks := (kind.toNat = 2 ∧ ∃ e ∈ others, d ≤ e.nominal ∨ e.kind = .eol) ∨
        (kind.toNat ≠ 2 ∧ ∃ e ∈ others, e.kind = .eol ∧ e.nominal ≤ d)
      (full → exec c s = .next (u.replied 0x20 tag .noRoom [])) ∧
      (¬ full → taken → exec c s = .next (u.replied 0x20 tag .duplicate [])) ∧
      (¬ full → ¬ taken → breaks → exec c s = .next (u.replied 0x20 tag .badValue [])) ∧
      (¬ full → ¬ taken → ¬ breaks → ListInv es → ∃ before after new strays count,
        others = before ++ after ∧ (∀ e ∈ before, e.nominal < d) ∧ (∀ e ∈ after, d < e.nominal) ∧
        new.kind.code = kind.toNat ∧
        new = ⟨id.toNat, new.kind, flag.toNat = 1, d, none, none, none, .unbased, 0, 0, none⟩ ∧
        ClearedStrays (fun e => decide (e.leg = g) && ((s.leg g).settings.elim false fun t =>
          decide (distanceBetween e.distance d ≤ t.tolerance))) s.stray strays count ∧
        let settle : Element → Element := fun e => if flag.toNat = 1 then { e with anchor := false } else e
        let list := before.map settle ++ new :: after.map settle
        let revision := ((s.map.get g).revision + 1) % 65536
        exec c s = .next (((u.setStray strays).setMap (s.map.set g ⟨list, revision⟩)).replied 0x20 tag .ok
          (u8 (if es.find? (fun e => e.id == id.toNat) = none then 0 else 1) ++ u8 list.length ++ u8 count ++ le 2 revision
            ++ match es.find? (fun e => e.id == id.toNat) with
              | none => [0, 0, 0]
              | some e => [3] ++ u8 e.state.code ++ u8 e.score)))

/-- R137, R138, R141: ELEMENT_DROP, MAP_CLEAR and SCORE_CLEAR with their checks: the element leaves the list, the list empties, or
the scores named become 0; a drop and a clear raise the revision by one, the other legs' maps stay, and nothing else changes. -/
def Obligations.ElementsAreDroppedAndCleared : Prop :=
  ∀ (n : Nat) (leg id tag : Byte) (s : State), Ready s →
    let u := s.after n
    (4 ≤ leg.toNat → exec (.elementDrop n tag [leg, id]) s = .next (u.replied 0x21 tag .badValue []) ∧
      exec (.mapClear n tag [leg]) s = .next (u.replied 0x22 tag .badValue []) ∧
      exec (.scoreClear n tag [leg, id]) s = .next (u.replied 0x24 tag .badValue [])) ∧
    ∀ g : LegId, leg.toNat = g.val →
      let es := s.elements g
      let revision := ((s.map.get g).revision + 1) % 65536
      (id.toNat = 0 → exec (.elementDrop n tag [leg, id]) s = .next (u.replied 0x21 tag .badValue [])) ∧
      (1 ≤ id.toNat → (∀ e ∈ es, e.id ≠ id.toNat) →
        exec (.elementDrop n tag [leg, id]) s = .next (u.replied 0x21 tag .notFound []) ∧
        exec (.scoreClear n tag [leg, id]) s = .next (u.replied 0x24 tag .notFound [])) ∧
      (∀ e, 1 ≤ id.toNat → es.find? (fun x => x.id == id.toNat) = some e →
        exec (.elementDrop n tag [leg, id]) s = .next
          ((u.setMap (s.map.set g ⟨es.filter fun x => x.id ≠ id.toNat, revision⟩)).replied 0x21 tag .ok
            (u8 e.kind.code ++ le 2 e.nominal ++ yesNo e.anchor ++ u8 e.state.code ++ u8 e.score ++ le 2 revision))) ∧
      exec (.mapClear n tag [leg]) s = .next
        ((u.setMap (s.map.set g ⟨[], revision⟩)).replied 0x22 tag .ok (u8 es.length ++ le 2 revision)) ∧
      (id.toNat = 0 ∨ (∃ e ∈ es, e.id = id.toNat) →
        let named := es.filter fun e => id.toNat = 0 ∨ e.id = id.toNat
        exec (.scoreClear n tag [leg, id]) s = .next
          ((u.setMap (s.map.set g ⟨es.map fun e => if id.toNat = 0 ∨ e.id = id.toNat then { e with score := 0 } else e,
            (s.map.get g).revision⟩)).replied 0x24 tag .ok (u8 named.length ++ le 2 (named.map (·.score)).sum)))

/-- R174, R176: STRAY_CLEAR's checks in their order; accepted, the entries of the leg named by the scope, CANDIDATE only unless
CONFIRMED ones are included, are invalidated, the replacement bits, the other entries and the drop counts stay, and the reply
carries their number and, for one cell, the state the entry had and whether it went. Nothing else changes. -/
def Obligations.StrayClearInvalidates : Prop :=
  ∀ (n cell : Nat) (leg scope option tag : Byte) (s : State), Ready s → cell < 65536 →
    let u := s.after n
    let c := Instr.strayClear n tag ([leg, scope] ++ le 2 cell ++ [option])
    let bad := 1 < scope.toNat ∨ (scope.toNat = 0 ∧ 2047 < cell) ∨ 1 < option.toNat
    (4 ≤ leg.toNat ∨ bad → exec c s = .next (u.replied 0x29 tag .badValue [])) ∧
    ∀ g : LegId, leg.toNat = g.val → ¬ bad →
      let goes : StrayEntry → Bool := fun e => decide (e.state = .candidate ∨ option.toNat = 1)
      (scope.toNat = 1 → ∃ strays count, ClearedStrays (fun e => decide (e.leg = g) && goes e) s.stray strays count ∧
        exec c s = .next ((u.setStray strays).replied 0x29 tag .ok (u8 count ++ [0, 0, 0]))) ∧
      (scope.toNat = 0 → (∀ w, ((s.stray.set (cell % 16)).ways.get w).hasTag g cell = false) →
        exec c s = .next (u.replied 0x29 tag .notFound [])) ∧
      ∀ w, scope.toNat = 0 → StrayInv s → ((s.stray.set (cell % 16)).ways.get w).hasTag g cell = true →
        let e := (s.stray.set (cell % 16)).ways.get w
        ∃ strays, ClearedStrays (fun x => decide (x.leg = g) && decide (x.cell = cell) && goes x) s.stray strays
            (if goes e then 1 else 0) ∧
          exec c s = .next ((u.setStray strays).replied 0x29 tag .ok
            (u8 (if goes e then 1 else 0) ++ [3] ++ u8 e.state.code ++ yesNo (goes e)))

/-- R166 to R172: a feed hits the entry with its tag; otherwise it fills the lowest way that is not valid; otherwise it takes the
first CANDIDATE in the order the replacement bits give; otherwise, with all four CONFIRMED, it is dropped and counted. A hit and
a fill set the entry as R168 and R170 say, confirm and report it at the confirm count, and mark the way used; every other
entry and set stays. R173: at the ageing of a leg's reconciliation its valid CANDIDATE entries whose cells were not fed grow one
older and stop being valid at the limit; no report is posted, and everything else stays. -/
def Obligations.StrayFeedsHitFillOrDrop : Prop :=
  (∀ (t : Strays) (g : LegId) (d a time cc : Nat), t.sets.length = 16 →
    let cell := d / 32
    let i := cell % 16
    let v := t.set i
    let fed := t.feed g d a time cc
    let fresh : StrayEntry := ⟨true, g, cell, d, a, 1, time, time, 0, .candidate⟩
    (∀ w, (v.ways.get w).hasTag g cell = true → (∀ x < w, (v.ways.get x).hasTag g cell = false) →
      let e := v.ways.get w
      PlacedStray t i w cc { e with sightings := min 255 (e.sightings + 1), age := 0, distance := d,
                                    amplitude := max e.amplitude a, lastSeen := time } fed) ∧
    ((∀ w, (v.ways.get w).hasTag g cell = false) →
      (∀ w, (v.ways.get w).valid = false → (∀ x < w, (v.ways.get x).valid = true) → PlacedStray t i w cc fresh fed) ∧
      ((∀ w, (v.ways.get w).valid = true) →
        (∀ (before after : List (Fin 4)) (w : Fin 4), victimTable v.pairBit v.lowBit v.highBit = before ++ w :: after →
          (∀ x ∈ before, (v.ways.get x).state = .confirmed) → (v.ways.get w).state = .candidate →
          PlacedStray t i w cc fresh fed) ∧
        ((∀ w, (v.ways.get w).state = .confirmed) →
          fed = ({ t with drops := t.drops.set g (min 65535 (t.drops.get g + 1)) }, none))))) ∧
  ∀ (g : LegId) (fedCells : List Nat) (s : State), ∃ strays, ageStrays g fedCells s = s.setStray strays ∧
    AgedStrays g fedCells (s.legSettings g).ageLimit s.stray strays

/-! ### Reconciliation -/

/-- R146, R147: the elements take their turns in list order; each is assigned, among the peaks no earlier element took that lie
within the tolerance of its nominal distance, the nearest, then the one of larger amplitude, then of smaller k; it is unmatched
only when there is none; and the peaks left over are those that no element took. -/
def Obligations.ElementsTakeTheirNearestPeaks : Prop :=
  ∀ (tolerance : Nat) (es : List Element) (ps : List Peak), (ps.Pairwise fun p q => p.k < q.k) →
    let ms := (matchElements tolerance es ps).1
    let off : Element → Peak → Nat := fun e p => distanceBetween (p.distance.getD 0) e.nominal
    ms.map (·.1) = es ∧ ((ms.filterMap (·.2)).map (·.k)).Nodup ∧
    (matchElements tolerance es ps).2 = ps.filter (fun p => !((ms.filterMap (·.2)).map (·.k)).contains p.k) ∧
    ∀ before e m after, ms = before ++ (e, m) :: after →
      let open' := ps.filter fun p => !((before.filterMap (·.2)).map (·.k)).contains p.k && decide (off e p ≤ tolerance)
      (m = none → open' = []) ∧
      ∀ p, m = some p → p ∈ open' ∧ ∀ q ∈ open', off e p < off e q ∨ (off e p = off e q ∧ (q.amplitude < p.amplitude ∨
        (q.amplitude = p.amplitude ∧ p.k ≤ q.k)))

/-- R148 to R154: what a matched and an unmatched element become, with the bands of 9.6 for a baseline of 1,000 amid R151 to R153.
R70, R71: the level and the fault counter after a DONE sweep. -/
def Obligations.ElementsAndLevelsAreJudged : Prop :=
  (∀ (time : Nat) (p : Peak) (e : Element),
    e.matched true time p = { e with measured := p.distance, amplitude := some p.amplitude, lastSeen := some time,
                                     misses := 0, baseline := some p.amplitude, state := .nominal } ∧
    (e.baseline = none → e.matched false time p = { e with measured := p.distance, amplitude := some p.amplitude,
                                                           lastSeen := some time, misses := 0, state := .unbased }) ∧
    ∀ b, e.baseline = some b → e.matched false time p = { e with
      measured := p.distance, amplitude := some p.amplitude, lastSeen := some time, misses := 0
      state := classify b p.amplitude e.state }) ∧
  (∀ (limit : Nat) (e : Element), e.missed limit = { e with
    misses := min 15 (e.misses + 1), state := if limit ≤ min 15 (e.misses + 1) then .missing else e.state }) ∧
  (∀ b c, (classify b c .nominal = if 2 * b ≤ c ∨ 2 * c ≤ b then .faulty
      else if 23 * b ≤ 16 * c ∨ 16 * c ≤ 11 * b then .watch else .nominal) ∧ classify b c .missing = classify b c .nominal ∧
    (classify b c .watch = if 2 * b ≤ c ∨ 2 * c ≤ b then .faulty
      else if 13 * b < 16 * c ∧ 16 * c < 20 * b then .nominal else .watch) ∧
    classify b c .faulty = if 13 * b < 16 * c ∧ 16 * c < 20 * b then .nominal
      else if 10 * b < 16 * c ∧ 16 * c < 28 * b then .watch else .faulty) ∧
  (∀ c, (classify 1000 c .nominal = .nominal ↔ 688 ≤ c ∧ c ≤ 1437) ∧
    (classify 1000 c .nominal = .faulty ↔ c ≤ 500 ∨ 2000 ≤ c) ∧
    (classify 1000 c .watch = .nominal ↔ 813 ≤ c ∧ c ≤ 1249) ∧ (classify 1000 c .watch = .faulty ↔ c ≤ 500 ∨ 2000 ≤ c) ∧
    (classify 1000 c .faulty = .nominal ↔ 813 ≤ c ∧ c ≤ 1249) ∧
    (classify 1000 c .faulty = .faulty ↔ c ≤ 625 ∨ 1750 ≤ c)) ∧
  ∀ (t : Settings) (used faults level a : Nat), t.aLo ≤ t.aHi →
    (levelAfterDone t .noAnchor level = level ∧ faultsAfterDone t .noAnchor used faults = 0) ∧
    (levelAfterDone t .unmatched level = min 63 (level + t.upStep) ∧
      faultsAfterDone t .unmatched used faults = if used = 63 then min 15 (faults + 1) else 0) ∧
    (a < t.aLo → levelAfterDone t (.matched a) level = min 63 (level + t.upStep) ∧
      faultsAfterDone t (.matched a) used faults = if used = 63 then min 15 (faults + 1) else 0) ∧
    (t.aLo ≤ a → a ≤ t.aHi → levelAfterDone t (.matched a) level = level ∧
      faultsAfterDone t (.matched a) used faults = 0) ∧
    (t.aHi < a → levelAfterDone t (.matched a) level = level - t.downStep ∧
      faultsAfterDone t (.matched a) used faults = 0)

/-- R143 to R160, R64, R65, R70 to R72: reconciliation of a sweep gives every peak its distance, sets RANGE when one was clamped,
writes the ids of the matched elements into the peaks, and makes the slot READY with the temperature, Q_eff, flags and completion
time; the elements become what R148 to R154 make of them; the peaks left over are fed to the stray table in ascending k, and then the
leg's strays age; the leg's level and fault counter are judged on the anchor; the record leaves the queue. ELEMENT_CHANGE with the
fields of R155 is posted for each element whose state changed, in list order, then STRAY_CONFIRMED for each stray that was confirmed,
then SWEEP_END with outcome DONE and the fields of R65. When an ENABLED leg's fault counter has reached its limit the leg is then
FAULTED, LEG_FAULT with the fields of R72 is posted, and its sweeps that are not ANALYSING end LEG_FAULTED, each with its SWEEP_END
in queue order and its slot FREE (R64, R160). The time, the plan, the
calibrations and the windows' ids stay. -/
def Obligations.ReconciliationEndsTheSweep : Prop :=
  ∀ (s : State) (w : Sweep) (c : SlotContent) (ps : List Peak), QueueInv s → s.findSweep w.id = some w →
    (s.slot w.slot).content = some c → c.peaks = some ps →
    let g := w.leg
    let set := s.legSettings g
    let now := s.time.timebase
    let measured := ps.map fun p =>
      let r := toDistance (s.qEff g) (p.t16.getD 0) set.chipDivider
      { p with distance := some r.1, range := r.2 }
    let ms := (matchElements set.tolerance (s.elements g) measured).1
    let free := (matchElements set.tolerance (s.elements g) measured).2
    let judged : Element × Option Peak → Element := fun m =>
      match m.2 with
      | some p => m.1.matched w.options.baseline now p
      | none => m.1.missed set.missLimit
    let changes := ms.filterMap fun m =>
      if (judged m).state = m.1.state then none
      else some (Report.elementChange g m.1.id w.id m.1.state (judged m).state ((m.2.bind (·.distance)).getD m.1.nominal)
        (judged m).misses now (m.2.map (·.amplitude)) (judged m).baseline)
    let fed := fedStrays g now set.confirmCount free s.stray
    let anchor : AnchorMatch :=
      match ms.find? fun m => m.1.anchor with
      | none => .noAnchor
      | some m => m.2.elim .unmatched fun p => .matched p.amplitude
    let level := levelAfterDone set anchor (s.leg g).level
    let faults := faultsAfterDone set anchor (w.levelUsed.getD 0) (s.leg g).faults
    let flags := { w.flags with range := w.flags.range || measured.any (·.range) }
    let fails := (s.leg g).state = .enabled ∧ faults = set.faultLimit
    let done := Report.sweepEnd w.id g w.slot .done flags w.started w.done ps.length
      (ms.filter fun m => m.2.isSome).length free.length level now
    let t := reconcile w.id s
    t.findSweep w.id = none ∧
    t.slot w.slot = ⟨.ready, some { c with
      peaks := some (measured.map fun p => { p with
        element := (ms.find? fun m => m.2.map (·.k) == some p.k).map fun m => m.1.id })
      temperature := some s.arith.temperature, qEff := some (s.qEff g), flags := some flags, completion := some now
      acc := none, analysisStart := none }⟩ ∧
    t.map = s.map.set g { s.map.get g with elements := ms.map judged } ∧
    AgedStrays g (free.map fun p => p.distance.getD 0 / 32) set.ageLimit fed.1 t.stray ∧
    t.time = s.time ∧ t.plan = s.plan ∧ t.arith = s.arith ∧ t.win.table.map (·.id) = s.win.table.map (·.id) ∧
    (¬ fails → t.legs = s.legs.set g { s.leg g with level := level, faults := faults } ∧
      t.msg = (changes ++ fed.2 ++ [done]).foldl (fun m r => m.post s.time.clock r) s.msg) ∧
    (fails → t.legs = s.legs.set g { s.leg g with level := level, faults := faults, state := .faulted } ∧
      (∀ x ∈ t.seq.queue, x.leg = g → x.state = .analysing) ∧
      let ended := s.seq.queue.filter fun v => v.leg = g ∧ v.state ≠ .analysing ∧ v.id ≠ w.id
      (∀ v ∈ ended, Ended t v) ∧ ∃ started : Sweep → Nat,
        ((∀ a, s.seq.inFlight = some a → a.sweepId ≠ w.id) → ∀ v ∈ ended, started v = v.started) ∧
        t.msg = (changes ++ fed.2 ++ [done, .legFault g faults level w.id now] ++
          ended.map fun v => sweepEndIn s .legFaulted level { v with started := started v }).foldl
          (fun m r => m.post s.time.clock r) s.msg)

/-! ### The ingress monitor -/

/-- R181, R191, R193, R194: INGRESS_SET, SURVEY_OPEN, SURVEY_CLOSE and LOG_TAKE with their checks in order: the settings are
replaced and the old ones returned; a survey opens empty; it closes and its result is latched, the mean rounded half up; the
oldest records leave the log and are returned, field by field (R202). Nothing else changes. -/
def Obligations.WatchIsSetAndSurveyed : Prop :=
  ∀ (n : Nat) (leg tag : Byte) (s : State), Ready s →
    let u := s.after n
    (∀ (mode margin hysteresis pairing : Byte) (onset : Int), -32768 ≤ onset → onset ≤ 32767 →
      let c := Instr.ingressSet n tag ([leg, mode] ++ leSigned 2 onset ++ [margin, hysteresis, pairing])
      let bad := 1 < mode.toNat ∨ onset < -240 ∨ 240 < onset ∨ 120 < margin.toNat ∨ 60 < hysteresis.toNat ∨ 1 < pairing.toNat
      (4 ≤ leg.toNat ∨ bad → exec c s = .next (u.replied 0x2C tag .badValue [])) ∧
      ∀ g : LegId, leg.toNat = g.val → ¬ bad →
        let l := s.ingLeg g
        exec c s = .next ((u.setIngLeg g { l with settings := ⟨if mode.toNat = 0 then .absolute else .relative, onset,
            margin.toNat, hysteresis.toNat, pairing.toNat = 1⟩ }).replied 0x2C tag .ok
          (u8 l.settings.mode.code ++ leSigned 2 l.settings.onset ++ leSigned 1 l.settings.margin
            ++ leSigned 1 l.settings.hysteresis ++ yesNo l.settings.pairing))) ∧
    (4 ≤ leg.toNat → exec (.surveyOpen n tag [leg]) s = .next (u.replied 0x2D tag .badValue []) ∧
      exec (.surveyClose n tag [leg]) s = .next (u.replied 0x2E tag .badValue [])) ∧
    (∀ g : LegId, leg.toNat = g.val →
      let l := s.ingLeg g
      ((s.leg g).state = .off → exec (.surveyOpen n tag [leg]) s = .next (u.replied 0x2D tag .legState [])) ∧
      ((s.leg g).state ≠ .off → l.survey ≠ none →
        exec (.surveyOpen n tag [leg]) s = .next (u.replied 0x2D tag .busy [])) ∧
      ((s.leg g).state ≠ .off → l.survey = none → exec (.surveyOpen n tag [leg]) s = .next
        ((u.setIngLeg g { l with survey := some ⟨List.replicate 64 ⟨0, 0, none⟩, 0, u.time.timebase⟩ }).replied 0x2D tag
          .ok [])) ∧
      (l.survey = none → exec (.surveyClose n tag [leg]) s = .next (u.replied 0x2E tag .notFound [])) ∧
      ∀ v, l.survey = some v → ∃ r, r.scans = v.scans ∧ r.short = decide (v.scans < 1000) ∧ r.full = false ∧ r.openTime = v.openTime ∧
          r.closeTime = u.time.timebase ∧ r.bins.length = v.bins.length ∧
          (∀ (b : Nat) (x : SurveyBin), v.bins[b]? = some x → x.count = 0 → r.bins[b]? = some none) ∧
          (∀ (b : Nat) (x : SurveyBin) (m : Int), v.bins[b]? = some x → 0 < x.count → x.maximum = some m → ∃ mean, r.bins[b]? = some (some (mean, m)) ∧
            2 * x.count * mean ≤ 2 * x.sum + x.count ∧ 2 * x.sum + x.count < 2 * x.count * (mean + 1)) ∧
          exec (.surveyClose n tag [leg]) s = .next
            ((u.setIngLeg g { l with survey := none, result := some r }).replied 0x2E tag .ok (le 6 r.openTime
              ++ le 6 r.closeTime ++ le 4 r.scans ++ u8 (bitsOf [r.short, r.full])
              ++ binSet ((List.range 64).filter fun b => (r.bins.getD b none).isSome)
              ++ (List.range 64).flatMap fun b => leSigned 2 ((r.bins.getD b none).elim 0 (·.1))
                ++ leSigned 2 ((r.bins.getD b none).elim 0 (·.2))))) ∧
    ∀ count : Byte,
      (count.toNat < 1 ∨ 6 < count.toNat → exec (.logTake n tag [count]) s = .next (u.replied 0x30 tag .badValue [])) ∧
      (1 ≤ count.toNat → count.toNat ≤ 6 → ∃ taken rest, s.ing.log = taken ++ rest ∧
        taken.length = min count.toNat s.ing.log.length ∧
        exec (.logTake n tag [count]) s = .next ((u.setIng { s.ing with log := rest }).replied 0x30 tag .ok
          (u8 taken.length ++ u8 rest.length ++ le 2 s.ing.discards ++ taken.flatMap fun r => u8 r.leg.val
            ++ le 6 r.startTime ++ le 6 (r.endTime.getD 0) ++ binSet r.bins ++ leSigned 2 r.peakLevel ++ u8 r.peakBin
            ++ le 2 r.scans ++ u8 (bitsOf [r.long, r.cut]) ++ u8 r.outcome.code
            ++ u8 (bitsOf [r.echo.isSome, r.position.isSome, r.element.isSome]) ++ le 2 (r.echo.getD 0)
            ++ le 2 (r.position.getD 0) ++ u8 (r.element.getD 0))))

/-- R185, R195: the first row that holds decides the pairing of a record as it opens: OFF, NO_ANCHOR or SLOT_BUSY, which touch neither
the lag slot nor the capture unit, or PENDING, when the lag slot is CAPTURING for the leg with its K and a snapshot is asked for, which
starts at once when no half fills, one is FREE and no acquisition starts (R56), and waits otherwise (R84). R187 to R190: at its close the
record leaves the leg for the tail of the log, with its end time and flags; a full log loses its oldest record, counted, saturating;
BURST_END is posted, unless its pairing still runs, which then keeps the closed record to report it when it settles; and a snapshot
that still waits is withdrawn, the pairing settling CAPTURE_BUSY (R86). Each record carries the model's own number (log 14). -/
def Obligations.RecordsOpenAndAreLogged : Prop :=
  (∀ (g : LegId) (r : BurstRecord) (s : State),
    let t := openRecord g r s
    let outcome : PairingOutcome :=
      if (s.ingLeg g).settings.pairing = false then .off
      else if s.anchor g = none then .noAnchor
      else if s.prof.lag.state ≠ .free then .slotBusy
      else .pending
    (t.ingLeg g).record = some { r with serial := s.ing.serial, outcome := outcome } ∧ t.ing.serial = s.ing.serial + 1 ∧
      t.ing.log = s.ing.log ∧ t.msg = s.msg ∧ t.time = s.time ∧ t.legs = s.legs ∧ t.plan = s.plan ∧ t.map = s.map ∧
      (outcome ≠ .pending → t.prof = s.prof ∧ t.cap = s.cap ∧ t.seq = s.seq ∧ t.ing.pairing = s.ing.pairing) ∧
      (outcome = .pending → t.ing.pairing = some ⟨g, s.ing.serial, none, none⟩ ∧
        t.prof.lag = ⟨.capturing, some g, some (s.legSettings g).profileBins, none⟩ ∧
        (s.cap.inState .filling ≠ none ∨ s.cap.inState .free = none → t.cap = { s.cap with waiting := some g }) ∧
        ∀ h, s.cap.inState .filling = none → s.cap.inState .free = some h →
          (s.seq.inFlight ≠ none ∨ (∀ w ∈ s.seq.queue, ¬ MayStart s w) →
            t.cap.waiting = none ∧ t.cap.stream = .snapshot ∧ t.cap.coupler = some g ∧ t.cap.snapStart = s.time.clock ∧
            t.cap.position = 0 ∧ t.cap.sampling = none ∧
            (t.cap.half h).state = .filling ∧ (t.cap.half h).owner = some (.snapshot g (s.legSettings g).profileBins) ∧
            t.probe = { s.probe with carrier := some (s.legSettings g).carrier }) ∧
          (s.seq.inFlight = none → (∃ w ∈ s.seq.queue, MayStart s w) →
            t.cap.waiting = some g ∧ t.cap.stream = .acquisition))) ∧
  ∀ (g : LegId) (r : BurstRecord) (long cut : Bool) (time : Nat) (s : State), (s.ingLeg g).record = some r →
    let t := closeRecord g long cut time s
    let closed := { r with endTime := some time, long := long, cut := cut }
    let busy := { closed with outcome := .captureBusy, echo := none, position := none, element := none }
    (t.ingLeg g).record = none ∧ t.time = s.time ∧ t.legs = s.legs ∧ t.plan = s.plan ∧ t.map = s.map ∧ t.seq = s.seq ∧
      t.div = s.div ∧
      t.ing.discards = (if 128 ≤ s.ing.log.length then min 65535 (s.ing.discards + 1) else s.ing.discards) ∧
      ((∀ p, s.ing.pairing = some p → p.serial ≠ r.serial) → t.ing.log = loggedWith s.ing.log closed ∧
        t.ing.pairing = s.ing.pairing ∧ t.cap = s.cap ∧ t.prof = s.prof ∧
        t.msg = s.msg.post s.time.clock (.burstEnd closed)) ∧
      ∀ p, s.ing.pairing = some p → p.serial = r.serial →
        (s.cap.waiting = none → t.ing.log = loggedWith s.ing.log closed ∧
          t.ing.pairing = some { p with closed := some closed } ∧ t.cap = s.cap ∧ t.prof = s.prof ∧ t.msg = s.msg) ∧
        (s.cap.waiting ≠ none → p.leg = g → p.closed = none → t.ing.log = loggedWith s.ing.log busy ∧
          t.ing.pairing = none ∧ t.cap = { s.cap with waiting := none } ∧ t.prof.lag = ⟨.free, none, none, none⟩ ∧
          t.msg = s.msg.post s.time.clock (.burstEnd busy))

/-- R180, R182, R183, R185 to R187, R193 to R195: the scan of an OFF leg does no work; one with its countdown above 0 lowers it by
one; at countdown 0 each watched bin that is not held is read, its detector judged against its onset and release level, the open
survey takes the readings and is latched with FULL at 3,600,000 scans, and the open record has one scan more, the bins that entered BURST, and the peak of R186; with no bin in BURST it
goes to the log with that scan's time, and the long-held mark is cleared, while with a bin in BURST it goes on, or at 10,000 scans is
closed with LONG and the mark set, and a read one opens a record with one scan and the outcome of R195. The legs, the plan, the map, the divider, the stray table and the
span arithmetic stay, and the next scan falls 1 ms later. The held bins go by the mark of log 16,
which a reading scan leaves saying whether an acquisition of the leg is in progress, a bin without a level reads -240
(log 18), and a late scan is log 2. -/
def Obligations.ScansCountDownOrRead : Prop :=
  ∀ (g : LegId) (levels : List Int) (s : State), s.inReset = false →
    let l := s.ingLeg g
    let u := s.atClock l.nextScan
    let acquiring := s.seq.inFlight.elim false fun a => a.leg == g
    let v := u.setIngLeg g { l with nextScan := l.nextScan + 200000, acquired := acquiring }
    ((s.leg g).state = .off → exec (.ingressScan g levels) s = .next v) ∧
    ((s.leg g).state ≠ .off → 0 < (s.leg g).settle → exec (.ingressScan g levels) s = .next
      (v.setLegs (s.legs.set g { s.leg g with settle := (s.leg g).settle - 1 }))) ∧
    ((s.leg g).state ≠ .off → (s.leg g).settle = 0 → ∃ t, exec (.ingressScan g levels) s = .next t ∧
      let reading : Nat → Option Int := fun b =>
        if s.watched g b && !((l.acquired || acquiring) && (s.legSettings g).inBand b) then
          some (max (-240) (min 240 (levels.getD b (-240)))) else none
      let onset : Nat → Int := fun b =>
        match l.settings.mode, l.result.bind fun r => r.bins.getD b none with
        | .relative, some (mean, _) => min 240 (mean + l.settings.margin)
        | _, _ => l.settings.onset
      let after : Nat → Detector := fun b =>
        match reading b with
        | none => l.detector b
        | some r =>
          if l.detector b = .quiet then (if onset b ≤ r then .burst else .quiet)
          else if r < onset b - l.settings.hysteresis then .quiet else .burst
      (∀ b < 64, (t.ingLeg g).readings.getD b none = reading b ∧ (t.ingLeg g).detector b = after b) ∧
      (l.survey = none → (t.ingLeg g).survey = none ∧ (t.ingLeg g).result = l.result) ∧
      (∀ x, l.survey = some x → x.scans + 1 < 3600000 → ∃ y, (t.ingLeg g).survey = some y ∧ y.scans = x.scans + 1 ∧
        y.openTime = x.openTime ∧ (t.ingLeg g).result = l.result ∧
        ∀ b < 64, y.bins.getD b ⟨0, 0, none⟩ = match reading b with
          | none => x.bins.getD b ⟨0, 0, none⟩
          | some r => ⟨(x.bins.getD b ⟨0, 0, none⟩).sum + r, (x.bins.getD b ⟨0, 0, none⟩).count + 1,
            some ((x.bins.getD b ⟨0, 0, none⟩).maximum.elim r fun m => max r m)⟩) ∧
      (∀ x, l.survey = some x → 3600000 ≤ x.scans + 1 → (t.ingLeg g).survey = none ∧ ∃ y, (t.ingLeg g).result = some y ∧
        y.full = true ∧ y.short = false ∧ y.scans = x.scans + 1 ∧ y.openTime = x.openTime ∧
        y.closeTime = u.time.timebase ∧
        ∀ b < 64, (y.bins.getD b none).isSome = ((reading b).isSome || decide (0 < (x.bins.getD b ⟨0, 0, none⟩).count))) ∧
      ((∀ b < 64, after b = .quiet) → (t.ingLeg g).record = none ∧ (t.ingLeg g).longHeld = false ∧
        ∀ r, l.record = some r → ∃ r', ScanUpdated l.detector after reading r r' ∧
          ClosedIntoLog s t g { r' with endTime := some u.time.timebase, long := false, cut := false }) ∧
      (∀ r, l.record = some r → r.scans + 1 < 10000 → (∃ b < 64, after b = .burst) →
        ∃ r', (t.ingLeg g).record = some r' ∧ ScanUpdated l.detector after reading r r' ∧ t.ing.log = s.ing.log ∧
          t.msg = s.msg) ∧
      (∀ r, l.record = some r → 10000 ≤ r.scans + 1 → (∃ b < 64, after b = .burst) →
        (t.ingLeg g).record = none ∧ (t.ingLeg g).longHeld = true ∧ (∃ r', t.ing.log.getLast? = some r' ∧
          r'.serial = r.serial ∧ r'.leg = r.leg ∧ r'.startTime = r.startTime ∧ r'.scans = r.scans + 1 ∧ r'.long = true ∧
          r'.cut = false ∧ r'.endTime = some u.time.timebase) ∧
        ∃ r', ScanUpdated l.detector after reading r r' ∧
          ClosedIntoLog s t g { r' with endTime := some u.time.timebase, long := true, cut := false }) ∧
      (l.record = none → l.longHeld = false → (∃ b < 64, after b = .burst ∧ reading b ≠ none) →
        ∃ r', (t.ingLeg g).record = some r' ∧ r'.scans = 1 ∧ r'.startTime = u.time.timebase ∧ r'.leg = g ∧
          r'.bins = (List.range 64).filter (fun b => after b == .burst) ∧ after r'.peakBin = .burst ∧
          reading r'.peakBin = some r'.peakLevel ∧
          (∀ b < 64, after b = .burst → ∀ x, reading b = some x → x ≤ r'.peakLevel) ∧
          r'.outcome = (if l.settings.pairing = false then .off else if s.anchor g = none then .noAnchor
            else if s.prof.lag.state ≠ .free then .slotBusy else .pending)) ∧
      (t.ingLeg g).nextScan = l.nextScan + 200000 ∧ (t.ingLeg g).settings = l.settings ∧
      (t.ingLeg g).acquired = (t.seq.inFlight.elim false fun a => a.leg == g) ∧ t.time = u.time ∧ t.legs = s.legs ∧
      t.plan = s.plan ∧ t.map = s.map ∧ t.div = s.div ∧ t.stray = s.stray ∧ t.arith = s.arith)

/-! ### What every step keeps -/

/-- R6, R7, R8, R10, R11, R12: every step keeps the capacities and counts of the message controller, leaves nothing waiting with
the transmitter IDLE, and no request waiting with the reply slot empty and dispatch running. -/
def Obligations.StepsKeepTheLine : Prop := ∀ s t : State, LineInv s → step s = .next t → LineInv t

/-- R22, R23, R32: every step keeps the window table ordered, without overlap, within its room, with distinct ids, and at most
one window OPEN. -/
def Obligations.StepsKeepTheWindows : Prop := ∀ s t : State, WindowInv s → step s = .next t → WindowInv t

/-- R34, R41, R42, R119, R120, R121: every step keeps the plan, the legs' live fields, settings and calibrations, and the
temperature reading within their ranges. -/
def Obligations.StepsKeepTheLegs : Prop := ∀ s t : State, LegInv s → step s = .next t → LegInv t

/-- R51, R52, R110, R111: every step keeps the sweep queue within its room with distinct slots and ids, and the divider's queue
within its room and empty while the divider is IDLE. -/
def Obligations.StepsKeepTheQueues : Prop := ∀ s t : State, QueueInv s → step s = .next t → QueueInv t

/-- R57, R61, R62, R68, R77, R79: from a state whose window table is as R22 says, every step leaves an acquisition in flight only
for a sweep of the queue on a leg that is not OFF, and chips at the output only while the transmit gate's condition holds. -/
def Obligations.StepsKeepTheProbeLawful : Prop :=
  ∀ s t : State, WindowInv s → ProbeInv s → step s = .next t → ProbeInv t

/-- R129, R164, R165: every step keeps each leg's element list ordered, within its room, with distinct ids, at most one anchor and
one EOL at its end; and every step keeps each valid stray entry in its cell's set with its own tag. -/
def Obligations.StepsKeepTheMapAndTheStrays : Prop :=
  (∀ s t : State, MapInv s → step s = .next t → MapInv t) ∧ ∀ s t : State, StrayInv s → step s = .next t → StrayInv t

/-- R179, R189: from a state whose window table is as R22 says, every step leaves each bin that is not watched QUIET, and keeps
the ingress log within its 128 records. -/
def Obligations.StepsKeepTheWatch : Prop :=
  ∀ s t : State, WindowInv s → IngressInv s → step s = .next t → IngressInv t
end

