-- ==== Sys2Proof/Laws/State.lean ====
section
/-! SUPPORT. One lemma for each field under each update of State, all true by unfolding, so that no later proof unfolds a
record update. -/

namespace Sys2Proof.Machine

@[simp] theorem State.setPending_pending (s : State) (v : List Instr) : (s.setPending v).pending = v := rfl
@[simp] theorem State.setPending_draws (s : State) (v : List Instr) : (s.setPending v).draws = s.draws := rfl
@[simp] theorem State.setPending_inReset (s : State) (v : List Instr) : (s.setPending v).inReset = s.inReset := rfl
@[simp] theorem State.setPending_time (s : State) (v : List Instr) : (s.setPending v).time = s.time := rfl
@[simp] theorem State.setPending_msg (s : State) (v : List Instr) : (s.setPending v).msg = s.msg := rfl
@[simp] theorem State.setPending_win (s : State) (v : List Instr) : (s.setPending v).win = s.win := rfl
@[simp] theorem State.setPending_plan (s : State) (v : List Instr) : (s.setPending v).plan = s.plan := rfl
@[simp] theorem State.setPending_legs (s : State) (v : List Instr) : (s.setPending v).legs = s.legs := rfl
@[simp] theorem State.setPending_seq (s : State) (v : List Instr) : (s.setPending v).seq = s.seq := rfl
@[simp] theorem State.setPending_probe (s : State) (v : List Instr) : (s.setPending v).probe = s.probe := rfl
@[simp] theorem State.setPending_cap (s : State) (v : List Instr) : (s.setPending v).cap = s.cap := rfl
@[simp] theorem State.setPending_cor (s : State) (v : List Instr) : (s.setPending v).cor = s.cor := rfl
@[simp] theorem State.setPending_prof (s : State) (v : List Instr) : (s.setPending v).prof = s.prof := rfl
@[simp] theorem State.setPending_div (s : State) (v : List Instr) : (s.setPending v).div = s.div := rfl
@[simp] theorem State.setPending_arith (s : State) (v : List Instr) : (s.setPending v).arith = s.arith := rfl
@[simp] theorem State.setPending_map (s : State) (v : List Instr) : (s.setPending v).map = s.map := rfl
@[simp] theorem State.setPending_stray (s : State) (v : List Instr) : (s.setPending v).stray = s.stray := rfl
@[simp] theorem State.setPending_ing (s : State) (v : List Instr) : (s.setPending v).ing = s.ing := rfl

@[simp] theorem State.setDraws_pending (s : State) (v : Nat) : (s.setDraws v).pending = s.pending := rfl
@[simp] theorem State.setDraws_draws (s : State) (v : Nat) : (s.setDraws v).draws = v := rfl
@[simp] theorem State.setDraws_inReset (s : State) (v : Nat) : (s.setDraws v).inReset = s.inReset := rfl
@[simp] theorem State.setDraws_time (s : State) (v : Nat) : (s.setDraws v).time = s.time := rfl
@[simp] theorem State.setDraws_msg (s : State) (v : Nat) : (s.setDraws v).msg = s.msg := rfl
@[simp] theorem State.setDraws_win (s : State) (v : Nat) : (s.setDraws v).win = s.win := rfl
@[simp] theorem State.setDraws_plan (s : State) (v : Nat) : (s.setDraws v).plan = s.plan := rfl
@[simp] theorem State.setDraws_legs (s : State) (v : Nat) : (s.setDraws v).legs = s.legs := rfl
@[simp] theorem State.setDraws_seq (s : State) (v : Nat) : (s.setDraws v).seq = s.seq := rfl
@[simp] theorem State.setDraws_probe (s : State) (v : Nat) : (s.setDraws v).probe = s.probe := rfl
@[simp] theorem State.setDraws_cap (s : State) (v : Nat) : (s.setDraws v).cap = s.cap := rfl
@[simp] theorem State.setDraws_cor (s : State) (v : Nat) : (s.setDraws v).cor = s.cor := rfl
@[simp] theorem State.setDraws_prof (s : State) (v : Nat) : (s.setDraws v).prof = s.prof := rfl
@[simp] theorem State.setDraws_div (s : State) (v : Nat) : (s.setDraws v).div = s.div := rfl
@[simp] theorem State.setDraws_arith (s : State) (v : Nat) : (s.setDraws v).arith = s.arith := rfl
@[simp] theorem State.setDraws_map (s : State) (v : Nat) : (s.setDraws v).map = s.map := rfl
@[simp] theorem State.setDraws_stray (s : State) (v : Nat) : (s.setDraws v).stray = s.stray := rfl
@[simp] theorem State.setDraws_ing (s : State) (v : Nat) : (s.setDraws v).ing = s.ing := rfl

@[simp] theorem State.setInReset_pending (s : State) (v : Bool) : (s.setInReset v).pending = s.pending := rfl
@[simp] theorem State.setInReset_draws (s : State) (v : Bool) : (s.setInReset v).draws = s.draws := rfl
@[simp] theorem State.setInReset_inReset (s : State) (v : Bool) : (s.setInReset v).inReset = v := rfl
@[simp] theorem State.setInReset_time (s : State) (v : Bool) : (s.setInReset v).time = s.time := rfl
@[simp] theorem State.setInReset_msg (s : State) (v : Bool) : (s.setInReset v).msg = s.msg := rfl
@[simp] theorem State.setInReset_win (s : State) (v : Bool) : (s.setInReset v).win = s.win := rfl
@[simp] theorem State.setInReset_plan (s : State) (v : Bool) : (s.setInReset v).plan = s.plan := rfl
@[simp] theorem State.setInReset_legs (s : State) (v : Bool) : (s.setInReset v).legs = s.legs := rfl
@[simp] theorem State.setInReset_seq (s : State) (v : Bool) : (s.setInReset v).seq = s.seq := rfl
@[simp] theorem State.setInReset_probe (s : State) (v : Bool) : (s.setInReset v).probe = s.probe := rfl
@[simp] theorem State.setInReset_cap (s : State) (v : Bool) : (s.setInReset v).cap = s.cap := rfl
@[simp] theorem State.setInReset_cor (s : State) (v : Bool) : (s.setInReset v).cor = s.cor := rfl
@[simp] theorem State.setInReset_prof (s : State) (v : Bool) : (s.setInReset v).prof = s.prof := rfl
@[simp] theorem State.setInReset_div (s : State) (v : Bool) : (s.setInReset v).div = s.div := rfl
@[simp] theorem State.setInReset_arith (s : State) (v : Bool) : (s.setInReset v).arith = s.arith := rfl
@[simp] theorem State.setInReset_map (s : State) (v : Bool) : (s.setInReset v).map = s.map := rfl
@[simp] theorem State.setInReset_stray (s : State) (v : Bool) : (s.setInReset v).stray = s.stray := rfl
@[simp] theorem State.setInReset_ing (s : State) (v : Bool) : (s.setInReset v).ing = s.ing := rfl

@[simp] theorem State.setTime_pending (s : State) (v : Time) : (s.setTime v).pending = s.pending := rfl
@[simp] theorem State.setTime_draws (s : State) (v : Time) : (s.setTime v).draws = s.draws := rfl
@[simp] theorem State.setTime_inReset (s : State) (v : Time) : (s.setTime v).inReset = s.inReset := rfl
@[simp] theorem State.setTime_time (s : State) (v : Time) : (s.setTime v).time = v := rfl
@[simp] theorem State.setTime_msg (s : State) (v : Time) : (s.setTime v).msg = s.msg := rfl
@[simp] theorem State.setTime_win (s : State) (v : Time) : (s.setTime v).win = s.win := rfl
@[simp] theorem State.setTime_plan (s : State) (v : Time) : (s.setTime v).plan = s.plan := rfl
@[simp] theorem State.setTime_legs (s : State) (v : Time) : (s.setTime v).legs = s.legs := rfl
@[simp] theorem State.setTime_seq (s : State) (v : Time) : (s.setTime v).seq = s.seq := rfl
@[simp] theorem State.setTime_probe (s : State) (v : Time) : (s.setTime v).probe = s.probe := rfl
@[simp] theorem State.setTime_cap (s : State) (v : Time) : (s.setTime v).cap = s.cap := rfl
@[simp] theorem State.setTime_cor (s : State) (v : Time) : (s.setTime v).cor = s.cor := rfl
@[simp] theorem State.setTime_prof (s : State) (v : Time) : (s.setTime v).prof = s.prof := rfl
@[simp] theorem State.setTime_div (s : State) (v : Time) : (s.setTime v).div = s.div := rfl
@[simp] theorem State.setTime_arith (s : State) (v : Time) : (s.setTime v).arith = s.arith := rfl
@[simp] theorem State.setTime_map (s : State) (v : Time) : (s.setTime v).map = s.map := rfl
@[simp] theorem State.setTime_stray (s : State) (v : Time) : (s.setTime v).stray = s.stray := rfl
@[simp] theorem State.setTime_ing (s : State) (v : Time) : (s.setTime v).ing = s.ing := rfl

@[simp] theorem State.setMsg_pending (s : State) (v : Message) : (s.setMsg v).pending = s.pending := rfl
@[simp] theorem State.setMsg_draws (s : State) (v : Message) : (s.setMsg v).draws = s.draws := rfl
@[simp] theorem State.setMsg_inReset (s : State) (v : Message) : (s.setMsg v).inReset = s.inReset := rfl
@[simp] theorem State.setMsg_time (s : State) (v : Message) : (s.setMsg v).time = s.time := rfl
@[simp] theorem State.setMsg_msg (s : State) (v : Message) : (s.setMsg v).msg = v := rfl
@[simp] theorem State.setMsg_win (s : State) (v : Message) : (s.setMsg v).win = s.win := rfl
@[simp] theorem State.setMsg_plan (s : State) (v : Message) : (s.setMsg v).plan = s.plan := rfl
@[simp] theorem State.setMsg_legs (s : State) (v : Message) : (s.setMsg v).legs = s.legs := rfl
@[simp] theorem State.setMsg_seq (s : State) (v : Message) : (s.setMsg v).seq = s.seq := rfl
@[simp] theorem State.setMsg_probe (s : State) (v : Message) : (s.setMsg v).probe = s.probe := rfl
@[simp] theorem State.setMsg_cap (s : State) (v : Message) : (s.setMsg v).cap = s.cap := rfl
@[simp] theorem State.setMsg_cor (s : State) (v : Message) : (s.setMsg v).cor = s.cor := rfl
@[simp] theorem State.setMsg_prof (s : State) (v : Message) : (s.setMsg v).prof = s.prof := rfl
@[simp] theorem State.setMsg_div (s : State) (v : Message) : (s.setMsg v).div = s.div := rfl
@[simp] theorem State.setMsg_arith (s : State) (v : Message) : (s.setMsg v).arith = s.arith := rfl
@[simp] theorem State.setMsg_map (s : State) (v : Message) : (s.setMsg v).map = s.map := rfl
@[simp] theorem State.setMsg_stray (s : State) (v : Message) : (s.setMsg v).stray = s.stray := rfl
@[simp] theorem State.setMsg_ing (s : State) (v : Message) : (s.setMsg v).ing = s.ing := rfl

@[simp] theorem State.setWin_pending (s : State) (v : Windows) : (s.setWin v).pending = s.pending := rfl
@[simp] theorem State.setWin_draws (s : State) (v : Windows) : (s.setWin v).draws = s.draws := rfl
@[simp] theorem State.setWin_inReset (s : State) (v : Windows) : (s.setWin v).inReset = s.inReset := rfl
@[simp] theorem State.setWin_time (s : State) (v : Windows) : (s.setWin v).time = s.time := rfl
@[simp] theorem State.setWin_msg (s : State) (v : Windows) : (s.setWin v).msg = s.msg := rfl
@[simp] theorem State.setWin_win (s : State) (v : Windows) : (s.setWin v).win = v := rfl
@[simp] theorem State.setWin_plan (s : State) (v : Windows) : (s.setWin v).plan = s.plan := rfl
@[simp] theorem State.setWin_legs (s : State) (v : Windows) : (s.setWin v).legs = s.legs := rfl
@[simp] theorem State.setWin_seq (s : State) (v : Windows) : (s.setWin v).seq = s.seq := rfl
@[simp] theorem State.setWin_probe (s : State) (v : Windows) : (s.setWin v).probe = s.probe := rfl
@[simp] theorem State.setWin_cap (s : State) (v : Windows) : (s.setWin v).cap = s.cap := rfl
@[simp] theorem State.setWin_cor (s : State) (v : Windows) : (s.setWin v).cor = s.cor := rfl
@[simp] theorem State.setWin_prof (s : State) (v : Windows) : (s.setWin v).prof = s.prof := rfl
@[simp] theorem State.setWin_div (s : State) (v : Windows) : (s.setWin v).div = s.div := rfl
@[simp] theorem State.setWin_arith (s : State) (v : Windows) : (s.setWin v).arith = s.arith := rfl
@[simp] theorem State.setWin_map (s : State) (v : Windows) : (s.setWin v).map = s.map := rfl
@[simp] theorem State.setWin_stray (s : State) (v : Windows) : (s.setWin v).stray = s.stray := rfl
@[simp] theorem State.setWin_ing (s : State) (v : Windows) : (s.setWin v).ing = s.ing := rfl

@[simp] theorem State.setPlan_pending (s : State) (v : Plan) : (s.setPlan v).pending = s.pending := rfl
@[simp] theorem State.setPlan_draws (s : State) (v : Plan) : (s.setPlan v).draws = s.draws := rfl
@[simp] theorem State.setPlan_inReset (s : State) (v : Plan) : (s.setPlan v).inReset = s.inReset := rfl
@[simp] theorem State.setPlan_time (s : State) (v : Plan) : (s.setPlan v).time = s.time := rfl
@[simp] theorem State.setPlan_msg (s : State) (v : Plan) : (s.setPlan v).msg = s.msg := rfl
@[simp] theorem State.setPlan_win (s : State) (v : Plan) : (s.setPlan v).win = s.win := rfl
@[simp] theorem State.setPlan_plan (s : State) (v : Plan) : (s.setPlan v).plan = v := rfl
@[simp] theorem State.setPlan_legs (s : State) (v : Plan) : (s.setPlan v).legs = s.legs := rfl
@[simp] theorem State.setPlan_seq (s : State) (v : Plan) : (s.setPlan v).seq = s.seq := rfl
@[simp] theorem State.setPlan_probe (s : State) (v : Plan) : (s.setPlan v).probe = s.probe := rfl
@[simp] theorem State.setPlan_cap (s : State) (v : Plan) : (s.setPlan v).cap = s.cap := rfl
@[simp] theorem State.setPlan_cor (s : State) (v : Plan) : (s.setPlan v).cor = s.cor := rfl
@[simp] theorem State.setPlan_prof (s : State) (v : Plan) : (s.setPlan v).prof = s.prof := rfl
@[simp] theorem State.setPlan_div (s : State) (v : Plan) : (s.setPlan v).div = s.div := rfl
@[simp] theorem State.setPlan_arith (s : State) (v : Plan) : (s.setPlan v).arith = s.arith := rfl
@[simp] theorem State.setPlan_map (s : State) (v : Plan) : (s.setPlan v).map = s.map := rfl
@[simp] theorem State.setPlan_stray (s : State) (v : Plan) : (s.setPlan v).stray = s.stray := rfl
@[simp] theorem State.setPlan_ing (s : State) (v : Plan) : (s.setPlan v).ing = s.ing := rfl

@[simp] theorem State.setLegs_pending (s : State) (v : Quad LegRecord) : (s.setLegs v).pending = s.pending := rfl
@[simp] theorem State.setLegs_draws (s : State) (v : Quad LegRecord) : (s.setLegs v).draws = s.draws := rfl
@[simp] theorem State.setLegs_inReset (s : State) (v : Quad LegRecord) : (s.setLegs v).inReset = s.inReset := rfl
@[simp] theorem State.setLegs_time (s : State) (v : Quad LegRecord) : (s.setLegs v).time = s.time := rfl
@[simp] theorem State.setLegs_msg (s : State) (v : Quad LegRecord) : (s.setLegs v).msg = s.msg := rfl
@[simp] theorem State.setLegs_win (s : State) (v : Quad LegRecord) : (s.setLegs v).win = s.win := rfl
@[simp] theorem State.setLegs_plan (s : State) (v : Quad LegRecord) : (s.setLegs v).plan = s.plan := rfl
@[simp] theorem State.setLegs_legs (s : State) (v : Quad LegRecord) : (s.setLegs v).legs = v := rfl
@[simp] theorem State.setLegs_seq (s : State) (v : Quad LegRecord) : (s.setLegs v).seq = s.seq := rfl
@[simp] theorem State.setLegs_probe (s : State) (v : Quad LegRecord) : (s.setLegs v).probe = s.probe := rfl
@[simp] theorem State.setLegs_cap (s : State) (v : Quad LegRecord) : (s.setLegs v).cap = s.cap := rfl
@[simp] theorem State.setLegs_cor (s : State) (v : Quad LegRecord) : (s.setLegs v).cor = s.cor := rfl
@[simp] theorem State.setLegs_prof (s : State) (v : Quad LegRecord) : (s.setLegs v).prof = s.prof := rfl
@[simp] theorem State.setLegs_div (s : State) (v : Quad LegRecord) : (s.setLegs v).div = s.div := rfl
@[simp] theorem State.setLegs_arith (s : State) (v : Quad LegRecord) : (s.setLegs v).arith = s.arith := rfl
@[simp] theorem State.setLegs_map (s : State) (v : Quad LegRecord) : (s.setLegs v).map = s.map := rfl
@[simp] theorem State.setLegs_stray (s : State) (v : Quad LegRecord) : (s.setLegs v).stray = s.stray := rfl
@[simp] theorem State.setLegs_ing (s : State) (v : Quad LegRecord) : (s.setLegs v).ing = s.ing := rfl

@[simp] theorem State.setSeq_pending (s : State) (v : Sequencer) : (s.setSeq v).pending = s.pending := rfl
@[simp] theorem State.setSeq_draws (s : State) (v : Sequencer) : (s.setSeq v).draws = s.draws := rfl
@[simp] theorem State.setSeq_inReset (s : State) (v : Sequencer) : (s.setSeq v).inReset = s.inReset := rfl
@[simp] theorem State.setSeq_time (s : State) (v : Sequencer) : (s.setSeq v).time = s.time := rfl
@[simp] theorem State.setSeq_msg (s : State) (v : Sequencer) : (s.setSeq v).msg = s.msg := rfl
@[simp] theorem State.setSeq_win (s : State) (v : Sequencer) : (s.setSeq v).win = s.win := rfl
@[simp] theorem State.setSeq_plan (s : State) (v : Sequencer) : (s.setSeq v).plan = s.plan := rfl
@[simp] theorem State.setSeq_legs (s : State) (v : Sequencer) : (s.setSeq v).legs = s.legs := rfl
@[simp] theorem State.setSeq_seq (s : State) (v : Sequencer) : (s.setSeq v).seq = v := rfl
@[simp] theorem State.setSeq_probe (s : State) (v : Sequencer) : (s.setSeq v).probe = s.probe := rfl
@[simp] theorem State.setSeq_cap (s : State) (v : Sequencer) : (s.setSeq v).cap = s.cap := rfl
@[simp] theorem State.setSeq_cor (s : State) (v : Sequencer) : (s.setSeq v).cor = s.cor := rfl
@[simp] theorem State.setSeq_prof (s : State) (v : Sequencer) : (s.setSeq v).prof = s.prof := rfl
@[simp] theorem State.setSeq_div (s : State) (v : Sequencer) : (s.setSeq v).div = s.div := rfl
@[simp] theorem State.setSeq_arith (s : State) (v : Sequencer) : (s.setSeq v).arith = s.arith := rfl
@[simp] theorem State.setSeq_map (s : State) (v : Sequencer) : (s.setSeq v).map = s.map := rfl
@[simp] theorem State.setSeq_stray (s : State) (v : Sequencer) : (s.setSeq v).stray = s.stray := rfl
@[simp] theorem State.setSeq_ing (s : State) (v : Sequencer) : (s.setSeq v).ing = s.ing := rfl

@[simp] theorem State.setProbe_pending (s : State) (v : Probe) : (s.setProbe v).pending = s.pending := rfl
@[simp] theorem State.setProbe_draws (s : State) (v : Probe) : (s.setProbe v).draws = s.draws := rfl
@[simp] theorem State.setProbe_inReset (s : State) (v : Probe) : (s.setProbe v).inReset = s.inReset := rfl
@[simp] theorem State.setProbe_time (s : State) (v : Probe) : (s.setProbe v).time = s.time := rfl
@[simp] theorem State.setProbe_msg (s : State) (v : Probe) : (s.setProbe v).msg = s.msg := rfl
@[simp] theorem State.setProbe_win (s : State) (v : Probe) : (s.setProbe v).win = s.win := rfl
@[simp] theorem State.setProbe_plan (s : State) (v : Probe) : (s.setProbe v).plan = s.plan := rfl
@[simp] theorem State.setProbe_legs (s : State) (v : Probe) : (s.setProbe v).legs = s.legs := rfl
@[simp] theorem State.setProbe_seq (s : State) (v : Probe) : (s.setProbe v).seq = s.seq := rfl
@[simp] theorem State.setProbe_probe (s : State) (v : Probe) : (s.setProbe v).probe = v := rfl
@[simp] theorem State.setProbe_cap (s : State) (v : Probe) : (s.setProbe v).cap = s.cap := rfl
@[simp] theorem State.setProbe_cor (s : State) (v : Probe) : (s.setProbe v).cor = s.cor := rfl
@[simp] theorem State.setProbe_prof (s : State) (v : Probe) : (s.setProbe v).prof = s.prof := rfl
@[simp] theorem State.setProbe_div (s : State) (v : Probe) : (s.setProbe v).div = s.div := rfl
@[simp] theorem State.setProbe_arith (s : State) (v : Probe) : (s.setProbe v).arith = s.arith := rfl
@[simp] theorem State.setProbe_map (s : State) (v : Probe) : (s.setProbe v).map = s.map := rfl
@[simp] theorem State.setProbe_stray (s : State) (v : Probe) : (s.setProbe v).stray = s.stray := rfl
@[simp] theorem State.setProbe_ing (s : State) (v : Probe) : (s.setProbe v).ing = s.ing := rfl

@[simp] theorem State.setCap_pending (s : State) (v : Capture) : (s.setCap v).pending = s.pending := rfl
@[simp] theorem State.setCap_draws (s : State) (v : Capture) : (s.setCap v).draws = s.draws := rfl
@[simp] theorem State.setCap_inReset (s : State) (v : Capture) : (s.setCap v).inReset = s.inReset := rfl
@[simp] theorem State.setCap_time (s : State) (v : Capture) : (s.setCap v).time = s.time := rfl
@[simp] theorem State.setCap_msg (s : State) (v : Capture) : (s.setCap v).msg = s.msg := rfl
@[simp] theorem State.setCap_win (s : State) (v : Capture) : (s.setCap v).win = s.win := rfl
@[simp] theorem State.setCap_plan (s : State) (v : Capture) : (s.setCap v).plan = s.plan := rfl
@[simp] theorem State.setCap_legs (s : State) (v : Capture) : (s.setCap v).legs = s.legs := rfl
@[simp] theorem State.setCap_seq (s : State) (v : Capture) : (s.setCap v).seq = s.seq := rfl
@[simp] theorem State.setCap_probe (s : State) (v : Capture) : (s.setCap v).probe = s.probe := rfl
@[simp] theorem State.setCap_cap (s : State) (v : Capture) : (s.setCap v).cap = v := rfl
@[simp] theorem State.setCap_cor (s : State) (v : Capture) : (s.setCap v).cor = s.cor := rfl
@[simp] theorem State.setCap_prof (s : State) (v : Capture) : (s.setCap v).prof = s.prof := rfl
@[simp] theorem State.setCap_div (s : State) (v : Capture) : (s.setCap v).div = s.div := rfl
@[simp] theorem State.setCap_arith (s : State) (v : Capture) : (s.setCap v).arith = s.arith := rfl
@[simp] theorem State.setCap_map (s : State) (v : Capture) : (s.setCap v).map = s.map := rfl
@[simp] theorem State.setCap_stray (s : State) (v : Capture) : (s.setCap v).stray = s.stray := rfl
@[simp] theorem State.setCap_ing (s : State) (v : Capture) : (s.setCap v).ing = s.ing := rfl

@[simp] theorem State.setCor_pending (s : State) (v : Correlator) : (s.setCor v).pending = s.pending := rfl
@[simp] theorem State.setCor_draws (s : State) (v : Correlator) : (s.setCor v).draws = s.draws := rfl
@[simp] theorem State.setCor_inReset (s : State) (v : Correlator) : (s.setCor v).inReset = s.inReset := rfl
@[simp] theorem State.setCor_time (s : State) (v : Correlator) : (s.setCor v).time = s.time := rfl
@[simp] theorem State.setCor_msg (s : State) (v : Correlator) : (s.setCor v).msg = s.msg := rfl
@[simp] theorem State.setCor_win (s : State) (v : Correlator) : (s.setCor v).win = s.win := rfl
@[simp] theorem State.setCor_plan (s : State) (v : Correlator) : (s.setCor v).plan = s.plan := rfl
@[simp] theorem State.setCor_legs (s : State) (v : Correlator) : (s.setCor v).legs = s.legs := rfl
@[simp] theorem State.setCor_seq (s : State) (v : Correlator) : (s.setCor v).seq = s.seq := rfl
@[simp] theorem State.setCor_probe (s : State) (v : Correlator) : (s.setCor v).probe = s.probe := rfl
@[simp] theorem State.setCor_cap (s : State) (v : Correlator) : (s.setCor v).cap = s.cap := rfl
@[simp] theorem State.setCor_cor (s : State) (v : Correlator) : (s.setCor v).cor = v := rfl
@[simp] theorem State.setCor_prof (s : State) (v : Correlator) : (s.setCor v).prof = s.prof := rfl
@[simp] theorem State.setCor_div (s : State) (v : Correlator) : (s.setCor v).div = s.div := rfl
@[simp] theorem State.setCor_arith (s : State) (v : Correlator) : (s.setCor v).arith = s.arith := rfl
@[simp] theorem State.setCor_map (s : State) (v : Correlator) : (s.setCor v).map = s.map := rfl
@[simp] theorem State.setCor_stray (s : State) (v : Correlator) : (s.setCor v).stray = s.stray := rfl
@[simp] theorem State.setCor_ing (s : State) (v : Correlator) : (s.setCor v).ing = s.ing := rfl

@[simp] theorem State.setProf_pending (s : State) (v : Profiles) : (s.setProf v).pending = s.pending := rfl
@[simp] theorem State.setProf_draws (s : State) (v : Profiles) : (s.setProf v).draws = s.draws := rfl
@[simp] theorem State.setProf_inReset (s : State) (v : Profiles) : (s.setProf v).inReset = s.inReset := rfl
@[simp] theorem State.setProf_time (s : State) (v : Profiles) : (s.setProf v).time = s.time := rfl
@[simp] theorem State.setProf_msg (s : State) (v : Profiles) : (s.setProf v).msg = s.msg := rfl
@[simp] theorem State.setProf_win (s : State) (v : Profiles) : (s.setProf v).win = s.win := rfl
@[simp] theorem State.setProf_plan (s : State) (v : Profiles) : (s.setProf v).plan = s.plan := rfl
@[simp] theorem State.setProf_legs (s : State) (v : Profiles) : (s.setProf v).legs = s.legs := rfl
@[simp] theorem State.setProf_seq (s : State) (v : Profiles) : (s.setProf v).seq = s.seq := rfl
@[simp] theorem State.setProf_probe (s : State) (v : Profiles) : (s.setProf v).probe = s.probe := rfl
@[simp] theorem State.setProf_cap (s : State) (v : Profiles) : (s.setProf v).cap = s.cap := rfl
@[simp] theorem State.setProf_cor (s : State) (v : Profiles) : (s.setProf v).cor = s.cor := rfl
@[simp] theorem State.setProf_prof (s : State) (v : Profiles) : (s.setProf v).prof = v := rfl
@[simp] theorem State.setProf_div (s : State) (v : Profiles) : (s.setProf v).div = s.div := rfl
@[simp] theorem State.setProf_arith (s : State) (v : Profiles) : (s.setProf v).arith = s.arith := rfl
@[simp] theorem State.setProf_map (s : State) (v : Profiles) : (s.setProf v).map = s.map := rfl
@[simp] theorem State.setProf_stray (s : State) (v : Profiles) : (s.setProf v).stray = s.stray := rfl
@[simp] theorem State.setProf_ing (s : State) (v : Profiles) : (s.setProf v).ing = s.ing := rfl

@[simp] theorem State.setDiv_pending (s : State) (v : Divider) : (s.setDiv v).pending = s.pending := rfl
@[simp] theorem State.setDiv_draws (s : State) (v : Divider) : (s.setDiv v).draws = s.draws := rfl
@[simp] theorem State.setDiv_inReset (s : State) (v : Divider) : (s.setDiv v).inReset = s.inReset := rfl
@[simp] theorem State.setDiv_time (s : State) (v : Divider) : (s.setDiv v).time = s.time := rfl
@[simp] theorem State.setDiv_msg (s : State) (v : Divider) : (s.setDiv v).msg = s.msg := rfl
@[simp] theorem State.setDiv_win (s : State) (v : Divider) : (s.setDiv v).win = s.win := rfl
@[simp] theorem State.setDiv_plan (s : State) (v : Divider) : (s.setDiv v).plan = s.plan := rfl
@[simp] theorem State.setDiv_legs (s : State) (v : Divider) : (s.setDiv v).legs = s.legs := rfl
@[simp] theorem State.setDiv_seq (s : State) (v : Divider) : (s.setDiv v).seq = s.seq := rfl
@[simp] theorem State.setDiv_probe (s : State) (v : Divider) : (s.setDiv v).probe = s.probe := rfl
@[simp] theorem State.setDiv_cap (s : State) (v : Divider) : (s.setDiv v).cap = s.cap := rfl
@[simp] theorem State.setDiv_cor (s : State) (v : Divider) : (s.setDiv v).cor = s.cor := rfl
@[simp] theorem State.setDiv_prof (s : State) (v : Divider) : (s.setDiv v).prof = s.prof := rfl
@[simp] theorem State.setDiv_div (s : State) (v : Divider) : (s.setDiv v).div = v := rfl
@[simp] theorem State.setDiv_arith (s : State) (v : Divider) : (s.setDiv v).arith = s.arith := rfl
@[simp] theorem State.setDiv_map (s : State) (v : Divider) : (s.setDiv v).map = s.map := rfl
@[simp] theorem State.setDiv_stray (s : State) (v : Divider) : (s.setDiv v).stray = s.stray := rfl
@[simp] theorem State.setDiv_ing (s : State) (v : Divider) : (s.setDiv v).ing = s.ing := rfl

@[simp] theorem State.setArith_pending (s : State) (v : Arith) : (s.setArith v).pending = s.pending := rfl
@[simp] theorem State.setArith_draws (s : State) (v : Arith) : (s.setArith v).draws = s.draws := rfl
@[simp] theorem State.setArith_inReset (s : State) (v : Arith) : (s.setArith v).inReset = s.inReset := rfl
@[simp] theorem State.setArith_time (s : State) (v : Arith) : (s.setArith v).time = s.time := rfl
@[simp] theorem State.setArith_msg (s : State) (v : Arith) : (s.setArith v).msg = s.msg := rfl
@[simp] theorem State.setArith_win (s : State) (v : Arith) : (s.setArith v).win = s.win := rfl
@[simp] theorem State.setArith_plan (s : State) (v : Arith) : (s.setArith v).plan = s.plan := rfl
@[simp] theorem State.setArith_legs (s : State) (v : Arith) : (s.setArith v).legs = s.legs := rfl
@[simp] theorem State.setArith_seq (s : State) (v : Arith) : (s.setArith v).seq = s.seq := rfl
@[simp] theorem State.setArith_probe (s : State) (v : Arith) : (s.setArith v).probe = s.probe := rfl
@[simp] theorem State.setArith_cap (s : State) (v : Arith) : (s.setArith v).cap = s.cap := rfl
@[simp] theorem State.setArith_cor (s : State) (v : Arith) : (s.setArith v).cor = s.cor := rfl
@[simp] theorem State.setArith_prof (s : State) (v : Arith) : (s.setArith v).prof = s.prof := rfl
@[simp] theorem State.setArith_div (s : State) (v : Arith) : (s.setArith v).div = s.div := rfl
@[simp] theorem State.setArith_arith (s : State) (v : Arith) : (s.setArith v).arith = v := rfl
@[simp] theorem State.setArith_map (s : State) (v : Arith) : (s.setArith v).map = s.map := rfl
@[simp] theorem State.setArith_stray (s : State) (v : Arith) : (s.setArith v).stray = s.stray := rfl
@[simp] theorem State.setArith_ing (s : State) (v : Arith) : (s.setArith v).ing = s.ing := rfl

@[simp] theorem State.setMap_pending (s : State) (v : Quad LegMap) : (s.setMap v).pending = s.pending := rfl
@[simp] theorem State.setMap_draws (s : State) (v : Quad LegMap) : (s.setMap v).draws = s.draws := rfl
@[simp] theorem State.setMap_inReset (s : State) (v : Quad LegMap) : (s.setMap v).inReset = s.inReset := rfl
@[simp] theorem State.setMap_time (s : State) (v : Quad LegMap) : (s.setMap v).time = s.time := rfl
@[simp] theorem State.setMap_msg (s : State) (v : Quad LegMap) : (s.setMap v).msg = s.msg := rfl
@[simp] theorem State.setMap_win (s : State) (v : Quad LegMap) : (s.setMap v).win = s.win := rfl
@[simp] theorem State.setMap_plan (s : State) (v : Quad LegMap) : (s.setMap v).plan = s.plan := rfl
@[simp] theorem State.setMap_legs (s : State) (v : Quad LegMap) : (s.setMap v).legs = s.legs := rfl
@[simp] theorem State.setMap_seq (s : State) (v : Quad LegMap) : (s.setMap v).seq = s.seq := rfl
@[simp] theorem State.setMap_probe (s : State) (v : Quad LegMap) : (s.setMap v).probe = s.probe := rfl
@[simp] theorem State.setMap_cap (s : State) (v : Quad LegMap) : (s.setMap v).cap = s.cap := rfl
@[simp] theorem State.setMap_cor (s : State) (v : Quad LegMap) : (s.setMap v).cor = s.cor := rfl
@[simp] theorem State.setMap_prof (s : State) (v : Quad LegMap) : (s.setMap v).prof = s.prof := rfl
@[simp] theorem State.setMap_div (s : State) (v : Quad LegMap) : (s.setMap v).div = s.div := rfl
@[simp] theorem State.setMap_arith (s : State) (v : Quad LegMap) : (s.setMap v).arith = s.arith := rfl
@[simp] theorem State.setMap_map (s : State) (v : Quad LegMap) : (s.setMap v).map = v := rfl
@[simp] theorem State.setMap_stray (s : State) (v : Quad LegMap) : (s.setMap v).stray = s.stray := rfl
@[simp] theorem State.setMap_ing (s : State) (v : Quad LegMap) : (s.setMap v).ing = s.ing := rfl

@[simp] theorem State.setStray_pending (s : State) (v : Strays) : (s.setStray v).pending = s.pending := rfl
@[simp] theorem State.setStray_draws (s : State) (v : Strays) : (s.setStray v).draws = s.draws := rfl
@[simp] theorem State.setStray_inReset (s : State) (v : Strays) : (s.setStray v).inReset = s.inReset := rfl
@[simp] theorem State.setStray_time (s : State) (v : Strays) : (s.setStray v).time = s.time := rfl
@[simp] theorem State.setStray_msg (s : State) (v : Strays) : (s.setStray v).msg = s.msg := rfl
@[simp] theorem State.setStray_win (s : State) (v : Strays) : (s.setStray v).win = s.win := rfl
@[simp] theorem State.setStray_plan (s : State) (v : Strays) : (s.setStray v).plan = s.plan := rfl
@[simp] theorem State.setStray_legs (s : State) (v : Strays) : (s.setStray v).legs = s.legs := rfl
@[simp] theorem State.setStray_seq (s : State) (v : Strays) : (s.setStray v).seq = s.seq := rfl
@[simp] theorem State.setStray_probe (s : State) (v : Strays) : (s.setStray v).probe = s.probe := rfl
@[simp] theorem State.setStray_cap (s : State) (v : Strays) : (s.setStray v).cap = s.cap := rfl
@[simp] theorem State.setStray_cor (s : State) (v : Strays) : (s.setStray v).cor = s.cor := rfl
@[simp] theorem State.setStray_prof (s : State) (v : Strays) : (s.setStray v).prof = s.prof := rfl
@[simp] theorem State.setStray_div (s : State) (v : Strays) : (s.setStray v).div = s.div := rfl
@[simp] theorem State.setStray_arith (s : State) (v : Strays) : (s.setStray v).arith = s.arith := rfl
@[simp] theorem State.setStray_map (s : State) (v : Strays) : (s.setStray v).map = s.map := rfl
@[simp] theorem State.setStray_stray (s : State) (v : Strays) : (s.setStray v).stray = v := rfl
@[simp] theorem State.setStray_ing (s : State) (v : Strays) : (s.setStray v).ing = s.ing := rfl

@[simp] theorem State.setIng_pending (s : State) (v : Ingress) : (s.setIng v).pending = s.pending := rfl
@[simp] theorem State.setIng_draws (s : State) (v : Ingress) : (s.setIng v).draws = s.draws := rfl
@[simp] theorem State.setIng_inReset (s : State) (v : Ingress) : (s.setIng v).inReset = s.inReset := rfl
@[simp] theorem State.setIng_time (s : State) (v : Ingress) : (s.setIng v).time = s.time := rfl
@[simp] theorem State.setIng_msg (s : State) (v : Ingress) : (s.setIng v).msg = s.msg := rfl
@[simp] theorem State.setIng_win (s : State) (v : Ingress) : (s.setIng v).win = s.win := rfl
@[simp] theorem State.setIng_plan (s : State) (v : Ingress) : (s.setIng v).plan = s.plan := rfl
@[simp] theorem State.setIng_legs (s : State) (v : Ingress) : (s.setIng v).legs = s.legs := rfl
@[simp] theorem State.setIng_seq (s : State) (v : Ingress) : (s.setIng v).seq = s.seq := rfl
@[simp] theorem State.setIng_probe (s : State) (v : Ingress) : (s.setIng v).probe = s.probe := rfl
@[simp] theorem State.setIng_cap (s : State) (v : Ingress) : (s.setIng v).cap = s.cap := rfl
@[simp] theorem State.setIng_cor (s : State) (v : Ingress) : (s.setIng v).cor = s.cor := rfl
@[simp] theorem State.setIng_prof (s : State) (v : Ingress) : (s.setIng v).prof = s.prof := rfl
@[simp] theorem State.setIng_div (s : State) (v : Ingress) : (s.setIng v).div = s.div := rfl
@[simp] theorem State.setIng_arith (s : State) (v : Ingress) : (s.setIng v).arith = s.arith := rfl
@[simp] theorem State.setIng_map (s : State) (v : Ingress) : (s.setIng v).map = s.map := rfl
@[simp] theorem State.setIng_stray (s : State) (v : Ingress) : (s.setIng v).stray = s.stray := rfl
@[simp] theorem State.setIng_ing (s : State) (v : Ingress) : (s.setIng v).ing = v := rfl

end Sys2Proof.Machine
end

