-- ==== Sys2Proof/Laws/Ops.lean ====
section
/-! SUPPORT. What the shared operations of Machine/Ops.lean do, said once. -/

namespace Sys2Proof.Machine

open Sys2Proof

/-- A record of four read where it was written. -/
@[simp] theorem Quad.get_set_same {α : Type} (q : Quad α) (i : Fin 4) (v : α) : (q.set i v).get i = v := by
  fin_cases i <;> rfl

/-- A record of four read elsewhere than where it was written. -/
theorem Quad.get_set_other {α : Type} (q : Quad α) {i j : Fin 4} (v : α) (h : j ≠ i) : (q.set i v).get j = q.get j := by
  fin_cases i <;> fin_cases j <;> first | rfl | exact absurd rfl h

/-- Four copies read as the one thing. -/
@[simp] theorem Quad.get_all {α : Type} (v : α) (i : Fin 4) : (Quad.all v).get i = v := by
  fin_cases i <;> rfl

/-- A value lies among the four exactly when some number holds it. -/
theorem Quad.mem_toList {α : Type} (q : Quad α) (v : α) : v ∈ q.toList ↔ ∃ i, q.get i = v := by
  constructor
  · intro h
    simp only [Quad.toList, List.mem_cons, List.not_mem_nil, or_false] at h
    rcases h with rfl | rfl | rfl | rfl
    exacts [⟨0, rfl⟩, ⟨1, rfl⟩, ⟨2, rfl⟩, ⟨3, rfl⟩]
  · rintro ⟨i, rfl⟩
    fin_cases i <;> simp [Quad.toList, Quad.get]

/-- Time that passes in two runs is time that passes in one (R18). -/
theorem Time.advance_advance (m n : Nat) (t : Time) : (t.advance m).advance n = t.advance (m + n) := by
  simp only [Time.advance, cyclesPerMicro, Time.mk.injEq]
  constructor <;> omega

/-- The clock after an instant is reached: that instant, or where it stood when it was past it. -/
@[simp] theorem Time.reach_clock (target : Nat) (t : Time) : (t.reach target).clock = max target t.clock := by
  simp only [Time.reach, Time.advance]; omega

/-- The clock after cycles pass. -/
@[simp] theorem Time.advance_clock (n : Nat) (t : Time) : (t.advance n).clock = t.clock + n := rfl

/-- The clock after cycles pass. -/
@[simp] theorem State.after_clock (n : Nat) (s : State) : (s.after n).time.clock = s.time.clock + n := rfl

/-- The clock at an event with a due instant. -/
@[simp] theorem State.atClock_clock (n : Nat) (s : State) : (s.atClock n).time.clock = max n s.time.clock :=
  Time.reach_clock n s.time

/-- A saturating count stays within its limit. -/
theorem satSucc_le (limit v : Nat) : satSucc limit v ≤ limit := Nat.min_le_left ..

/-- clamp stays between its limits. -/
theorem clampInt_range {lo hi : Int} (h : lo ≤ hi) (v : Int) : lo ≤ clampInt lo hi v ∧ clampInt lo hi v ≤ hi := by
  simp only [clampInt]; omega

/-- What an IDLE transmitter's chance does to the message controller: nothing, or it takes the waiting reply, or, with no reply,
the oldest report (R12). -/
theorem Message.kick_cases (clock : Nat) (m : Message) :
    m.kick clock = m ∨
      (m.tx = none ∧ m.hold = false ∧ ∃ r, m.slot = some r ∧
        m.kick clock = { m with slot := none, tx := some ⟨r.frame, r.restart, clock⟩ }) ∨
      (m.tx = none ∧ m.hold = false ∧ m.slot = none ∧ ∃ r rs, m.reports = r :: rs ∧
        m.kick clock = { m with reports := rs, tx := some ⟨r.frame, false, clock⟩ }) := by
  unfold Message.kick
  split
  · exact .inl rfl
  · rename_i h
    split
    · exact .inl rfl
    · rename_i hh
      split
      · rename_i r hr
        exact .inr (.inl ⟨h, by simpa using hh, r, hr, rfl⟩)
      · rename_i hs
        split
        · exact .inl rfl
        · rename_i r rs hr
          exact .inr (.inr ⟨h, by simpa using hh, hs, r, rs, hr, rfl⟩)

/-- What posting a report does: it is dropped and counted at a full queue, or joins the tail and an IDLE transmitter has its
chance (R10). -/
theorem Message.post_cases (clock : Nat) (r : Report) (m : Message) :
    (32 ≤ m.reports.length ∧ m.post clock r = { m with reportsLost := satSucc 65535 m.reportsLost }) ∨
      (m.reports.length < 32 ∧ m.post clock r = Message.kick clock { m with reports := m.reports ++ [r] }) := by
  unfold Message.post
  split
  · exact .inl ⟨‹_›, rfl⟩
  · exact .inr ⟨by omega, rfl⟩

/-- Posting leaves the assembler, the requests, the dispatch mark, the hold mark and the frame-error count as they were. -/
@[simp] theorem Message.post_keeps (clock : Nat) (r : Report) (m : Message) :
    (m.post clock r).assembler = m.assembler ∧ (m.post clock r).requests = m.requests ∧
      (m.post clock r).dispatching = m.dispatching ∧ (m.post clock r).hold = m.hold ∧
      (m.post clock r).frameErrors = m.frameErrors := by
  unfold Message.post Message.kick
  (repeat' split) <;> simp

/-- What time that passes leaves alone: all but the time, the samples taken and the code register. -/
@[simp] theorem State.passTo_frame (t : Time) (s : State) :
    (s.passTo t).pending = s.pending ∧
    (s.passTo t).draws = s.draws ∧
    (s.passTo t).inReset = s.inReset ∧
    (s.passTo t).time = t ∧
    (s.passTo t).msg = s.msg ∧
    (s.passTo t).win = s.win ∧
    (s.passTo t).plan = s.plan ∧
    (s.passTo t).legs = s.legs ∧
    (s.passTo t).seq = s.seq ∧
    (s.passTo t).cap = s.cap.sampleTo t.clock ∧
    (s.passTo t).cor = s.cor ∧
    (s.passTo t).prof = s.prof ∧
    (s.passTo t).div = s.div ∧
    (s.passTo t).arith = s.arith ∧
    (s.passTo t).map = s.map ∧
    (s.passTo t).stray = s.stray ∧
    (s.passTo t).ing = s.ing := by
  simp [State.passTo]

/-- Time that passes leaves the probe generator's phase, gate and carrier alone. -/
@[simp] theorem State.passTo_probe (t : Time) (s : State) :
    (s.passTo t).probe.phase = s.probe.phase ∧ (s.passTo t).probe.gate = s.probe.gate ∧
      (s.passTo t).probe.carrier = s.probe.carrier := ⟨rfl, rfl, rfl⟩

/-- What the passing of cycles leaves alone. -/
@[simp] theorem State.after_frame (n : Nat) (s : State) :
    (s.after n).pending = s.pending ∧
    (s.after n).draws = s.draws ∧
    (s.after n).inReset = s.inReset ∧
    (s.after n).msg = s.msg ∧
    (s.after n).win = s.win ∧
    (s.after n).plan = s.plan ∧
    (s.after n).legs = s.legs ∧
    (s.after n).seq = s.seq ∧
    (s.after n).cor = s.cor ∧
    (s.after n).prof = s.prof ∧
    (s.after n).div = s.div ∧
    (s.after n).arith = s.arith ∧
    (s.after n).map = s.map ∧
    (s.after n).stray = s.stray ∧
    (s.after n).ing = s.ing := by
  simp [State.after]

/-- What the coming of an event's due instant leaves alone. -/
@[simp] theorem State.atClock_frame (n : Nat) (s : State) :
    (s.atClock n).pending = s.pending ∧
    (s.atClock n).draws = s.draws ∧
    (s.atClock n).inReset = s.inReset ∧
    (s.atClock n).msg = s.msg ∧
    (s.atClock n).win = s.win ∧
    (s.atClock n).plan = s.plan ∧
    (s.atClock n).legs = s.legs ∧
    (s.atClock n).seq = s.seq ∧
    (s.atClock n).cor = s.cor ∧
    (s.atClock n).prof = s.prof ∧
    (s.atClock n).div = s.div ∧
    (s.atClock n).arith = s.arith ∧
    (s.atClock n).map = s.map ∧
    (s.atClock n).stray = s.stray ∧
    (s.atClock n).ing = s.ing := by
  simp [State.atClock]

/-- What the coming of the end of work leaves alone. -/
@[simp] theorem State.atEndOfWork_frame (n start limit : Nat) (s : State) :
    (State.atEndOfWork n start limit s).pending = s.pending ∧
    (State.atEndOfWork n start limit s).draws = s.draws ∧
    (State.atEndOfWork n start limit s).inReset = s.inReset ∧
    (State.atEndOfWork n start limit s).msg = s.msg ∧
    (State.atEndOfWork n start limit s).win = s.win ∧
    (State.atEndOfWork n start limit s).plan = s.plan ∧
    (State.atEndOfWork n start limit s).legs = s.legs ∧
    (State.atEndOfWork n start limit s).seq = s.seq ∧
    (State.atEndOfWork n start limit s).cor = s.cor ∧
    (State.atEndOfWork n start limit s).prof = s.prof ∧
    (State.atEndOfWork n start limit s).div = s.div ∧
    (State.atEndOfWork n start limit s).arith = s.arith ∧
    (State.atEndOfWork n start limit s).map = s.map ∧
    (State.atEndOfWork n start limit s).stray = s.stray ∧
    (State.atEndOfWork n start limit s).ing = s.ing := by
  simp [State.atEndOfWork]

/-- Posting a report changes the message controller alone. -/
@[simp] theorem post_frame (r : Report) (s : State) :
    (post r s).pending = s.pending ∧
    (post r s).draws = s.draws ∧
    (post r s).inReset = s.inReset ∧
    (post r s).time = s.time ∧
    (post r s).win = s.win ∧
    (post r s).plan = s.plan ∧
    (post r s).legs = s.legs ∧
    (post r s).seq = s.seq ∧
    (post r s).probe = s.probe ∧
    (post r s).cap = s.cap ∧
    (post r s).cor = s.cor ∧
    (post r s).prof = s.prof ∧
    (post r s).div = s.div ∧
    (post r s).arith = s.arith ∧
    (post r s).map = s.map ∧
    (post r s).stray = s.stray ∧
    (post r s).ing = s.ing := by
  simp [post]

/-- Rewriting a sweep record changes the sequencer alone. -/
@[simp] theorem State.updateSweep_frame (id : Nat) (f : Sweep → Sweep) (s : State) :
    (State.updateSweep s id f).pending = s.pending ∧
    (State.updateSweep s id f).draws = s.draws ∧
    (State.updateSweep s id f).inReset = s.inReset ∧
    (State.updateSweep s id f).time = s.time ∧
    (State.updateSweep s id f).msg = s.msg ∧
    (State.updateSweep s id f).win = s.win ∧
    (State.updateSweep s id f).plan = s.plan ∧
    (State.updateSweep s id f).legs = s.legs ∧
    (State.updateSweep s id f).probe = s.probe ∧
    (State.updateSweep s id f).cap = s.cap ∧
    (State.updateSweep s id f).cor = s.cor ∧
    (State.updateSweep s id f).prof = s.prof ∧
    (State.updateSweep s id f).div = s.div ∧
    (State.updateSweep s id f).arith = s.arith ∧
    (State.updateSweep s id f).map = s.map ∧
    (State.updateSweep s id f).stray = s.stray ∧
    (State.updateSweep s id f).ing = s.ing := by
  simp [State.updateSweep]

/-- Writing a leg record changes the leg controller alone. -/
@[simp] theorem State.setLeg_frame (g : LegId) (r : LegRecord) (s : State) :
    (State.setLeg s g r).pending = s.pending ∧
    (State.setLeg s g r).draws = s.draws ∧
    (State.setLeg s g r).inReset = s.inReset ∧
    (State.setLeg s g r).time = s.time ∧
    (State.setLeg s g r).msg = s.msg ∧
    (State.setLeg s g r).win = s.win ∧
    (State.setLeg s g r).plan = s.plan ∧
    (State.setLeg s g r).seq = s.seq ∧
    (State.setLeg s g r).probe = s.probe ∧
    (State.setLeg s g r).cap = s.cap ∧
    (State.setLeg s g r).cor = s.cor ∧
    (State.setLeg s g r).prof = s.prof ∧
    (State.setLeg s g r).div = s.div ∧
    (State.setLeg s g r).arith = s.arith ∧
    (State.setLeg s g r).map = s.map ∧
    (State.setLeg s g r).stray = s.stray ∧
    (State.setLeg s g r).ing = s.ing := by
  simp [State.setLeg]

/-- Writing a profile slot changes the profile store alone. -/
@[simp] theorem State.setSlot_frame (i : SlotId) (v : Slot) (s : State) :
    (State.setSlot s i v).pending = s.pending ∧
    (State.setSlot s i v).draws = s.draws ∧
    (State.setSlot s i v).inReset = s.inReset ∧
    (State.setSlot s i v).time = s.time ∧
    (State.setSlot s i v).msg = s.msg ∧
    (State.setSlot s i v).win = s.win ∧
    (State.setSlot s i v).plan = s.plan ∧
    (State.setSlot s i v).legs = s.legs ∧
    (State.setSlot s i v).seq = s.seq ∧
    (State.setSlot s i v).probe = s.probe ∧
    (State.setSlot s i v).cap = s.cap ∧
    (State.setSlot s i v).cor = s.cor ∧
    (State.setSlot s i v).div = s.div ∧
    (State.setSlot s i v).arith = s.arith ∧
    (State.setSlot s i v).map = s.map ∧
    (State.setSlot s i v).stray = s.stray ∧
    (State.setSlot s i v).ing = s.ing := by
  simp [State.setSlot]

/-- Writing the lag slot changes the profile store alone. -/
@[simp] theorem State.setLag_frame (v : LagSlot) (s : State) :
    (State.setLag s v).pending = s.pending ∧
    (State.setLag s v).draws = s.draws ∧
    (State.setLag s v).inReset = s.inReset ∧
    (State.setLag s v).time = s.time ∧
    (State.setLag s v).msg = s.msg ∧
    (State.setLag s v).win = s.win ∧
    (State.setLag s v).plan = s.plan ∧
    (State.setLag s v).legs = s.legs ∧
    (State.setLag s v).seq = s.seq ∧
    (State.setLag s v).probe = s.probe ∧
    (State.setLag s v).cap = s.cap ∧
    (State.setLag s v).cor = s.cor ∧
    (State.setLag s v).div = s.div ∧
    (State.setLag s v).arith = s.arith ∧
    (State.setLag s v).map = s.map ∧
    (State.setLag s v).stray = s.stray ∧
    (State.setLag s v).ing = s.ing := by
  simp [State.setLag]

/-- Writing a leg of the monitor changes the monitor alone. -/
@[simp] theorem State.setIngLeg_frame (g : LegId) (v : IngressLeg) (s : State) :
    (State.setIngLeg s g v).pending = s.pending ∧
    (State.setIngLeg s g v).draws = s.draws ∧
    (State.setIngLeg s g v).inReset = s.inReset ∧
    (State.setIngLeg s g v).time = s.time ∧
    (State.setIngLeg s g v).msg = s.msg ∧
    (State.setIngLeg s g v).win = s.win ∧
    (State.setIngLeg s g v).plan = s.plan ∧
    (State.setIngLeg s g v).legs = s.legs ∧
    (State.setIngLeg s g v).seq = s.seq ∧
    (State.setIngLeg s g v).probe = s.probe ∧
    (State.setIngLeg s g v).cap = s.cap ∧
    (State.setIngLeg s g v).cor = s.cor ∧
    (State.setIngLeg s g v).prof = s.prof ∧
    (State.setIngLeg s g v).div = s.div ∧
    (State.setIngLeg s g v).arith = s.arith ∧
    (State.setIngLeg s g v).map = s.map ∧
    (State.setIngLeg s g v).stray = s.stray := by
  simp [State.setIngLeg]

/-- Writing an element list changes the span map alone. -/
@[simp] theorem State.setElements_frame (g : LegId) (es : List Element) (s : State) :
    (State.setElements s g es).pending = s.pending ∧
    (State.setElements s g es).draws = s.draws ∧
    (State.setElements s g es).inReset = s.inReset ∧
    (State.setElements s g es).time = s.time ∧
    (State.setElements s g es).msg = s.msg ∧
    (State.setElements s g es).win = s.win ∧
    (State.setElements s g es).plan = s.plan ∧
    (State.setElements s g es).legs = s.legs ∧
    (State.setElements s g es).seq = s.seq ∧
    (State.setElements s g es).probe = s.probe ∧
    (State.setElements s g es).cap = s.cap ∧
    (State.setElements s g es).cor = s.cor ∧
    (State.setElements s g es).prof = s.prof ∧
    (State.setElements s g es).div = s.div ∧
    (State.setElements s g es).arith = s.arith ∧
    (State.setElements s g es).stray = s.stray ∧
    (State.setElements s g es).ing = s.ing := by
  simp [State.setElements]

/-- What every action of the blocks keeps, their free interleaving keeps (log 7): `P` must not read the free-order counter. -/
theorem interleave_keeps {P : State → Prop} (hd : ∀ s n, P s → P (s.setDraws n)) :
    ∀ (n : Nat) (blocks : List (List (State → State))) (s : State),
      (∀ b ∈ blocks, ∀ f ∈ b, ∀ t, P t → P (f t)) → P s → P (interleave n blocks s)
  | 0, _, _, _, h => h
  | n + 1, blocks, s, hf, h => by
    unfold interleave
    split
    · exact h
    · rename_i b hb
      have hb' : b ∈ blocks := List.mem_of_mem_filter (hb ▸ List.mem_singleton.2 rfl)
      have hfold : ∀ (l : List (State → State)) (t : State), (∀ f ∈ l, ∀ u, P u → P (f u)) → P t →
          P (l.foldl (fun t f => f t) t) := by
        intro l
        induction l with
        | nil => intro t _ ht; exact ht
        | cons f l ih =>
          intro t hl ht
          exact ih _ (fun g hg => hl g (List.mem_cons_of_mem _ hg)) (hl f List.mem_cons_self _ ht)
      exact hfold b s (hf b hb') h
    · rename_i blocks' hne1 hne2
      have hsub : ∀ b ∈ blocks.filter (fun b => !b.isEmpty), ∀ f ∈ b, ∀ t, P t → P (f t) :=
        fun b hb => hf b (List.mem_of_mem_filter hb)
      generalize hbs : blocks.filter (fun b => !b.isEmpty) = bs at hsub ⊢
      dsimp only
      split
      · exact h
      · rename_i f rest hrest
        have hmem : ∀ i, bs.getD i [] = f :: rest → f :: rest ∈ bs := by
          intro i hi
          rw [List.getD_eq_getElem?_getD] at hi
          cases hget : bs[i]? with
          | none => simp [hget] at hi
          | some b => simp only [hget, Option.getD_some] at hi; exact hi ▸ List.mem_of_getElem? hget
        have hfr := hsub _ (hmem _ hrest)
        refine interleave_keeps hd n _ _ ?_ (hfr f List.mem_cons_self _ (hd _ _ h))
        intro b hb g hg t ht
        rcases List.mem_or_eq_of_mem_set hb with hb | rfl
        · exact hsub b hb g hg t ht
        · exact hfr g (List.mem_cons_of_mem _ hg) t ht

/-- What every action of the blocks keeps, all of them together keep (log 7). -/
theorem together_keeps {P : State → Prop} (hd : ∀ s n, P s → P (s.setDraws n)) (blocks : List (List (State → State)))
    (s : State) (hf : ∀ b ∈ blocks, ∀ f ∈ b, ∀ t, P t → P (f t)) (h : P s) : P (together blocks s) :=
  interleave_keeps hd _ blocks s hf h

/-- A part held in reset keeps its state, whatever the command's own effect. -/
theorem live_inReset (s t : State) (h : s.inReset = true) : s.live t = .next s := by simp [State.live, h]

/-- A running part takes the command's effect. -/
theorem live_running (s t : State) (h : s.inReset = false) : s.live t = .next t := by simp [State.live, h]

end Sys2Proof.Machine
end

