-- ==== Sys2Proof/Laws/Capture.lean ====
section
/-! SUPPORT. What the operations of the capture path leave unchanged. -/

namespace Sys2Proof.Machine

open Sys2Proof

/-- Telling samples changes the capture unit alone. -/
@[simp] theorem State.told_frame (xs : List Sample) (s : State) :
    (s.told xs).pending = s.pending ∧ (s.told xs).draws = s.draws ∧ (s.told xs).inReset = s.inReset ∧
    (s.told xs).time = s.time ∧ (s.told xs).msg = s.msg ∧ (s.told xs).win = s.win ∧ (s.told xs).plan = s.plan ∧
    (s.told xs).legs = s.legs ∧ (s.told xs).seq = s.seq ∧ (s.told xs).probe = s.probe ∧
    (s.told xs).cap = s.cap.tell xs ∧ (s.told xs).cor = s.cor ∧ (s.told xs).prof = s.prof ∧ (s.told xs).div = s.div ∧
    (s.told xs).arith = s.arith ∧ (s.told xs).map = s.map ∧ (s.told xs).stray = s.stray ∧ (s.told xs).ing = s.ing := by
  simp [State.told]

/-- Freeing a half changes the capture unit alone. -/
@[simp] theorem releaseHalf_frame (h : HalfId) (s : State) :
    (releaseHalf h s).pending = s.pending ∧
    (releaseHalf h s).draws = s.draws ∧
    (releaseHalf h s).inReset = s.inReset ∧
    (releaseHalf h s).time = s.time ∧
    (releaseHalf h s).msg = s.msg ∧
    (releaseHalf h s).win = s.win ∧
    (releaseHalf h s).plan = s.plan ∧
    (releaseHalf h s).legs = s.legs ∧
    (releaseHalf h s).seq = s.seq ∧
    (releaseHalf h s).probe = s.probe ∧
    (releaseHalf h s).cor = s.cor ∧
    (releaseHalf h s).prof = s.prof ∧
    (releaseHalf h s).div = s.div ∧
    (releaseHalf h s).arith = s.arith ∧
    (releaseHalf h s).map = s.map ∧
    (releaseHalf h s).stray = s.stray ∧
    (releaseHalf h s).ing = s.ing := by
  simp [releaseHalf]

/-- Starting a job changes the capture unit and the correlator. -/
@[simp] theorem startJob_frame (h : HalfId) (s : State) :
    (startJob h s).pending = s.pending ∧
    (startJob h s).draws = s.draws ∧
    (startJob h s).inReset = s.inReset ∧
    (startJob h s).time = s.time ∧
    (startJob h s).msg = s.msg ∧
    (startJob h s).win = s.win ∧
    (startJob h s).plan = s.plan ∧
    (startJob h s).legs = s.legs ∧
    (startJob h s).seq = s.seq ∧
    (startJob h s).probe = s.probe ∧
    (startJob h s).prof = s.prof ∧
    (startJob h s).div = s.div ∧
    (startJob h s).arith = s.arith ∧
    (startJob h s).map = s.map ∧
    (startJob h s).stray = s.stray ∧
    (startJob h s).ing = s.ing := by
  simp [startJob]

/-- The takes of halves change the capture unit, the correlator and the lag slot. -/
@[simp] theorem takeHalves_frame (n : Nat) (s : State) :
    (takeHalves n s).pending = s.pending ∧
    (takeHalves n s).draws = s.draws ∧
    (takeHalves n s).inReset = s.inReset ∧
    (takeHalves n s).time = s.time ∧
    (takeHalves n s).msg = s.msg ∧
    (takeHalves n s).win = s.win ∧
    (takeHalves n s).plan = s.plan ∧
    (takeHalves n s).legs = s.legs ∧
    (takeHalves n s).seq = s.seq ∧
    (takeHalves n s).probe = s.probe ∧
    (takeHalves n s).div = s.div ∧
    (takeHalves n s).arith = s.arith ∧
    (takeHalves n s).map = s.map ∧
    (takeHalves n s).stray = s.stray ∧
    (takeHalves n s).ing = s.ing := by
  induction n generalizing s with
  | zero => simp [takeHalves]
  | succ n ih =>
    unfold takeHalves
    split
    · dsimp only
      split
      · simp only [ih, releaseHalf_frame, and_self]
      · split <;> simp
    · simp

/-- The correlator's take changes the capture unit, the correlator and the lag slot. -/
@[simp] theorem correlatorTake_frame  (s : State) :
    (correlatorTake s).pending = s.pending ∧
    (correlatorTake s).draws = s.draws ∧
    (correlatorTake s).inReset = s.inReset ∧
    (correlatorTake s).time = s.time ∧
    (correlatorTake s).msg = s.msg ∧
    (correlatorTake s).win = s.win ∧
    (correlatorTake s).plan = s.plan ∧
    (correlatorTake s).legs = s.legs ∧
    (correlatorTake s).seq = s.seq ∧
    (correlatorTake s).probe = s.probe ∧
    (correlatorTake s).div = s.div ∧
    (correlatorTake s).arith = s.arith ∧
    (correlatorTake s).map = s.map ∧
    (correlatorTake s).stray = s.stray ∧
    (correlatorTake s).ing = s.ing := by
  simp [correlatorTake]

/-- Counting an acquisition changes the window table alone. -/
@[simp] theorem countAcquisition_frame  (s : State) :
    (countAcquisition s).pending = s.pending ∧
    (countAcquisition s).draws = s.draws ∧
    (countAcquisition s).inReset = s.inReset ∧
    (countAcquisition s).time = s.time ∧
    (countAcquisition s).msg = s.msg ∧
    (countAcquisition s).plan = s.plan ∧
    (countAcquisition s).legs = s.legs ∧
    (countAcquisition s).seq = s.seq ∧
    (countAcquisition s).probe = s.probe ∧
    (countAcquisition s).cap = s.cap ∧
    (countAcquisition s).cor = s.cor ∧
    (countAcquisition s).prof = s.prof ∧
    (countAcquisition s).div = s.div ∧
    (countAcquisition s).arith = s.arith ∧
    (countAcquisition s).map = s.map ∧
    (countAcquisition s).stray = s.stray ∧
    (countAcquisition s).ing = s.ing := by
  simp [countAcquisition]

/-- The blocks that the start of an acquisition leaves alone. -/
@[simp] theorem startAcquisition_frame (h : HalfId) (w : Sweep) (s : State) :
    (startAcquisition h w s).pending = s.pending ∧
    (startAcquisition h w s).draws = s.draws ∧
    (startAcquisition h w s).inReset = s.inReset ∧
    (startAcquisition h w s).time = s.time ∧
    (startAcquisition h w s).msg = s.msg ∧
    (startAcquisition h w s).plan = s.plan ∧
    (startAcquisition h w s).legs = s.legs ∧
    (startAcquisition h w s).cor = s.cor ∧
    (startAcquisition h w s).div = s.div ∧
    (startAcquisition h w s).arith = s.arith ∧
    (startAcquisition h w s).map = s.map ∧
    (startAcquisition h w s).stray = s.stray := by
  unfold startAcquisition; dsimp only; split <;> simp

/-- The start of a snapshot changes the capture unit and the synthesiser. -/
@[simp] theorem startSnapshot_frame (h : HalfId) (g : LegId) (s : State) :
    (startSnapshot h g s).pending = s.pending ∧
    (startSnapshot h g s).draws = s.draws ∧
    (startSnapshot h g s).inReset = s.inReset ∧
    (startSnapshot h g s).time = s.time ∧
    (startSnapshot h g s).msg = s.msg ∧
    (startSnapshot h g s).win = s.win ∧
    (startSnapshot h g s).plan = s.plan ∧
    (startSnapshot h g s).legs = s.legs ∧
    (startSnapshot h g s).seq = s.seq ∧
    (startSnapshot h g s).cor = s.cor ∧
    (startSnapshot h g s).prof = s.prof ∧
    (startSnapshot h g s).div = s.div ∧
    (startSnapshot h g s).arith = s.arith ∧
    (startSnapshot h g s).map = s.map ∧
    (startSnapshot h g s).stray = s.stray ∧
    (startSnapshot h g s).ing = s.ing := by
  simp [startSnapshot]

/-- The blocks that the choice and the grant leave alone. -/
@[simp] theorem choose_frame  (s : State) :
    (choose s).pending = s.pending ∧
    (choose s).draws = s.draws ∧
    (choose s).inReset = s.inReset ∧
    (choose s).time = s.time ∧
    (choose s).msg = s.msg ∧
    (choose s).plan = s.plan ∧
    (choose s).legs = s.legs ∧
    (choose s).cor = s.cor ∧
    (choose s).div = s.div ∧
    (choose s).arith = s.arith ∧
    (choose s).map = s.map ∧
    (choose s).stray = s.stray := by
  unfold choose; (repeat' split) <;> simp

/-- Judging the gate changes the probe generator alone. -/
@[simp] theorem judgeGate_frame  (s : State) :
    (judgeGate s).pending = s.pending ∧
    (judgeGate s).draws = s.draws ∧
    (judgeGate s).inReset = s.inReset ∧
    (judgeGate s).time = s.time ∧
    (judgeGate s).msg = s.msg ∧
    (judgeGate s).win = s.win ∧
    (judgeGate s).plan = s.plan ∧
    (judgeGate s).legs = s.legs ∧
    (judgeGate s).seq = s.seq ∧
    (judgeGate s).cap = s.cap ∧
    (judgeGate s).cor = s.cor ∧
    (judgeGate s).prof = s.prof ∧
    (judgeGate s).div = s.div ∧
    (judgeGate s).arith = s.arith ∧
    (judgeGate s).map = s.map ∧
    (judgeGate s).stray = s.stray ∧
    (judgeGate s).ing = s.ing := by
  unfold judgeGate; (repeat' split) <;> simp

/-- The probe going IDLE changes the probe generator alone. -/
@[simp] theorem probeIdle_frame  (s : State) :
    (probeIdle s).pending = s.pending ∧
    (probeIdle s).draws = s.draws ∧
    (probeIdle s).inReset = s.inReset ∧
    (probeIdle s).time = s.time ∧
    (probeIdle s).msg = s.msg ∧
    (probeIdle s).win = s.win ∧
    (probeIdle s).plan = s.plan ∧
    (probeIdle s).legs = s.legs ∧
    (probeIdle s).seq = s.seq ∧
    (probeIdle s).cap = s.cap ∧
    (probeIdle s).cor = s.cor ∧
    (probeIdle s).prof = s.prof ∧
    (probeIdle s).div = s.div ∧
    (probeIdle s).arith = s.arith ∧
    (probeIdle s).map = s.map ∧
    (probeIdle s).stray = s.stray ∧
    (probeIdle s).ing = s.ing := by
  simp [probeIdle]

/-- The blocks that an abandonment leaves alone. -/
@[simp] theorem abandon_frame  (s : State) :
    (abandon s).pending = s.pending ∧
    (abandon s).draws = s.draws ∧
    (abandon s).inReset = s.inReset ∧
    (abandon s).time = s.time ∧
    (abandon s).msg = s.msg ∧
    (abandon s).win = s.win ∧
    (abandon s).plan = s.plan ∧
    (abandon s).legs = s.legs ∧
    (abandon s).div = s.div ∧
    (abandon s).arith = s.arith ∧
    (abandon s).map = s.map ∧
    (abandon s).stray = s.stray ∧
    (abandon s).ing = s.ing := by
  unfold abandon; (repeat' split) <;> simp

/-- The blocks that judging a revocation leaves alone. -/
@[simp] theorem judgeRevoked_frame (id : Nat) (s : State) :
    (judgeRevoked id s).pending = s.pending ∧
    (judgeRevoked id s).draws = s.draws ∧
    (judgeRevoked id s).inReset = s.inReset ∧
    (judgeRevoked id s).time = s.time ∧
    (judgeRevoked id s).msg = s.msg ∧
    (judgeRevoked id s).win = s.win ∧
    (judgeRevoked id s).plan = s.plan ∧
    (judgeRevoked id s).legs = s.legs ∧
    (judgeRevoked id s).div = s.div ∧
    (judgeRevoked id s).arith = s.arith ∧
    (judgeRevoked id s).map = s.map ∧
    (judgeRevoked id s).stray = s.stray ∧
    (judgeRevoked id s).ing = s.ing := by
  unfold judgeRevoked; (repeat' split) <;> simp

/-- The blocks that judging a CLASS_SET leaves alone. -/
@[simp] theorem judgeClasses_frame  (s : State) :
    (judgeClasses s).pending = s.pending ∧
    (judgeClasses s).draws = s.draws ∧
    (judgeClasses s).inReset = s.inReset ∧
    (judgeClasses s).time = s.time ∧
    (judgeClasses s).msg = s.msg ∧
    (judgeClasses s).win = s.win ∧
    (judgeClasses s).plan = s.plan ∧
    (judgeClasses s).legs = s.legs ∧
    (judgeClasses s).div = s.div ∧
    (judgeClasses s).arith = s.arith ∧
    (judgeClasses s).map = s.map ∧
    (judgeClasses s).stray = s.stray ∧
    (judgeClasses s).ing = s.ing := by
  unfold judgeClasses; (repeat' split) <;> simp

/-- The blocks that stopping a snapshot leaves alone. -/
@[simp] theorem stopSnapshot_frame  (s : State) :
    (stopSnapshot s).pending = s.pending ∧
    (stopSnapshot s).draws = s.draws ∧
    (stopSnapshot s).inReset = s.inReset ∧
    (stopSnapshot s).time = s.time ∧
    (stopSnapshot s).msg = s.msg ∧
    (stopSnapshot s).win = s.win ∧
    (stopSnapshot s).plan = s.plan ∧
    (stopSnapshot s).legs = s.legs ∧
    (stopSnapshot s).seq = s.seq ∧
    (stopSnapshot s).probe = s.probe ∧
    (stopSnapshot s).div = s.div ∧
    (stopSnapshot s).arith = s.arith ∧
    (stopSnapshot s).map = s.map ∧
    (stopSnapshot s).stray = s.stray ∧
    (stopSnapshot s).ing = s.ing := by
  simp [stopSnapshot]

end Sys2Proof.Machine
end

