-- ==== Sys2Proof/Laws/Divider.lean ====
section
/-! SUPPORT. What the divider's queue operations do, said once: what they leave alone, and the bounds they keep (R110, R111). -/

namespace Sys2Proof.Machine

open Sys2Proof

/-- A batch has one job for each of its members (R108). -/
@[simp] theorem batchJobs_length (b : Nat) (js : List (JobOwner × Nat × Nat × Bool)) :
    (batchJobs b js).length = js.length := by
  induction js with
  | nil => rfl
  | cons j js ih => obtain ⟨o, d, v, r⟩ := j; simp [batchJobs, ih]

/-- Entering from the waiting list keeps the running job and the batch counter, adds whole batches from its head, and stops at
a full queue (R110). -/
theorem Divider.enter_cases (n : Nat) (d : Divider) :
    ∃ k ≤ d.waiting.length, Divider.enter n d =
        { d with queue := d.queue ++ (d.waiting.take k).flatten, waiting := d.waiting.drop k } ∧
      (d.queue.length ≤ 64 → (Divider.enter n d).queue.length ≤ 64) := by
  induction n generalizing d with
  | zero => exact ⟨0, Nat.zero_le _, by simp [Divider.enter], by simp [Divider.enter]⟩
  | succ n ih =>
    cases hw : d.waiting with
    | nil =>
      have he : Divider.enter (n + 1) d = d := by simp [Divider.enter, hw]
      exact ⟨0, Nat.zero_le _, by rw [he, ← hw]; simp, by simp [he]⟩
    | cons b rest =>
      by_cases hb : d.queue.length + b.length ≤ 64
      · obtain ⟨k, hk, he, hl⟩ := ih { d with queue := d.queue ++ b, waiting := rest }
        refine ⟨k + 1, by simpa using hk, ?_, ?_⟩
        · simp only [Divider.enter, hw, hb, ↓reduceIte, he]
          simp
        · intro _
          simp only [Divider.enter, hw, hb, ↓reduceIte]
          exact hl (by simpa using hb)
      · have he : Divider.enter (n + 1) d = d := by simp [Divider.enter, hw, hb]
        exact ⟨0, Nat.zero_le _, by rw [he, ← hw]; simp, by simp [he]⟩

/-- Admitting batches keeps the running job and the batch counter. -/
@[simp] theorem Divider.letIn_running (d : Divider) : d.letIn.running = d.running ∧ d.letIn.batches = d.batches := by
  obtain ⟨k, -, h, -⟩ := d.enter_cases d.waiting.length
  simp [Divider.letIn, h]

/-- Admitting batches never overfills the queue (R110). -/
theorem Divider.letIn_length {d : Divider} (h : d.queue.length ≤ 64) : d.letIn.queue.length ≤ 64 := by
  obtain ⟨k, -, -, hl⟩ := d.enter_cases d.waiting.length
  exact hl h

/-- Starting: the idle divider takes the head of its queue, otherwise nothing changes (R111). -/
theorem Divider.start_cases (clock : Nat) (d : Divider) :
    (∃ j rest, d.running = none ∧ d.queue = j :: rest ∧
      d.start clock = { d with queue := rest, running := some ⟨j, clock⟩ }) ∨
    ((d.running ≠ none ∨ d.queue = []) ∧ d.start clock = d) := by
  unfold Divider.start
  cases hr : d.running with
  | some r => exact .inr ⟨.inl nofun, by simp⟩
  | none =>
    cases hq : d.queue with
    | nil => exact .inr ⟨.inr rfl, by simp⟩
    | cons j rest => exact .inl ⟨j, rest, rfl, rfl, rfl⟩

/-- The divider's turn at an instant never overfills its queue (R110, R111). -/
theorem Divider.pump_length (clock : Nat) {d : Divider} (h : d.queue.length ≤ 64) : (d.pump clock).queue.length ≤ 64 := by
  refine Divider.letIn_length ?_
  have h1 := Divider.letIn_length h
  obtain ⟨j, rest, -, hq, he⟩ | ⟨-, he⟩ := d.letIn.start_cases clock
  · rw [he]; rw [hq] at h1; simp at h1 ⊢; omega
  · rwa [he]

/-- A running job stays through the divider's turn. -/
theorem Divider.pump_busy (clock : Nat) {d : Divider} {r : Running} (h : d.running = some r) :
    (d.pump clock).running = some r := by
  have h1 : d.letIn.running = some r := by simp [h]
  obtain ⟨j, rest, hn, -, -⟩ | ⟨-, he⟩ := d.letIn.start_cases clock
  · rw [h1] at hn; cases hn
  · simp [Divider.pump, he, h]

end Sys2Proof.Machine
end

