-- ==== Sys2Proof/Laws/Sweeps.lean ====
section
/-! SUPPORT. What the operations of the sequencer leave unchanged. -/

namespace Sys2Proof.Machine

open Sys2Proof

/-- Handing over a batch changes the divider alone. -/
@[simp] theorem handBatch_frame (jobs : List (JobOwner × Nat × Nat × Bool)) (s : State) :
    (handBatch jobs s).pending = s.pending ∧
    (handBatch jobs s).draws = s.draws ∧
    (handBatch jobs s).inReset = s.inReset ∧
    (handBatch jobs s).time = s.time ∧
    (handBatch jobs s).msg = s.msg ∧
    (handBatch jobs s).win = s.win ∧
    (handBatch jobs s).plan = s.plan ∧
    (handBatch jobs s).legs = s.legs ∧
    (handBatch jobs s).seq = s.seq ∧
    (handBatch jobs s).probe = s.probe ∧
    (handBatch jobs s).cap = s.cap ∧
    (handBatch jobs s).cor = s.cor ∧
    (handBatch jobs s).prof = s.prof ∧
    (handBatch jobs s).arith = s.arith ∧
    (handBatch jobs s).map = s.map ∧
    (handBatch jobs s).stray = s.stray ∧
    (handBatch jobs s).ing = s.ing := by
  simp [handBatch]

/-- The blocks that dropping a record leaves alone. -/
@[simp] theorem dropSweep_frame (id : Nat) (s : State) :
    (dropSweep id s).pending = s.pending ∧
    (dropSweep id s).draws = s.draws ∧
    (dropSweep id s).inReset = s.inReset ∧
    (dropSweep id s).time = s.time ∧
    (dropSweep id s).msg = s.msg ∧
    (dropSweep id s).win = s.win ∧
    (dropSweep id s).plan = s.plan ∧
    (dropSweep id s).legs = s.legs ∧
    (dropSweep id s).div = s.div ∧
    (dropSweep id s).arith = s.arith ∧
    (dropSweep id s).map = s.map ∧
    (dropSweep id s).stray = s.stray ∧
    (dropSweep id s).ing = s.ing := by
  unfold dropSweep; (repeat' split) <;> simp

/-- The blocks that the end of a sweep leaves alone. -/
@[simp] theorem endSweep_frame (id : Nat) (o : SweepOutcome) (m n : Nat) (s : State) :
    (endSweep id o m n s).pending = s.pending ∧
    (endSweep id o m n s).draws = s.draws ∧
    (endSweep id o m n s).inReset = s.inReset ∧
    (endSweep id o m n s).time = s.time ∧
    (endSweep id o m n s).plan = s.plan ∧
    (endSweep id o m n s).legs = s.legs ∧
    (endSweep id o m n s).arith = s.arith ∧
    (endSweep id o m n s).map = s.map ∧
    (endSweep id o m n s).stray = s.stray := by
  unfold endSweep; split
  · simp
  · dsimp only; split <;> simp

/-- The blocks that the end of several sweeps leaves alone. -/
@[simp] theorem endSweeps_frame (o : SweepOutcome) (ids : List Nat) (s : State) :
    (endSweeps o ids s).pending = s.pending ∧
    (endSweeps o ids s).draws = s.draws ∧
    (endSweeps o ids s).inReset = s.inReset ∧
    (endSweeps o ids s).time = s.time ∧
    (endSweeps o ids s).plan = s.plan ∧
    (endSweeps o ids s).legs = s.legs ∧
    (endSweeps o ids s).arith = s.arith ∧
    (endSweeps o ids s).map = s.map ∧
    (endSweeps o ids s).stray = s.stray := by
  unfold endSweeps
  induction ids generalizing s with
  | nil => simp
  | cons i ids ih => simp only [List.foldl_cons, ih, endSweep_frame, and_self]

/-- Probe-level control changes the leg controller alone. -/
@[simp] theorem levelClipped_frame (g : LegId) (s : State) :
    (levelClipped g s).pending = s.pending ∧
    (levelClipped g s).draws = s.draws ∧
    (levelClipped g s).inReset = s.inReset ∧
    (levelClipped g s).time = s.time ∧
    (levelClipped g s).msg = s.msg ∧
    (levelClipped g s).win = s.win ∧
    (levelClipped g s).plan = s.plan ∧
    (levelClipped g s).seq = s.seq ∧
    (levelClipped g s).probe = s.probe ∧
    (levelClipped g s).cap = s.cap ∧
    (levelClipped g s).cor = s.cor ∧
    (levelClipped g s).prof = s.prof ∧
    (levelClipped g s).div = s.div ∧
    (levelClipped g s).arith = s.arith ∧
    (levelClipped g s).map = s.map ∧
    (levelClipped g s).stray = s.stray ∧
    (levelClipped g s).ing = s.ing := by
  simp [levelClipped]

/-- Probe-level control changes the leg controller alone. -/
@[simp] theorem levelDone_frame (g : LegId) (m : AnchorMatch) (u : Nat) (s : State) :
    (levelDone g m u s).pending = s.pending ∧
    (levelDone g m u s).draws = s.draws ∧
    (levelDone g m u s).inReset = s.inReset ∧
    (levelDone g m u s).time = s.time ∧
    (levelDone g m u s).msg = s.msg ∧
    (levelDone g m u s).win = s.win ∧
    (levelDone g m u s).plan = s.plan ∧
    (levelDone g m u s).seq = s.seq ∧
    (levelDone g m u s).probe = s.probe ∧
    (levelDone g m u s).cap = s.cap ∧
    (levelDone g m u s).cor = s.cor ∧
    (levelDone g m u s).prof = s.prof ∧
    (levelDone g m u s).div = s.div ∧
    (levelDone g m u s).arith = s.arith ∧
    (levelDone g m u s).map = s.map ∧
    (levelDone g m u s).stray = s.stray ∧
    (levelDone g m u s).ing = s.ing := by
  simp [levelDone]

/-- The blocks that a leg fault leaves alone. -/
@[simp] theorem faultLeg_frame (g : LegId) (id : Nat) (s : State) :
    (faultLeg g id s).pending = s.pending ∧
    (faultLeg g id s).draws = s.draws ∧
    (faultLeg g id s).inReset = s.inReset ∧
    (faultLeg g id s).time = s.time ∧
    (faultLeg g id s).plan = s.plan ∧
    (faultLeg g id s).arith = s.arith ∧
    (faultLeg g id s).map = s.map ∧
    (faultLeg g id s).stray = s.stray := by
  simp [faultLeg]

end Sys2Proof.Machine
end

