-- ==== Sys2Proof/Laws/Ingress.lean ====
section
/-! SUPPORT. What the operations of the ingress monitor leave unchanged. -/

namespace Sys2Proof.Machine

open Sys2Proof

/-- Logging a record changes the monitor alone. -/
@[simp] theorem logRecord_frame (r : BurstRecord) (s : State) :
    (logRecord r s).pending = s.pending ∧
    (logRecord r s).draws = s.draws ∧
    (logRecord r s).inReset = s.inReset ∧
    (logRecord r s).time = s.time ∧
    (logRecord r s).msg = s.msg ∧
    (logRecord r s).win = s.win ∧
    (logRecord r s).plan = s.plan ∧
    (logRecord r s).legs = s.legs ∧
    (logRecord r s).seq = s.seq ∧
    (logRecord r s).probe = s.probe ∧
    (logRecord r s).cap = s.cap ∧
    (logRecord r s).cor = s.cor ∧
    (logRecord r s).prof = s.prof ∧
    (logRecord r s).div = s.div ∧
    (logRecord r s).arith = s.arith ∧
    (logRecord r s).map = s.map ∧
    (logRecord r s).stray = s.stray := by
  unfold logRecord; (repeat' split) <;> simp

/-- Updating the log changes the monitor alone. -/
@[simp] theorem updateLog_frame (n : Nat) (r : BurstRecord) (s : State) :
    (updateLog n r s).pending = s.pending ∧
    (updateLog n r s).draws = s.draws ∧
    (updateLog n r s).inReset = s.inReset ∧
    (updateLog n r s).time = s.time ∧
    (updateLog n r s).msg = s.msg ∧
    (updateLog n r s).win = s.win ∧
    (updateLog n r s).plan = s.plan ∧
    (updateLog n r s).legs = s.legs ∧
    (updateLog n r s).seq = s.seq ∧
    (updateLog n r s).probe = s.probe ∧
    (updateLog n r s).cap = s.cap ∧
    (updateLog n r s).cor = s.cor ∧
    (updateLog n r s).prof = s.prof ∧
    (updateLog n r s).div = s.div ∧
    (updateLog n r s).arith = s.arith ∧
    (updateLog n r s).map = s.map ∧
    (updateLog n r s).stray = s.stray := by
  simp [updateLog]

/-- The blocks that the settling of a pairing leaves alone. -/
@[simp] theorem settlePairing_frame (o : PairingOutcome) (e p i : Option Nat) (s : State) :
    (settlePairing o e p i s).pending = s.pending ∧
    (settlePairing o e p i s).draws = s.draws ∧
    (settlePairing o e p i s).inReset = s.inReset ∧
    (settlePairing o e p i s).time = s.time ∧
    (settlePairing o e p i s).win = s.win ∧
    (settlePairing o e p i s).plan = s.plan ∧
    (settlePairing o e p i s).legs = s.legs ∧
    (settlePairing o e p i s).seq = s.seq ∧
    (settlePairing o e p i s).probe = s.probe ∧
    (settlePairing o e p i s).cap = s.cap ∧
    (settlePairing o e p i s).cor = s.cor ∧
    (settlePairing o e p i s).div = s.div ∧
    (settlePairing o e p i s).arith = s.arith ∧
    (settlePairing o e p i s).map = s.map ∧
    (settlePairing o e p i s).stray = s.stray := by
  unfold settlePairing; split
  · simp
  · dsimp only; split <;> simp

/-- The blocks that a withdrawal leaves alone. -/
@[simp] theorem withdrawAtClose_frame (g : LegId) (s : State) :
    (withdrawAtClose g s).pending = s.pending ∧
    (withdrawAtClose g s).draws = s.draws ∧
    (withdrawAtClose g s).inReset = s.inReset ∧
    (withdrawAtClose g s).time = s.time ∧
    (withdrawAtClose g s).win = s.win ∧
    (withdrawAtClose g s).plan = s.plan ∧
    (withdrawAtClose g s).legs = s.legs ∧
    (withdrawAtClose g s).seq = s.seq ∧
    (withdrawAtClose g s).probe = s.probe ∧
    (withdrawAtClose g s).cor = s.cor ∧
    (withdrawAtClose g s).div = s.div ∧
    (withdrawAtClose g s).arith = s.arith ∧
    (withdrawAtClose g s).map = s.map ∧
    (withdrawAtClose g s).stray = s.stray := by
  unfold withdrawAtClose; (repeat' split) <;> simp

/-- The blocks that filing a record leaves alone. -/
@[simp] theorem fileRecord_frame (g : LegId) (l c : Bool) (e : Nat) (s : State) :
    (fileRecord g l c e s).pending = s.pending ∧
    (fileRecord g l c e s).draws = s.draws ∧
    (fileRecord g l c e s).inReset = s.inReset ∧
    (fileRecord g l c e s).time = s.time ∧
    (fileRecord g l c e s).win = s.win ∧
    (fileRecord g l c e s).plan = s.plan ∧
    (fileRecord g l c e s).legs = s.legs ∧
    (fileRecord g l c e s).seq = s.seq ∧
    (fileRecord g l c e s).probe = s.probe ∧
    (fileRecord g l c e s).cap = s.cap ∧
    (fileRecord g l c e s).cor = s.cor ∧
    (fileRecord g l c e s).prof = s.prof ∧
    (fileRecord g l c e s).div = s.div ∧
    (fileRecord g l c e s).arith = s.arith ∧
    (fileRecord g l c e s).map = s.map ∧
    (fileRecord g l c e s).stray = s.stray := by
  unfold fileRecord; split
  · simp
  · dsimp only; split <;> simp

/-- The blocks that closing a record leaves alone. -/
@[simp] theorem closeRecord_frame (g : LegId) (l c : Bool) (e : Nat) (s : State) :
    (closeRecord g l c e s).pending = s.pending ∧
    (closeRecord g l c e s).draws = s.draws ∧
    (closeRecord g l c e s).inReset = s.inReset ∧
    (closeRecord g l c e s).time = s.time ∧
    (closeRecord g l c e s).win = s.win ∧
    (closeRecord g l c e s).plan = s.plan ∧
    (closeRecord g l c e s).legs = s.legs ∧
    (closeRecord g l c e s).seq = s.seq ∧
    (closeRecord g l c e s).probe = s.probe ∧
    (closeRecord g l c e s).cor = s.cor ∧
    (closeRecord g l c e s).div = s.div ∧
    (closeRecord g l c e s).arith = s.arith ∧
    (closeRecord g l c e s).map = s.map ∧
    (closeRecord g l c e s).stray = s.stray := by
  simp [closeRecord]

/-- The blocks that closing a quiet record leaves alone. -/
@[simp] theorem closeIfQuiet_frame (g : LegId) (s : State) :
    (closeIfQuiet g s).pending = s.pending ∧
    (closeIfQuiet g s).draws = s.draws ∧
    (closeIfQuiet g s).inReset = s.inReset ∧
    (closeIfQuiet g s).time = s.time ∧
    (closeIfQuiet g s).win = s.win ∧
    (closeIfQuiet g s).plan = s.plan ∧
    (closeIfQuiet g s).legs = s.legs ∧
    (closeIfQuiet g s).seq = s.seq ∧
    (closeIfQuiet g s).probe = s.probe ∧
    (closeIfQuiet g s).cor = s.cor ∧
    (closeIfQuiet g s).div = s.div ∧
    (closeIfQuiet g s).arith = s.arith ∧
    (closeIfQuiet g s).map = s.map ∧
    (closeIfQuiet g s).stray = s.stray := by
  unfold closeIfQuiet; (repeat' split) <;> simp

/-- The blocks that forcing detectors leaves alone. -/
@[simp] theorem forceQuiet_frame (g : LegId) (s : State) :
    (forceQuiet g s).pending = s.pending ∧
    (forceQuiet g s).draws = s.draws ∧
    (forceQuiet g s).inReset = s.inReset ∧
    (forceQuiet g s).time = s.time ∧
    (forceQuiet g s).win = s.win ∧
    (forceQuiet g s).plan = s.plan ∧
    (forceQuiet g s).legs = s.legs ∧
    (forceQuiet g s).seq = s.seq ∧
    (forceQuiet g s).probe = s.probe ∧
    (forceQuiet g s).cor = s.cor ∧
    (forceQuiet g s).div = s.div ∧
    (forceQuiet g s).arith = s.arith ∧
    (forceQuiet g s).map = s.map ∧
    (forceQuiet g s).stray = s.stray := by
  simp [forceQuiet]

/-- The blocks that opening a record leaves alone. -/
@[simp] theorem openRecord_frame (g : LegId) (r : BurstRecord) (s : State) :
    (openRecord g r s).pending = s.pending ∧
    (openRecord g r s).draws = s.draws ∧
    (openRecord g r s).inReset = s.inReset ∧
    (openRecord g r s).time = s.time ∧
    (openRecord g r s).msg = s.msg ∧
    (openRecord g r s).plan = s.plan ∧
    (openRecord g r s).legs = s.legs ∧
    (openRecord g r s).cor = s.cor ∧
    (openRecord g r s).div = s.div ∧
    (openRecord g r s).arith = s.arith ∧
    (openRecord g r s).map = s.map ∧
    (openRecord g r s).stray = s.stray := by
  unfold openRecord; dsimp only; (repeat' split) <;> simp

/-- The blocks that the lag search leaves alone. -/
@[simp] theorem searchLag_frame (g : LegId) (s : State) :
    (searchLag g s).pending = s.pending ∧
    (searchLag g s).draws = s.draws ∧
    (searchLag g s).inReset = s.inReset ∧
    (searchLag g s).time = s.time ∧
    (searchLag g s).win = s.win ∧
    (searchLag g s).plan = s.plan ∧
    (searchLag g s).legs = s.legs ∧
    (searchLag g s).seq = s.seq ∧
    (searchLag g s).probe = s.probe ∧
    (searchLag g s).cap = s.cap ∧
    (searchLag g s).cor = s.cor ∧
    (searchLag g s).arith = s.arith ∧
    (searchLag g s).map = s.map ∧
    (searchLag g s).stray = s.stray := by
  unfold searchLag; dsimp only; split <;> simp

/-- Charging a score changes the span map alone. -/
@[simp] theorem chargeScore_frame (g : LegId) (id : Nat) (s : State) :
    (chargeScore g id s).pending = s.pending ∧
    (chargeScore g id s).draws = s.draws ∧
    (chargeScore g id s).inReset = s.inReset ∧
    (chargeScore g id s).time = s.time ∧
    (chargeScore g id s).msg = s.msg ∧
    (chargeScore g id s).win = s.win ∧
    (chargeScore g id s).plan = s.plan ∧
    (chargeScore g id s).legs = s.legs ∧
    (chargeScore g id s).seq = s.seq ∧
    (chargeScore g id s).probe = s.probe ∧
    (chargeScore g id s).cap = s.cap ∧
    (chargeScore g id s).cor = s.cor ∧
    (chargeScore g id s).prof = s.prof ∧
    (chargeScore g id s).div = s.div ∧
    (chargeScore g id s).arith = s.arith ∧
    (chargeScore g id s).stray = s.stray ∧
    (chargeScore g id s).ing = s.ing := by
  simp [chargeScore]

/-- The blocks that a pairing's result leaves alone. -/
@[simp] theorem pairingResult_frame (g : LegId) (q : Nat) (s : State) :
    (pairingResult g q s).pending = s.pending ∧
    (pairingResult g q s).draws = s.draws ∧
    (pairingResult g q s).inReset = s.inReset ∧
    (pairingResult g q s).time = s.time ∧
    (pairingResult g q s).win = s.win ∧
    (pairingResult g q s).plan = s.plan ∧
    (pairingResult g q s).legs = s.legs ∧
    (pairingResult g q s).seq = s.seq ∧
    (pairingResult g q s).probe = s.probe ∧
    (pairingResult g q s).cap = s.cap ∧
    (pairingResult g q s).cor = s.cor ∧
    (pairingResult g q s).div = s.div ∧
    (pairingResult g q s).arith = s.arith ∧
    (pairingResult g q s).stray = s.stray := by
  unfold pairingResult; (repeat' split) <;> (try dsimp only) <;> (repeat' split) <;> simp

/-- Withdrawing a snapshot changes the capture unit alone. -/
@[simp] theorem withdrawSnapshot_frame (g : LegId) (s : State) :
    (withdrawSnapshot g s).pending = s.pending ∧
    (withdrawSnapshot g s).draws = s.draws ∧
    (withdrawSnapshot g s).inReset = s.inReset ∧
    (withdrawSnapshot g s).time = s.time ∧
    (withdrawSnapshot g s).msg = s.msg ∧
    (withdrawSnapshot g s).win = s.win ∧
    (withdrawSnapshot g s).plan = s.plan ∧
    (withdrawSnapshot g s).legs = s.legs ∧
    (withdrawSnapshot g s).seq = s.seq ∧
    (withdrawSnapshot g s).probe = s.probe ∧
    (withdrawSnapshot g s).cor = s.cor ∧
    (withdrawSnapshot g s).prof = s.prof ∧
    (withdrawSnapshot g s).div = s.div ∧
    (withdrawSnapshot g s).arith = s.arith ∧
    (withdrawSnapshot g s).map = s.map ∧
    (withdrawSnapshot g s).stray = s.stray ∧
    (withdrawSnapshot g s).ing = s.ing := by
  simp [withdrawSnapshot]

/-- The blocks that cancelling a pairing leaves alone. -/
@[simp] theorem cancelPairing_frame (g : LegId) (s : State) :
    (cancelPairing g s).pending = s.pending ∧
    (cancelPairing g s).draws = s.draws ∧
    (cancelPairing g s).inReset = s.inReset ∧
    (cancelPairing g s).time = s.time ∧
    (cancelPairing g s).plan = s.plan ∧
    (cancelPairing g s).legs = s.legs ∧
    (cancelPairing g s).arith = s.arith ∧
    (cancelPairing g s).map = s.map ∧
    (cancelPairing g s).stray = s.stray := by
  unfold cancelPairing; split
  · simp
  · split
    · dsimp only; (repeat' split) <;> simp
    · simp

/-- The blocks that the monitor's part of LEG_DISABLE leaves alone. -/
@[simp] theorem disableIngress_frame (g : LegId) (s : State) :
    (disableIngress g s).pending = s.pending ∧
    (disableIngress g s).draws = s.draws ∧
    (disableIngress g s).inReset = s.inReset ∧
    (disableIngress g s).time = s.time ∧
    (disableIngress g s).plan = s.plan ∧
    (disableIngress g s).legs = s.legs ∧
    (disableIngress g s).arith = s.arith ∧
    (disableIngress g s).map = s.map ∧
    (disableIngress g s).stray = s.stray := by
  simp [disableIngress]

/-- The blocks that TIME_SET's cut of the records leaves alone. -/
@[simp] theorem cutRecords_frame  (s : State) :
    (cutRecords s).pending = s.pending ∧
    (cutRecords s).draws = s.draws ∧
    (cutRecords s).inReset = s.inReset ∧
    (cutRecords s).time = s.time ∧
    (cutRecords s).win = s.win ∧
    (cutRecords s).plan = s.plan ∧
    (cutRecords s).legs = s.legs ∧
    (cutRecords s).seq = s.seq ∧
    (cutRecords s).probe = s.probe ∧
    (cutRecords s).cor = s.cor ∧
    (cutRecords s).div = s.div ∧
    (cutRecords s).arith = s.arith ∧
    (cutRecords s).map = s.map ∧
    (cutRecords s).stray = s.stray := by
  simp [cutRecords, allLegs]

/-- The blocks that a scan's third step leaves alone. -/
@[simp] theorem scanRecord_frame (g : LegId) (v : List (Option Int)) (b : List Detector) (s : State) :
    (scanRecord g v b s).pending = s.pending ∧
    (scanRecord g v b s).draws = s.draws ∧
    (scanRecord g v b s).inReset = s.inReset ∧
    (scanRecord g v b s).time = s.time ∧
    (scanRecord g v b s).msg = s.msg ∧
    (scanRecord g v b s).plan = s.plan ∧
    (scanRecord g v b s).legs = s.legs ∧
    (scanRecord g v b s).cor = s.cor ∧
    (scanRecord g v b s).div = s.div ∧
    (scanRecord g v b s).arith = s.arith ∧
    (scanRecord g v b s).map = s.map ∧
    (scanRecord g v b s).stray = s.stray := by
  unfold scanRecord; dsimp only; (repeat' split) <;> simp

/-- The blocks that a scan's fourth step leaves alone. -/
@[simp] theorem scanClose_frame (g : LegId) (s : State) :
    (scanClose g s).pending = s.pending ∧
    (scanClose g s).draws = s.draws ∧
    (scanClose g s).inReset = s.inReset ∧
    (scanClose g s).time = s.time ∧
    (scanClose g s).win = s.win ∧
    (scanClose g s).plan = s.plan ∧
    (scanClose g s).legs = s.legs ∧
    (scanClose g s).seq = s.seq ∧
    (scanClose g s).probe = s.probe ∧
    (scanClose g s).cor = s.cor ∧
    (scanClose g s).div = s.div ∧
    (scanClose g s).arith = s.arith ∧
    (scanClose g s).map = s.map ∧
    (scanClose g s).stray = s.stray := by
  unfold scanClose; dsimp only; (repeat' split) <;> simp

/-- The blocks that a reading scan leaves alone. -/
@[simp] theorem readingScan_frame (g : LegId) (h : Bool) (l : List Int) (s : State) :
    (readingScan g h l s).pending = s.pending ∧
    (readingScan g h l s).draws = s.draws ∧
    (readingScan g h l s).inReset = s.inReset ∧
    (readingScan g h l s).time = s.time ∧
    (readingScan g h l s).plan = s.plan ∧
    (readingScan g h l s).legs = s.legs ∧
    (readingScan g h l s).cor = s.cor ∧
    (readingScan g h l s).div = s.div ∧
    (readingScan g h l s).arith = s.arith ∧
    (readingScan g h l s).map = s.map ∧
    (readingScan g h l s).stray = s.stray := by
  simp [readingScan]

end Sys2Proof.Machine
end

