-- ==== Sys2Proof/Laws/Reconcile.lean ====
section
/-! SUPPORT. What reconciliation, calibration, analysis and the jobs leave unchanged. -/

namespace Sys2Proof.Machine

open Sys2Proof

/-- Writing a calibration changes the span arithmetic alone. -/
@[simp] theorem setCal_frame (g : LegId) (c : Cal) (s : State) :
    (setCal g c s).pending = s.pending ∧
    (setCal g c s).draws = s.draws ∧
    (setCal g c s).inReset = s.inReset ∧
    (setCal g c s).time = s.time ∧
    (setCal g c s).msg = s.msg ∧
    (setCal g c s).win = s.win ∧
    (setCal g c s).plan = s.plan ∧
    (setCal g c s).legs = s.legs ∧
    (setCal g c s).seq = s.seq ∧
    (setCal g c s).probe = s.probe ∧
    (setCal g c s).cap = s.cap ∧
    (setCal g c s).cor = s.cor ∧
    (setCal g c s).prof = s.prof ∧
    (setCal g c s).div = s.div ∧
    (setCal g c s).map = s.map ∧
    (setCal g c s).stray = s.stray ∧
    (setCal g c s).ing = s.ing := by
  simp [setCal]

/-- Rewriting a slot's content changes the profile store alone. -/
@[simp] theorem mapContent_frame (i : SlotId) (f : SlotContent → SlotContent) (s : State) :
    (mapContent i f s).pending = s.pending ∧
    (mapContent i f s).draws = s.draws ∧
    (mapContent i f s).inReset = s.inReset ∧
    (mapContent i f s).time = s.time ∧
    (mapContent i f s).msg = s.msg ∧
    (mapContent i f s).win = s.win ∧
    (mapContent i f s).plan = s.plan ∧
    (mapContent i f s).legs = s.legs ∧
    (mapContent i f s).seq = s.seq ∧
    (mapContent i f s).probe = s.probe ∧
    (mapContent i f s).cap = s.cap ∧
    (mapContent i f s).cor = s.cor ∧
    (mapContent i f s).div = s.div ∧
    (mapContent i f s).arith = s.arith ∧
    (mapContent i f s).map = s.map ∧
    (mapContent i f s).stray = s.stray ∧
    (mapContent i f s).ing = s.ing := by
  simp [mapContent]

/-- The blocks that a feed leaves alone. -/
@[simp] theorem feedStray_frame (g : LegId) (d a : Nat) (s : State) :
    (feedStray g d a s).pending = s.pending ∧
    (feedStray g d a s).draws = s.draws ∧
    (feedStray g d a s).inReset = s.inReset ∧
    (feedStray g d a s).time = s.time ∧
    (feedStray g d a s).win = s.win ∧
    (feedStray g d a s).plan = s.plan ∧
    (feedStray g d a s).legs = s.legs ∧
    (feedStray g d a s).seq = s.seq ∧
    (feedStray g d a s).probe = s.probe ∧
    (feedStray g d a s).cap = s.cap ∧
    (feedStray g d a s).cor = s.cor ∧
    (feedStray g d a s).prof = s.prof ∧
    (feedStray g d a s).div = s.div ∧
    (feedStray g d a s).arith = s.arith ∧
    (feedStray g d a s).map = s.map ∧
    (feedStray g d a s).ing = s.ing := by
  unfold feedStray; dsimp only; split <;> simp

/-- Ageing changes the stray table alone. -/
@[simp] theorem ageStrays_frame (g : LegId) (cs : List Nat) (s : State) :
    (ageStrays g cs s).pending = s.pending ∧
    (ageStrays g cs s).draws = s.draws ∧
    (ageStrays g cs s).inReset = s.inReset ∧
    (ageStrays g cs s).time = s.time ∧
    (ageStrays g cs s).msg = s.msg ∧
    (ageStrays g cs s).win = s.win ∧
    (ageStrays g cs s).plan = s.plan ∧
    (ageStrays g cs s).legs = s.legs ∧
    (ageStrays g cs s).seq = s.seq ∧
    (ageStrays g cs s).probe = s.probe ∧
    (ageStrays g cs s).cap = s.cap ∧
    (ageStrays g cs s).cor = s.cor ∧
    (ageStrays g cs s).prof = s.prof ∧
    (ageStrays g cs s).div = s.div ∧
    (ageStrays g cs s).arith = s.arith ∧
    (ageStrays g cs s).map = s.map ∧
    (ageStrays g cs s).ing = s.ing := by
  simp [ageStrays]

/-- The blocks that the first step of reconciliation leaves alone. -/
@[simp] theorem measurePeaks_frame (w : Sweep) (s : State) :
    (measurePeaks w s).pending = s.pending ∧
    (measurePeaks w s).draws = s.draws ∧
    (measurePeaks w s).inReset = s.inReset ∧
    (measurePeaks w s).time = s.time ∧
    (measurePeaks w s).msg = s.msg ∧
    (measurePeaks w s).win = s.win ∧
    (measurePeaks w s).plan = s.plan ∧
    (measurePeaks w s).legs = s.legs ∧
    (measurePeaks w s).probe = s.probe ∧
    (measurePeaks w s).cap = s.cap ∧
    (measurePeaks w s).cor = s.cor ∧
    (measurePeaks w s).div = s.div ∧
    (measurePeaks w s).arith = s.arith ∧
    (measurePeaks w s).map = s.map ∧
    (measurePeaks w s).stray = s.stray ∧
    (measurePeaks w s).ing = s.ing := by
  simp [measurePeaks]

/-- Posting several reports changes the message controller alone. -/
@[simp] theorem postAll_frame (rs : List Report) (s : State) :
    (rs.foldl (fun u r => post r u) s).pending = s.pending ∧
    (rs.foldl (fun u r => post r u) s).draws = s.draws ∧
    (rs.foldl (fun u r => post r u) s).inReset = s.inReset ∧
    (rs.foldl (fun u r => post r u) s).time = s.time ∧
    (rs.foldl (fun u r => post r u) s).win = s.win ∧
    (rs.foldl (fun u r => post r u) s).plan = s.plan ∧
    (rs.foldl (fun u r => post r u) s).legs = s.legs ∧
    (rs.foldl (fun u r => post r u) s).seq = s.seq ∧
    (rs.foldl (fun u r => post r u) s).probe = s.probe ∧
    (rs.foldl (fun u r => post r u) s).cap = s.cap ∧
    (rs.foldl (fun u r => post r u) s).cor = s.cor ∧
    (rs.foldl (fun u r => post r u) s).prof = s.prof ∧
    (rs.foldl (fun u r => post r u) s).div = s.div ∧
    (rs.foldl (fun u r => post r u) s).arith = s.arith ∧
    (rs.foldl (fun u r => post r u) s).map = s.map ∧
    (rs.foldl (fun u r => post r u) s).stray = s.stray ∧
    (rs.foldl (fun u r => post r u) s).ing = s.ing := by
  induction rs generalizing s with
  | nil => simp
  | cons r rs ih => simp only [List.foldl_cons, ih, post_frame, and_self]

/-- The blocks that the element steps of reconciliation leave alone. -/
@[simp] theorem updateElements_frame (w : Sweep) (ms : List (Element × Option Peak)) (s : State) :
    (updateElements w ms s).pending = s.pending ∧
    (updateElements w ms s).draws = s.draws ∧
    (updateElements w ms s).inReset = s.inReset ∧
    (updateElements w ms s).time = s.time ∧
    (updateElements w ms s).win = s.win ∧
    (updateElements w ms s).plan = s.plan ∧
    (updateElements w ms s).legs = s.legs ∧
    (updateElements w ms s).seq = s.seq ∧
    (updateElements w ms s).probe = s.probe ∧
    (updateElements w ms s).cap = s.cap ∧
    (updateElements w ms s).cor = s.cor ∧
    (updateElements w ms s).div = s.div ∧
    (updateElements w ms s).arith = s.arith ∧
    (updateElements w ms s).stray = s.stray ∧
    (updateElements w ms s).ing = s.ing := by
  simp [updateElements]

/-- The blocks that the feeds of a reconciliation leave alone. -/
@[simp] theorem feedStrays_frame (g : LegId) (ps : List Peak) (s : State) :
    (feedStrays g ps s).pending = s.pending ∧
    (feedStrays g ps s).draws = s.draws ∧
    (feedStrays g ps s).inReset = s.inReset ∧
    (feedStrays g ps s).time = s.time ∧
    (feedStrays g ps s).win = s.win ∧
    (feedStrays g ps s).plan = s.plan ∧
    (feedStrays g ps s).legs = s.legs ∧
    (feedStrays g ps s).seq = s.seq ∧
    (feedStrays g ps s).probe = s.probe ∧
    (feedStrays g ps s).cap = s.cap ∧
    (feedStrays g ps s).cor = s.cor ∧
    (feedStrays g ps s).prof = s.prof ∧
    (feedStrays g ps s).div = s.div ∧
    (feedStrays g ps s).arith = s.arith ∧
    (feedStrays g ps s).map = s.map ∧
    (feedStrays g ps s).ing = s.ing := by
  unfold feedStrays
  induction ps generalizing s with
  | nil => simp
  | cons p ps ih => simp only [List.foldl_cons, ih, feedStray_frame, and_self]

/-- The blocks that a reconciliation leaves alone. -/
@[simp] theorem reconcile_frame (id : Nat) (s : State) :
    (reconcile id s).pending = s.pending ∧
    (reconcile id s).draws = s.draws ∧
    (reconcile id s).inReset = s.inReset ∧
    (reconcile id s).time = s.time ∧
    (reconcile id s).plan = s.plan ∧
    (reconcile id s).arith = s.arith := by
  unfold reconcile; split
  · simp
  · dsimp only; split <;> simp

/-- Setting a flag changes the sequencer alone. -/
@[simp] theorem flagSweep_frame (id : Nat) (f : SweepFlags → SweepFlags) (s : State) :
    (flagSweep id f s).pending = s.pending ∧
    (flagSweep id f s).draws = s.draws ∧
    (flagSweep id f s).inReset = s.inReset ∧
    (flagSweep id f s).time = s.time ∧
    (flagSweep id f s).msg = s.msg ∧
    (flagSweep id f s).win = s.win ∧
    (flagSweep id f s).plan = s.plan ∧
    (flagSweep id f s).legs = s.legs ∧
    (flagSweep id f s).probe = s.probe ∧
    (flagSweep id f s).cap = s.cap ∧
    (flagSweep id f s).cor = s.cor ∧
    (flagSweep id f s).prof = s.prof ∧
    (flagSweep id f s).div = s.div ∧
    (flagSweep id f s).arith = s.arith ∧
    (flagSweep id f s).map = s.map ∧
    (flagSweep id f s).stray = s.stray ∧
    (flagSweep id f s).ing = s.ing := by
  simp [flagSweep]

/-- The blocks that a failed calibration leaves alone. -/
@[simp] theorem calFailed_frame (id : Nat) (s : State) :
    (calFailed id s).pending = s.pending ∧
    (calFailed id s).draws = s.draws ∧
    (calFailed id s).inReset = s.inReset ∧
    (calFailed id s).time = s.time ∧
    (calFailed id s).plan = s.plan ∧
    (calFailed id s).arith = s.arith := by
  simp [calFailed]

/-- The blocks that the anchor search leaves alone. -/
@[simp] theorem anchorSearch_frame (id : Nat) (s : State) :
    (anchorSearch id s).pending = s.pending ∧
    (anchorSearch id s).draws = s.draws ∧
    (anchorSearch id s).inReset = s.inReset ∧
    (anchorSearch id s).time = s.time ∧
    (anchorSearch id s).plan = s.plan ∧
    (anchorSearch id s).arith = s.arith := by
  unfold anchorSearch; (repeat' split) <;> simp

/-- The blocks that the stage after refinement leaves alone. -/
@[simp] theorem afterRefinement_frame (w : Sweep) (s : State) :
    (afterRefinement w s).pending = s.pending ∧
    (afterRefinement w s).draws = s.draws ∧
    (afterRefinement w s).inReset = s.inReset ∧
    (afterRefinement w s).time = s.time ∧
    (afterRefinement w s).plan = s.plan ∧
    (afterRefinement w s).arith = s.arith := by
  unfold afterRefinement; (repeat' split) <;> simp

/-- The blocks that judging a CAL result leaves alone. -/
@[simp] theorem judgeCal_frame (id a d : Nat) (r : Option (Nat × Nat)) (s : State) :
    (judgeCal id a d r s).pending = s.pending ∧
    (judgeCal id a d r s).draws = s.draws ∧
    (judgeCal id a d r s).inReset = s.inReset ∧
    (judgeCal id a d r s).time = s.time ∧
    (judgeCal id a d r s).plan = s.plan := by
  unfold judgeCal; (repeat' split) <;> simp

/-- The blocks that the completion of an analysis leaves alone. -/
@[simp] theorem completeAnalysis_frame (w : Sweep) (acc : List Nat) (s : State) :
    (completeAnalysis w acc s).pending = s.pending ∧
    (completeAnalysis w acc s).draws = s.draws ∧
    (completeAnalysis w acc s).inReset = s.inReset ∧
    (completeAnalysis w acc s).time = s.time ∧
    (completeAnalysis w acc s).plan = s.plan ∧
    (completeAnalysis w acc s).arith = s.arith := by
  unfold completeAnalysis; dsimp only; (repeat' split) <;> simp

/-- Adding a capture changes the sequencer and the profile store. -/
@[simp] theorem addCapture_frame (w : Sweep) (h : Half) (l k : Nat) (s : State) :
    (addCapture w h l k s).pending = s.pending ∧
    (addCapture w h l k s).draws = s.draws ∧
    (addCapture w h l k s).inReset = s.inReset ∧
    (addCapture w h l k s).time = s.time ∧
    (addCapture w h l k s).msg = s.msg ∧
    (addCapture w h l k s).win = s.win ∧
    (addCapture w h l k s).plan = s.plan ∧
    (addCapture w h l k s).legs = s.legs ∧
    (addCapture w h l k s).probe = s.probe ∧
    (addCapture w h l k s).cap = s.cap ∧
    (addCapture w h l k s).cor = s.cor ∧
    (addCapture w h l k s).div = s.div ∧
    (addCapture w h l k s).arith = s.arith ∧
    (addCapture w h l k s).map = s.map ∧
    (addCapture w h l k s).stray = s.stray ∧
    (addCapture w h l k s).ing = s.ing := by
  unfold addCapture; dsimp only; split <;> simp

/-- The end of a job changes the capture unit and the correlator. -/
@[simp] theorem endJob_frame (h : HalfId) (s : State) :
    (endJob h s).pending = s.pending ∧
    (endJob h s).draws = s.draws ∧
    (endJob h s).inReset = s.inReset ∧
    (endJob h s).time = s.time ∧
    (endJob h s).msg = s.msg ∧
    (endJob h s).win = s.win ∧
    (endJob h s).plan = s.plan ∧
    (endJob h s).legs = s.legs ∧
    (endJob h s).seq = s.seq ∧
    (endJob h s).probe = s.probe ∧
    (endJob h s).prof = s.prof ∧
    (endJob h s).div = s.div ∧
    (endJob h s).arith = s.arith ∧
    (endJob h s).map = s.map ∧
    (endJob h s).stray = s.stray ∧
    (endJob h s).ing = s.ing := by
  simp [endJob]

/-- The blocks that the steps after a job leave alone. -/
@[simp] theorem afterJob_frame  (s : State) :
    (afterJob s).pending = s.pending ∧
    (afterJob s).draws = s.draws ∧
    (afterJob s).inReset = s.inReset ∧
    (afterJob s).time = s.time ∧
    (afterJob s).msg = s.msg ∧
    (afterJob s).plan = s.plan ∧
    (afterJob s).legs = s.legs ∧
    (afterJob s).div = s.div ∧
    (afterJob s).arith = s.arith ∧
    (afterJob s).map = s.map ∧
    (afterJob s).stray = s.stray := by
  simp [afterJob]

/-- Writing a refined delay changes the profile store alone. -/
@[simp] theorem writeRefined_frame (w : Sweep) (k q : Nat) (s : State) :
    (writeRefined w k q s).pending = s.pending ∧
    (writeRefined w k q s).draws = s.draws ∧
    (writeRefined w k q s).inReset = s.inReset ∧
    (writeRefined w k q s).time = s.time ∧
    (writeRefined w k q s).msg = s.msg ∧
    (writeRefined w k q s).win = s.win ∧
    (writeRefined w k q s).plan = s.plan ∧
    (writeRefined w k q s).legs = s.legs ∧
    (writeRefined w k q s).seq = s.seq ∧
    (writeRefined w k q s).probe = s.probe ∧
    (writeRefined w k q s).cap = s.cap ∧
    (writeRefined w k q s).cor = s.cor ∧
    (writeRefined w k q s).div = s.div ∧
    (writeRefined w k q s).arith = s.arith ∧
    (writeRefined w k q s).map = s.map ∧
    (writeRefined w k q s).stray = s.stray ∧
    (writeRefined w k q s).ing = s.ing := by
  simp [writeRefined]

/-- The blocks that handing over a result leaves alone. -/
@[simp] theorem handResult_frame (j : Job) (s : State) :
    (handResult j s).pending = s.pending ∧
    (handResult j s).draws = s.draws ∧
    (handResult j s).inReset = s.inReset ∧
    (handResult j s).time = s.time ∧
    (handResult j s).plan = s.plan := by
  unfold handResult; (repeat' split) <;> (try dsimp only) <;> simp

end Sys2Proof.Machine
end

