-- ==== Sys2Proof/Laws/Windows.lean ====
section
/-! SUPPORT. What the operations of the window scheduler leave unchanged. -/

namespace Sys2Proof.Machine

open Sys2Proof

/-- Writing the table changes the window scheduler alone. -/
@[simp] theorem State.setTable_frame (t : List Window) (s : State) :
    (State.setTable s t).pending = s.pending ∧
    (State.setTable s t).draws = s.draws ∧
    (State.setTable s t).inReset = s.inReset ∧
    (State.setTable s t).time = s.time ∧
    (State.setTable s t).msg = s.msg ∧
    (State.setTable s t).plan = s.plan ∧
    (State.setTable s t).legs = s.legs ∧
    (State.setTable s t).seq = s.seq ∧
    (State.setTable s t).probe = s.probe ∧
    (State.setTable s t).cap = s.cap ∧
    (State.setTable s t).cor = s.cor ∧
    (State.setTable s t).prof = s.prof ∧
    (State.setTable s t).div = s.div ∧
    (State.setTable s t).arith = s.arith ∧
    (State.setTable s t).map = s.map ∧
    (State.setTable s t).stray = s.stray ∧
    (State.setTable s t).ing = s.ing := by
  simp [State.setTable]

/-- The blocks that the opening of a window leaves alone. -/
@[simp] theorem openWindowAt_frame (id : Nat) (s : State) :
    (openWindowAt id s).pending = s.pending ∧
    (openWindowAt id s).draws = s.draws ∧
    (openWindowAt id s).inReset = s.inReset ∧
    (openWindowAt id s).time = s.time ∧
    (openWindowAt id s).msg = s.msg ∧
    (openWindowAt id s).plan = s.plan ∧
    (openWindowAt id s).legs = s.legs ∧
    (openWindowAt id s).cor = s.cor ∧
    (openWindowAt id s).div = s.div ∧
    (openWindowAt id s).arith = s.arith ∧
    (openWindowAt id s).map = s.map ∧
    (openWindowAt id s).stray = s.stray := by
  simp [openWindowAt]

/-- The blocks that missing windows leaves alone. -/
@[simp] theorem missWindows_frame (b a : Nat) (s : State) :
    (missWindows b a s).pending = s.pending ∧
    (missWindows b a s).draws = s.draws ∧
    (missWindows b a s).inReset = s.inReset ∧
    (missWindows b a s).time = s.time ∧
    (missWindows b a s).plan = s.plan ∧
    (missWindows b a s).legs = s.legs ∧
    (missWindows b a s).seq = s.seq ∧
    (missWindows b a s).probe = s.probe ∧
    (missWindows b a s).cap = s.cap ∧
    (missWindows b a s).cor = s.cor ∧
    (missWindows b a s).prof = s.prof ∧
    (missWindows b a s).div = s.div ∧
    (missWindows b a s).arith = s.arith ∧
    (missWindows b a s).map = s.map ∧
    (missWindows b a s).stray = s.stray ∧
    (missWindows b a s).ing = s.ing := by
  unfold missWindows
  dsimp only
  generalize hs : s.setTable _ = u
  have hu : (u.pending = s.pending ∧ u.draws = s.draws ∧ u.inReset = s.inReset ∧ u.time = s.time ∧ u.plan = s.plan ∧
      u.legs = s.legs ∧ u.seq = s.seq ∧ u.probe = s.probe ∧ u.cap = s.cap ∧ u.cor = s.cor ∧ u.prof = s.prof ∧
      u.div = s.div ∧ u.arith = s.arith ∧ u.map = s.map ∧ u.stray = s.stray ∧ u.ing = s.ing) := by
    subst hs; simp
  clear hs
  induction s.win.table.filter (fun w => decide (w.stop ≤ a)) generalizing u with
  | nil => simpa using hu
  | cons w ws ih =>
    simp only [List.foldl_cons]
    exact ih _ (by simpa using hu)

/-- The blocks that the opening of a straddling window leaves alone. -/
@[simp] theorem openStraddling_frame (a : Nat) (s : State) :
    (openStraddling a s).pending = s.pending ∧
    (openStraddling a s).draws = s.draws ∧
    (openStraddling a s).inReset = s.inReset ∧
    (openStraddling a s).time = s.time ∧
    (openStraddling a s).msg = s.msg ∧
    (openStraddling a s).plan = s.plan ∧
    (openStraddling a s).legs = s.legs ∧
    (openStraddling a s).cor = s.cor ∧
    (openStraddling a s).div = s.div ∧
    (openStraddling a s).arith = s.arith ∧
    (openStraddling a s).map = s.map ∧
    (openStraddling a s).stray = s.stray := by
  unfold openStraddling; (repeat' split) <;> simp


end Sys2Proof.Machine
end

