-- ==== Sys2Proof/Laws/Message.lean ====
section
/-! SUPPORT. What placing a reply, dispatching a request and taking an input do, said once. -/

namespace Sys2Proof.Machine

open Sys2Proof

/-- Every byte takes ten bits on the line (R1). -/
theorem byteBits_length (b : Byte) : (byteBits b).length = 10 := rfl

/-- Bit `j` of byte `i` of bytes sent back to back (R1). -/
theorem flatMap_byteBits_getD (bs : List Byte) (i j : Nat) (hi : i < bs.length) (hj : j < 10) :
    (bs.flatMap byteBits).getD (10 * i + j) true = (byteBits (bs.getD i 0)).getD j true := by
  induction bs generalizing i with
  | nil => exact absurd hi (Nat.not_lt_zero i)
  | cons b bs ih =>
    rw [List.flatMap_cons]
    cases i with
    | zero => rw [List.getD_append _ _ _ _ (by rw [byteBits_length]; omega)]; simp
    | succ i =>
      rw [List.getD_append_right _ _ _ _ (by rw [byteBits_length]; omega), byteBits_length,
        show 10 * (i + 1) + j - 10 = 10 * i + j by omega, ih i (by simpa using hi), List.getD_cons_succ]

/-- After the last stop bit the line is high (R1). -/
theorem flatMap_byteBits_done (bs : List Byte) (k : Nat) (h : 10 * bs.length ≤ k) :
    (bs.flatMap byteBits).getD k true = true := by
  have hl : (bs.flatMap byteBits).length = 10 * bs.length := by
    simp [List.length_flatMap, byteBits_length, Nat.mul_comm]
  rw [List.getD_eq_default _ _ (by omega)]

/-- A byte is taken back from the bits that were sent for it, whatever became of its start and stop bits (R1). -/
theorem receivedByte_data (b : Byte) (start stop : Bool) :
    receivedByte ([start] ++ (List.range 8).map (fun i => b.getLsbD i) ++ [stop]) = b := by
  have h : ∀ b : Byte, BitVec.ofNat 8 (bitsOf ((List.range 8).map fun i => b.getLsbD i)) = b := by decide +kernel
  exact h b

/-- A frame has ended on the line at the cycle that frameCycles gives, and not before it (R1, R12). -/
theorem frameCycles_bits (f : Frame) : 10 * f.bytes.length ≤ bitsSent (frameCycles f) ∧
    bitsSent (frameCycles f - 1) < 10 * f.bytes.length := by
  have hl : f.bytes.length = f.payload.length + 7 := by
    have hle : ∀ n v, (le n v).length = n := fun n => by
      induction n with
      | zero => exact fun _ => rfl
      | succ n ih => exact fun v => by simp [le, ih]
    simp [Frame.bytes, Frame.covered, hle]; omega
  rw [hl]
  unfold frameCycles bitsSent
  omega

/-- Placing a reply changes the message controller alone. -/
@[simp] theorem placeReply_frame (f : Frame) (r : Reply) (s : State) :
    (placeReply f r s).pending = s.pending ∧ (placeReply f r s).draws = s.draws ∧ (placeReply f r s).inReset = s.inReset ∧
      (placeReply f r s).time = s.time ∧ (placeReply f r s).win = s.win ∧ (placeReply f r s).plan = s.plan ∧
      (placeReply f r s).legs = s.legs ∧ (placeReply f r s).seq = s.seq ∧ (placeReply f r s).probe = s.probe ∧
      (placeReply f r s).cap = s.cap ∧ (placeReply f r s).cor = s.cor ∧ (placeReply f r s).prof = s.prof ∧
      (placeReply f r s).div = s.div ∧ (placeReply f r s).arith = s.arith ∧ (placeReply f r s).map = s.map ∧
      (placeReply f r s).stray = s.stray ∧ (placeReply f r s).ing = s.ing := by
  simp [placeReply]

/-- Dispatching with the request list empty does nothing. -/
theorem dispatchFor_none (n : Nat) (s : State) (h : s.msg.requests = []) : dispatchFor n s = s := by
  cases n with
  | zero => rfl
  | succ n => unfold dispatchFor; simp [h]

/-- Writing the message controller twice writes it once. -/
@[simp] theorem State.setMsg_setMsg (s : State) (m n : Message) : (s.setMsg m).setMsg n = s.setMsg n := rfl

/-- A ready part dispatches a request that completes (R8). -/
theorem offerRequest_ready (f : Frame) (s : State) (h : Ready s) : offerRequest f s = dispatch f s := by
  have hd : dispatchWaiting (s.setMsg { s.msg with requests := [f] }) = dispatch f s := by
    unfold dispatchWaiting
    simp only [State.setMsg_msg, List.length_singleton]
    unfold dispatchFor
    simp only [State.setMsg_msg, h.noReply, h.dispatching, Option.isNone_none, Bool.and_self, ↓reduceIte,
      State.setMsg_setMsg, dispatchFor]
    rw [show ({ s.msg with requests := [], slot := none, dispatching := true } : Message) = s.msg by
      have h1 := h.noReply
      have h2 := h.dispatching
      have h3 := h.noRequest
      cases hs : s.msg; simp_all]
    rfl
  unfold offerRequest
  rw [if_neg (by simp [h.noRequest]), h.noRequest, List.nil_append]
  exact hd

/-- A request that posts no report is answered at once, and changes what its owner changes (R8, R11, R12). -/
theorem dispatch_silent (f : Frame) (s t : State) (st : Status) (fields : List Byte) (h : Ready s)
    (hs : serve f (s.setMsg { s.msg with hold := true }) = (t.setMsg { s.msg with hold := true }, ⟨st, fields, false⟩))
    (htime : t.time = s.time) (hmsg : t.msg = s.msg) : dispatch f s = t.replied f.kind f.tag st fields := by
  have hr : (s.msg.tx.isSome || s.msg.reports.isEmpty) = true := by
    cases htx : s.msg.tx with
    | none => simp [h.idleEmpty htx]
    | some x => simp
  have hh : ({ s.msg with hold := false } : Message) = s.msg := by
    have := h.noHold
    cases hs : s.msg; simp_all
  unfold dispatch
  simp only [hs, State.setMsg_setMsg, State.setMsg_msg]
  rw [show ({ s.msg with hold := false } : Message) = s.msg from hh]
  rw [if_pos hr]
  unfold placeReply Message.kick State.replied Reply.frame replyFrame
  simp only [State.setMsg_msg, State.setMsg_time, State.setMsg_setMsg, hmsg, htime]
  cases htx : s.msg.tx with
  | none => simp only [h.noHold, Bool.false_eq_true, ↓reduceIte]; rw [h.noReply]; rfl
  | some x => rfl

/-- Time that passes leaves a ready part ready. -/
theorem Ready.after {s : State} (h : Ready s) (n : Nat) : Ready (s.after n) :=
  ⟨h.running, h.dispatching, h.noRequest, h.noReply, h.noHold, h.idleEmpty⟩

/-- A request command on a ready part, when its owner posts no report: what `serve` answers, and the reply (R8, R12). -/
theorem requestArrives_silent {n : Nat} {f : Frame} {s t : State} {st : Status} {fields : List Byte} (h : Ready s)
    (hs : serve f ((s.after n).setMsg { s.msg with hold := true })
      = (t.setMsg { s.msg with hold := true }, ⟨st, fields, false⟩))
    (htime : t.time = (s.after n).time) (hmsg : t.msg = s.msg) :
    requestArrives n f s = .next (t.replied f.kind f.tag st fields) := by
  show Host.Outcome.next (if s.inReset then s else offerRequest f (s.after n)) = _
  rw [h.running, offerRequest_ready _ _ (h.after n), dispatch_silent f (s.after n) t st fields (h.after n) hs htime hmsg]
  rfl

end Sys2Proof.Machine
end

