-- ==== Sys2Proof/Laws/Strays.lean ====
section
/-! SUPPORT. Reading the stray table back after each of its updates, said once (R164, R166, R174). -/

namespace Sys2Proof.Machine

open Sys2Proof

/-- The set just written. -/
theorem Strays.set_setSet (t : Strays) (i : Nat) (v : StraySet) (h : i < t.sets.length) : (t.setSet i v).set i = v := by
  simp [Strays.setSet, Strays.set, h]

/-- The other sets stay. -/
theorem Strays.set_setSet_ne (t : Strays) (i j : Nat) (v : StraySet) (h : j ≠ i) : (t.setSet i v).set j = t.set j := by
  simp [Strays.setSet, Strays.set, List.getD, Ne.symm h]

/-- The drop counts and the number of sets stay. -/
@[simp] theorem Strays.setSet_frame (t : Strays) (i : Nat) (v : StraySet) :
    (t.setSet i v).drops = t.drops ∧ (t.setSet i v).sets.length = t.sets.length := by
  simp [Strays.setSet]

/-- A use marks the way and keeps every entry (R166). -/
@[simp] theorem StraySet.use_ways (w : Fin 4) (v : StraySet) : (v.use w).ways = v.ways := by
  unfold StraySet.use
  split <;> rfl

/-- Rewriting every entry keeps the drop counts, and rewrites each way of each set (R174). -/
theorem Strays.mapEntries_set (f : StrayEntry → StrayEntry) (t : Strays) (i : Nat) (h : i < t.sets.length) (w : Fin 4) :
    (t.mapEntries f).drops = t.drops ∧ ((t.mapEntries f).set i).ways.get w = f ((t.set i).ways.get w) ∧
      ((t.mapEntries f).set i).pairBit = (t.set i).pairBit ∧ ((t.mapEntries f).set i).lowBit = (t.set i).lowBit ∧
      ((t.mapEntries f).set i).highBit = (t.set i).highBit := by
  have hs : (t.mapEntries f).set i =
      { t.set i with ways := ⟨f (t.set i).ways.q0, f (t.set i).ways.q1, f (t.set i).ways.q2, f (t.set i).ways.q3⟩ } := by
    simp [Strays.mapEntries, Strays.set, h]
  refine ⟨rfl, ?_, ?_, ?_, ?_⟩ <;> rw [hs]
  fin_cases w <;> rfl

/-- A reset keeps the number of sets, clears the bits and the drop counts, and invalidates each way, whose other fields stay (R165,
R174, R178). -/
theorem Strays.afterReset_set (t : Strays) (i : Nat) (h : i < t.sets.length) (w : Fin 4) :
    t.afterReset.sets.length = t.sets.length ∧ t.afterReset.drops = Quad.all 0 ∧
      (t.afterReset.set i).ways.get w = { (t.set i).ways.get w with valid := false } ∧
      (t.afterReset.set i).pairBit = false ∧ (t.afterReset.set i).lowBit = false ∧ (t.afterReset.set i).highBit = false := by
  have hs : t.afterReset.set i = ⟨⟨(t.set i).ways.q0.invalidate, (t.set i).ways.q1.invalidate, (t.set i).ways.q2.invalidate,
      (t.set i).ways.q3.invalidate⟩, false, false, false⟩ := by
    simp [Strays.afterReset, Strays.mapEntries, Strays.set, h]
  refine ⟨by simp [Strays.afterReset, Strays.mapEntries], rfl, ?_, ?_, ?_, ?_⟩ <;> rw [hs]
  fin_cases w <;> rfl

/-- What a judgement for confirmation does to an entry, and when it is to be reported (R169). -/
theorem StrayEntry.judge_cases (c : Nat) (e : StrayEntry) :
    (e.state = .candidate ∧ c ≤ e.sightings ∧ e.judge c = ({ e with state := .confirmed }, true)) ∨
    (¬ (e.state = .candidate ∧ c ≤ e.sightings) ∧ e.judge c = (e, false)) := by
  unfold StrayEntry.judge
  split
  · next h => exact .inl ⟨h.1, h.2, rfl⟩
  · next h => exact .inr ⟨h, rfl⟩

end Sys2Proof.Machine
end

