-- ==== Sys2Proof/Laws/Stream.lean ====
section
/-! SUPPORT. What the sampling and the code register do as time passes, said once (R74, R80 to R82): what they leave alone, that
nothing moves outside a burst or a capture, and that time that passes in two runs is time that passes in one. -/

namespace Sys2Proof.Machine

open Sys2Proof

/-! ### Halves -/

/-- A half read where it was written. -/
@[simp] theorem Capture.half_setHalf (c : Capture) (h : HalfId) (v : Half) : (c.setHalf h v).half h = v := by
  cases h <;> rfl

/-- A half read elsewhere than where it was written. -/
theorem Capture.half_setHalf_other (c : Capture) {h k : HalfId} (v : Half) (n : k ≠ h) :
    (c.setHalf h v).half k = c.half k := by
  cases h <;> cases k <;> first | rfl | exact absurd rfl n

/-- Writing a half changes the halves alone. -/
@[simp] theorem Capture.setHalf_frame (c : Capture) (h : HalfId) (v : Half) :
    (c.setHalf h v).stream = c.stream ∧ (c.setHalf h v).waiting = c.waiting ∧ (c.setHalf h v).coupler = c.coupler ∧
      (c.setHalf h v).position = c.position ∧ (c.setHalf h v).snapStart = c.snapStart ∧
      (c.setHalf h v).sampling = c.sampling ∧ (c.setHalf h v).fills = c.fills := by
  cases h <;> simp [Capture.setHalf]

/-- The half found in a state is in that state. -/
theorem Capture.inState_state {c : Capture} {st : HalfState} {h : HalfId} (e : c.inState st = some h) :
    (c.half h).state = st := by
  unfold Capture.inState at e
  split at e
  · cases e; assumption
  · split at e
    · cases e; assumption
    · cases e

/-! ### Writing samples -/

/-- Written samples leave the half its length. -/
@[simp] theorem writeSamples_length (i : Nat) (new old : List Sample) : (writeSamples i new old).length = old.length := by
  simp only [writeSamples, List.length_append, List.length_take, List.length_drop]
  omega

/-- Nothing written changes nothing. -/
@[simp] theorem writeSamples_nil (i : Nat) (old : List Sample) : writeSamples i [] old = old := by
  simp [writeSamples, List.take_append_drop]

/-- What a position holds after samples were written from `i` on. -/
theorem writeSamples_getElem? (i : Nat) (new old : List Sample) (k : Nat) : (writeSamples i new old)[k]? =
    if k < old.length then (if i ≤ k ∧ k < i + new.length then new[k - i]? else old[k]?) else none := by
  unfold writeSamples
  by_cases hk : k < old.length
  · rw [if_pos hk]
    by_cases h1 : k < i
    · rw [List.append_assoc, List.getElem?_append_left (by simp; omega), List.getElem?_take_of_lt h1, if_neg (by omega)]
    · rw [List.append_assoc, List.getElem?_append_right (by simp; omega)]
      have hi : (old.take i).length = i := by simp; omega
      rw [hi]
      by_cases h2 : k < i + new.length
      · rw [List.getElem?_append_left (by simp; omega), List.getElem?_take_of_lt (by omega), if_pos ⟨by omega, h2⟩]
      · rw [List.getElem?_append_right (by simp; omega), List.getElem?_drop, if_neg (by omega)]
        congr 1
        simp
        omega
  · rw [if_neg hk, List.getElem?_eq_none]
    simp only [List.length_append, List.length_take, List.length_drop]
    omega

/-- Samples written in two runs are samples written in one. -/
theorem writeSamples_append (i : Nat) (a b old : List Sample) :
    writeSamples (i + a.length) b (writeSamples i a old) = writeSamples i (a ++ b) old := by
  apply List.ext_getElem?
  intro k
  simp only [writeSamples_getElem?, writeSamples_length, List.length_append]
  by_cases hk : k < old.length
  · simp only [hk, if_true]
    by_cases h1 : i + a.length ≤ k ∧ k < i + a.length + b.length
    · rw [if_pos h1, if_pos (by omega), List.getElem?_append_right (by omega)]
      congr 1
      omega
    · rw [if_neg h1]
      by_cases h2 : i ≤ k ∧ k < i + a.length
      · rw [if_pos h2, if_pos (by omega), List.getElem?_append_left (by omega)]
      · rw [if_neg h2, if_neg (by omega)]
  · simp [hk]

/-- What the stream's writing leaves alone, and that the half it fills keeps its state, owner and marks but the clip mark. -/
theorem Capture.write_cases (new : List Sample) (c : Capture) :
    (c.inState .filling = none ∧ c.write new = c) ∨
      ∃ h, c.inState .filling = some h ∧ c.write new = { (c.setHalf h { c.half h with
        samples := writeSamples c.position new (c.half h).samples
        clip := (c.half h).clip || (c.stream == .acquisition && new.any fun x => x.toInt == -2048 || x.toInt == 2047) }) with
          position := c.position + new.length } := by
  unfold Capture.write
  split
  · exact .inl ⟨by assumption, rfl⟩
  · exact .inr ⟨_, by assumption, rfl⟩

/-- Nothing to write changes nothing. -/
@[simp] theorem Capture.write_nil (c : Capture) : c.write [] = c := by
  obtain ⟨-, h⟩ | ⟨h, -, e⟩ := Capture.write_cases [] c
  · exact h
  · rw [e]
    cases h <;> simp [Capture.setHalf, Capture.half]

/-- What the stream's writing leaves alone. -/
@[simp] theorem Capture.write_frame (new : List Sample) (c : Capture) :
    (c.write new).stream = c.stream ∧ (c.write new).waiting = c.waiting ∧ (c.write new).coupler = c.coupler ∧
      (c.write new).snapStart = c.snapStart ∧ (c.write new).sampling = c.sampling ∧ (c.write new).fills = c.fills := by
  obtain ⟨-, h⟩ | ⟨h, -, e⟩ := Capture.write_cases new c
  · simp [h]
  · simp [e]

/-- The stream's writing leaves every half its state, owner, void mark, fill order and turn, and the number of its positions. -/
@[simp] theorem Capture.write_half (new : List Sample) (c : Capture) (k : HalfId) :
    ((c.write new).half k).state = (c.half k).state ∧ ((c.write new).half k).owner = (c.half k).owner ∧
      ((c.write new).half k).void = (c.half k).void ∧ ((c.write new).half k).fillOrder = (c.half k).fillOrder ∧
      ((c.write new).half k).turn = (c.half k).turn ∧ ((c.write new).half k).samples.length = (c.half k).samples.length := by
  obtain ⟨-, h⟩ | ⟨h, -, e⟩ := Capture.write_cases new c
  · simp [h]
  · rw [e]
    cases h <;> cases k <;> simp [Capture.setHalf, Capture.half]

/-- The stream's writing leaves the other halves alone. -/
theorem Capture.write_other (new : List Sample) (c : Capture) (k : HalfId) (h : (c.half k).state ≠ .filling) :
    (c.write new).half k = c.half k := by
  obtain ⟨-, e⟩ | ⟨g, hg, e⟩ := Capture.write_cases new c
  · rw [e]
  · rw [e]
    have : k ≠ g := fun hk => h (hk ▸ Capture.inState_state hg)
    cases g <;> cases k <;> first | rfl | exact absurd rfl this

/-- The stream's writing changes no half's place in the states. -/
@[simp] theorem Capture.write_inState (new : List Sample) (c : Capture) (st : HalfState) :
    (c.write new).inState st = c.inState st := by
  have h0 := (Capture.write_half new c .h0).1
  have h1 := (Capture.write_half new c .h1).1
  simp only [Capture.half] at h0 h1
  simp only [Capture.inState, h0, h1]

/-- Samples written in two runs are samples written in one. -/
theorem Capture.write_write (a b : List Sample) (c : Capture) : (c.write a).write b = c.write (a ++ b) := by
  obtain ⟨hn, e⟩ | ⟨h, hh, e⟩ := Capture.write_cases a c
  · obtain ⟨-, e'⟩ | ⟨g, hg, -⟩ := Capture.write_cases (a ++ b) c
    · rw [e, e']
      obtain ⟨-, e''⟩ | ⟨g, hg, -⟩ := Capture.write_cases b c
      · exact e''
      · exact absurd (hn.symm.trans hg) (by simp)
    · exact absurd (hn.symm.trans hg) (by simp)
  · obtain ⟨hn, -⟩ | ⟨g, hg, e'⟩ := Capture.write_cases (a ++ b) c
    · exact absurd (hn.symm.trans hh) (by simp)
    · obtain ⟨hn, -⟩ | ⟨k, hk, e''⟩ := Capture.write_cases b (c.write a)
      · rw [Capture.write_inState, hh] at hn; cases hn
      · rw [Capture.write_inState, hh] at hk
        cases hk
        rw [hh] at hg
        cases hg
        rw [e'', e', e]
        cases h <;>
          simp [Capture.setHalf, Capture.half, writeSamples_append, List.any_append, Nat.add_assoc, Bool.or_assoc,
            Bool.and_or_distrib_left]

/-! ### Sampling -/

/-- There are as many values as samples to take. -/
@[simp] theorem sampleValues_length (p n next : Nat) (input : List Sample) : (sampleValues p n next input).length = n := by
  induction n generalizing next input with
  | zero => rfl
  | succ n ih => cases input <;> simp [sampleValues, ih]

/-- The values of a first and of a second run. -/
theorem sampleValues_add (p m n next : Nat) (input : List Sample) :
    sampleValues p (m + n) next input = sampleValues p m next input ++ sampleValues p n (next + m * p) (input.drop m) := by
  induction m generalizing next input with
  | zero => simp [sampleValues]
  | succ m ih =>
    rw [Nat.succ_add]
    have e : next + p + m * p = next + (m + 1) * p := by rw [Nat.succ_mul]; omega
    cases input with
    | nil => simp only [sampleValues, List.cons_append, ih, List.drop_nil, e]
    | cons x input => simp only [sampleValues, List.cons_append, ih, List.drop_succ_cons, e]

/-- Where the input is given for every sample, the values are the input. -/
theorem sampleValues_given (p n next : Nat) (input : List Sample) (h : n ≤ input.length) :
    sampleValues p n next input = input.take n := by
  induction n generalizing next input with
  | zero => rfl
  | succ n ih =>
    cases input with
    | nil => simp at h
    | cons x input => simp [sampleValues, ih _ _ (Nat.le_of_succ_le_succ h)]

/-- No more samples are due than are left. -/
theorem Sampling.due_le (clock : Nat) (x : Sampling) : x.due clock ≤ x.left := by
  unfold Sampling.due
  (repeat' split) <;> omega

/-- What is due at a later clock is what was due at an earlier one and what is due after it. -/
theorem Sampling.due_due (x : Sampling) {a b : Nat} (h : a ≤ b) :
    x.due b = x.due a + (x.drop (x.due a)).due b := by
  have hb : ∀ hn : ¬ b < x.next, x.due b = if x.period = 0 then x.left else min x.left ((b - x.next) / x.period + 1) :=
    fun hn => by simp [Sampling.due, hn]
  have hz : ∀ n, x.left ≤ n → (x.drop n).due b = 0 := fun n hn =>
    Nat.le_zero.1 (((x.drop n).due_le b).trans (Nat.le_of_eq (Nat.sub_eq_zero_of_le hn)))
  by_cases h1 : a < x.next
  · have ha : x.due a = 0 := by simp [Sampling.due, h1]
    have : x.drop 0 = x := by simp [Sampling.drop]
    rw [ha, this, Nat.zero_add]
  · have h2 : ¬ b < x.next := by omega
    rw [hb h2]
    by_cases hp : x.period = 0
    · have ha : x.due a = x.left := by simp [Sampling.due, h1, hp]
      rw [ha, hz _ le_rfl, if_pos hp, Nat.add_zero]
    · have hp' : 0 < x.period := Nat.pos_of_ne_zero hp
      rw [if_neg hp]
      obtain ⟨u, hu⟩ : ∃ u, u = (a - x.next) / x.period := ⟨_, rfl⟩
      obtain ⟨v, hv⟩ : ∃ v, v = (b - x.next) / x.period := ⟨_, rfl⟩
      have huv : u ≤ v := by rw [hu, hv]; exact Nat.div_le_div_right (by omega)
      have ha : x.due a = min x.left (u + 1) := by simp [Sampling.due, h1, hp, hu]
      rw [← hv, ha]
      by_cases hl : x.left ≤ u + 1
      · rw [Nat.min_eq_left hl, Nat.min_eq_left (by omega), hz _ le_rfl, Nat.add_zero]
      · rw [Nat.min_eq_right (by omega : u + 1 ≤ x.left)]
        have hd : (x.drop (u + 1)).due b = if b < x.next + (u + 1) * x.period then 0 else
          if x.period = 0 then x.left - (u + 1) else
            min (x.left - (u + 1)) ((b - (x.next + (u + 1) * x.period)) / x.period + 1) := rfl
        rw [hd]
        have hm : (u + 1) * x.period ≤ b - x.next ↔ u + 1 ≤ v := by rw [hv]; exact (Nat.le_div_iff_mul_le hp').symm
        by_cases hb : b < x.next + (u + 1) * x.period
        · rw [if_pos hb]
          have : ¬ u + 1 ≤ v := fun q => by have := hm.2 q; omega
          omega
        · rw [if_neg hb, if_neg hp]
          have e : (b - (x.next + (u + 1) * x.period)) / x.period = v - (u + 1) := by
            rw [hv, ← Nat.sub_sub, Nat.mul_comm, Nat.sub_mul_div]
          rw [e]
          have : u + 1 ≤ v := hm.1 (by omega)
          omega

/-- While no sampling has begun, time takes no sample. -/
theorem Capture.sampleTo_none {c : Capture} (h : c.sampling = none) (clock : Nat) : c.sampleTo clock = c := by
  simp [Capture.sampleTo, h]

/-- Telling samples changes nothing but what the sampling expects. -/
@[simp] theorem Capture.tell_frame (xs : List Sample) (c : Capture) :
    (c.tell xs).half0 = c.half0 ∧ (c.tell xs).half1 = c.half1 ∧ (c.tell xs).stream = c.stream ∧
      (c.tell xs).waiting = c.waiting ∧ (c.tell xs).coupler = c.coupler ∧ (c.tell xs).position = c.position ∧
      (c.tell xs).snapStart = c.snapStart ∧ (c.tell xs).fills = c.fills ∧
      (c.tell xs).sampling.isSome = c.sampling.isSome := by
  cases h : c.sampling <;> simp [Capture.tell, h]

@[simp] theorem Capture.tell_half (xs : List Sample) (c : Capture) (k : HalfId) : (c.tell xs).half k = c.half k := by
  cases k <;> rfl

@[simp] theorem Capture.tell_inState (xs : List Sample) (c : Capture) (st : HalfState) :
    (c.tell xs).inState st = c.inState st := rfl

/-- Telling no sample changes nothing. -/
@[simp] theorem Capture.tell_nil (c : Capture) : c.tell [] = c := by
  obtain ⟨_, _, _, _, _, _, _, _ | ⟨_, _, _, _⟩, _⟩ := c <;> simp [Capture.tell]

/-- Samples told in two turns are samples told in one. -/
theorem Capture.tell_tell (xs ys : List Sample) (c : Capture) : (c.tell xs).tell ys = c.tell (xs ++ ys) := by
  obtain ⟨_, _, _, _, _, _, _, _ | ⟨_, _, _, _⟩, _⟩ := c <;> simp [Capture.tell]

/-- What the taking of samples leaves alone. -/
@[simp] theorem Capture.sampleTo_frame (clock : Nat) (c : Capture) :
    (c.sampleTo clock).stream = c.stream ∧ (c.sampleTo clock).waiting = c.waiting ∧
      (c.sampleTo clock).coupler = c.coupler ∧ (c.sampleTo clock).snapStart = c.snapStart ∧
      (c.sampleTo clock).fills = c.fills ∧ (c.sampleTo clock).sampling.isSome = c.sampling.isSome := by
  unfold Capture.sampleTo
  split <;> simp_all

/-- The taking of samples leaves every half its state, owner, void mark, fill order and turn, and the number of its positions. -/
@[simp] theorem Capture.sampleTo_half (clock : Nat) (c : Capture) (k : HalfId) :
    ((c.sampleTo clock).half k).state = (c.half k).state ∧ ((c.sampleTo clock).half k).owner = (c.half k).owner ∧
      ((c.sampleTo clock).half k).void = (c.half k).void ∧ ((c.sampleTo clock).half k).fillOrder = (c.half k).fillOrder ∧
      ((c.sampleTo clock).half k).turn = (c.half k).turn ∧
      ((c.sampleTo clock).half k).samples.length = (c.half k).samples.length := by
  unfold Capture.sampleTo
  split
  · simp
  · rename_i x h
    have := Capture.write_half (sampleValues x.period (x.due clock) x.next x.input) c k
    cases k <;> exact this

/-- The taking of samples leaves the halves that are not FILLING alone. -/
theorem Capture.sampleTo_other (clock : Nat) (c : Capture) (k : HalfId) (h : (c.half k).state ≠ .filling) :
    (c.sampleTo clock).half k = c.half k := by
  unfold Capture.sampleTo
  split
  · rfl
  · rw [← Capture.write_other _ c k h]
    cases k <;> rfl

/-- The taking of samples changes no half's place in the states. -/
@[simp] theorem Capture.sampleTo_inState (clock : Nat) (c : Capture) (st : HalfState) :
    (c.sampleTo clock).inState st = c.inState st := by
  have h0 := (Capture.sampleTo_half clock c .h0).1
  have h1 := (Capture.sampleTo_half clock c .h1).1
  simp only [Capture.half] at h0 h1
  simp only [Capture.inState, h0, h1]

/-- The stream's writing does not look at the sampling. -/
theorem Capture.write_sampling (c : Capture) (o : Option Sampling) (v : List Sample) :
    ({ c with sampling := o } : Capture).write v = { c.write v with sampling := o } := by
  obtain ⟨hn, e⟩ | ⟨g, hg, e⟩ := Capture.write_cases v c
  · obtain ⟨-, e'⟩ | ⟨g, hg, -⟩ := Capture.write_cases v { c with sampling := o }
    · rw [e, e']
    · exact absurd (hn.symm.trans hg) (by simp)
  · obtain ⟨hn, -⟩ | ⟨k, hk, e'⟩ := Capture.write_cases v { c with sampling := o }
    · exact absurd (hn.symm.trans hg) (by simp)
    · obtain rfl : k = g := Option.some.inj (hk.symm.trans hg)
      rw [e', e]
      cases k <;> rfl

/-- What the taking of samples does while a sampling is going on. -/
theorem Capture.sampleTo_some {c : Capture} {x : Sampling} (h : c.sampling = some x) (clock : Nat) :
    c.sampleTo clock = { c.write (sampleValues x.period (x.due clock) x.next x.input) with
      sampling := some (x.drop (x.due clock)) } := by
  simp [Capture.sampleTo, h]

/-- Samples may be told before or after others are taken, as long as none goes by untold. -/
theorem Capture.tell_sampleTo {c : Capture} {x : Sampling} (h : c.sampling = some x) (clock : Nat) (xs : List Sample)
    (hx : x.due clock ≤ x.input.length) : (c.tell xs).sampleTo clock = (c.sampleTo clock).tell xs := by
  have ht : (c.tell xs).sampling = some { x with input := x.input ++ xs } := by simp [Capture.tell, h]
  have hd : Sampling.due clock { x with input := x.input ++ xs } = x.due clock := rfl
  rw [Capture.sampleTo_some ht, Capture.sampleTo_some h, hd]
  have hv : sampleValues x.period (x.due clock) x.next (x.input ++ xs) =
      sampleValues x.period (x.due clock) x.next x.input := by
    rw [sampleValues_given _ _ _ _ (by simp; omega), sampleValues_given _ _ _ _ hx,
      List.take_append_of_le_length hx]
  simp only [hv, Capture.tell, Capture.write_sampling, Option.map_some, Sampling.drop,
    List.drop_append_of_le_length hx]

/-- Samples taken by a clock and then by a later one are samples taken by the later one. -/
theorem Capture.sampleTo_sampleTo (c : Capture) {a b : Nat} (h : a ≤ b) : (c.sampleTo a).sampleTo b = c.sampleTo b := by
  cases hs : c.sampling with
  | none => rw [Capture.sampleTo_none hs, Capture.sampleTo_none hs]
  | some x =>
    have e : (x.drop (x.due a)).drop ((x.drop (x.due a)).due b) = x.drop (x.due b) := by
      rw [Sampling.due_due x h]
      simp only [Sampling.drop, List.drop_drop, Nat.add_mul, Nat.add_assoc, Nat.sub_sub]
    rw [Capture.sampleTo_some hs a, Capture.sampleTo_some rfl b, Capture.write_sampling, Capture.write_write, e,
      Capture.sampleTo_some hs b, Sampling.due_due x h, sampleValues_add]
    rfl

/-! ### Time -/

/-- Outside a burst and a capture, time that passes changes the time alone. -/
theorem State.passTo_quiet {s : State} (hs : s.cap.sampling = none) (hp : s.probe.phase ≠ .burst) (t : Time) :
    s.passTo t = s.setTime t := by
  have : s.codeAt t.clock = s.probe.code := by
    unfold State.codeAt
    split
    · rename_i h; exact absurd h hp
    · rfl
  unfold State.passTo
  rw [Capture.sampleTo_none hs, this]
  rfl

/-- The code register at a clock does not depend on when it was last looked at. -/
theorem State.codeAt_passTo (t : Time) (clock : Nat) (s : State) :
    (s.passTo t).codeAt clock = s.codeAt clock := by
  unfold State.codeAt
  simp only [State.passTo_frame, State.passTo_probe]
  split
  · rename_i h1 h2
    simp only [State.legSettings, State.leg, State.passTo_frame]
  · rename_i h1
    show (s.codeAt t.clock) = _
    unfold State.codeAt
    split
    · rename_i a b c d; exact absurd d (h1 _ c)
    · rfl

/-- Time that passes to one instant and then to a later one is time that passes to the later one. -/
theorem State.passTo_passTo (t u : Time) (s : State) (h : t.clock ≤ u.clock) : (s.passTo t).passTo u = s.passTo u := by
  have e : (s.passTo t).passTo u = (((s.passTo t).setTime u).setCap ((s.passTo t).cap.sampleTo u.clock)).setProbe
      { (s.passTo t).probe with code := (s.passTo t).codeAt u.clock } := rfl
  rw [e, State.codeAt_passTo t u.clock s, (State.passTo_frame t s).2.2.2.2.2.2.2.2.2.1, Capture.sampleTo_sampleTo _ h]
  rfl

/-- Cycles that pass in two runs are cycles that pass in one (R18). -/
theorem State.after_after (m n : Nat) (s : State) : (s.after m).after n = s.after (m + n) := by
  unfold State.after
  rw [State.passTo_frame .. |>.2.2.2.1, State.passTo_passTo _ _ _ (by simp), Time.advance_advance]

end Sys2Proof.Machine
end

