-- ==== Sys2Proof/Laws/Outcomes.lean ====
section
/-! SUPPORT. What the shared operations do, said once each in the words of Safety: how a batch is handed over, how a pairing
settles, what feeding and ageing do to the stray table, and what a sampling has written by a clock. -/

namespace Sys2Proof.Machine

open Sys2Proof

/-- The sequencer's test of a record is R56's. -/
theorem eligible_iff (s : State) (w : Sweep) : eligible s w = true ↔ MayStart s w := by
  have hstate : (w.state != .analysing) = true ↔ w.state = .queued ∨ w.state = .acquiring := by
    cases w.state <;> decide
  have hroom : (s.windowOn w.leg && decide (s.time.timebase + w.tAcq ≤ s.openWindow.elim 0 fun o => o.stop)) = true ↔
      ∃ o, s.openWindow = some o ∧ o.legs.get w.leg = true ∧ s.time.timebase + w.tAcq ≤ o.stop := by
    unfold State.windowOn
    cases s.openWindow with
    | none => simp
    | some o =>
      simp only [Bool.and_eq_true, Option.some.injEq, exists_eq_left', Option.elim_some]
      exact and_congr_right fun _ => ⟨of_decide_eq_true, decide_eq_true⟩
  simp only [eligible, MayStart, Bool.and_eq_true, Bool.or_eq_true, hroom, hstate, decide_eq_true_eq, beq_iff_eq, and_assoc]

/-- With no batch waiting, the divider's turn is the start of the job at the head of its queue (R111). -/
theorem Divider.pump_start (d : Divider) (clock : Nat) (h : d.waiting = []) : d.pump clock = d.start clock := by
  have e : ∀ x : Divider, x.waiting = [] → x.letIn = x := fun x hx => by simp [Divider.letIn, hx, Divider.enter]
  have hs : (d.start clock).waiting = [] := by
    obtain ⟨j, rest, -, -, he⟩ | ⟨-, he⟩ := d.start_cases clock <;> simp [he, h]
  simp [Divider.pump, e d h, e _ hs]

/-- A divider whose head batch does not fit admits none. -/
theorem Divider.letIn_full {d : Divider} {b : List Job} {rest : List (List Job)} (h : d.waiting = b :: rest)
    (hb : 64 < d.queue.length + b.length) : d.letIn = d := by
  simp [Divider.letIn, h, Divider.enter, show ¬ d.queue.length + b.length ≤ 64 by omega]

/-- Every job of a batch that waits stands, after the divider's turn, where the turn can put it. -/
theorem Divider.letIn_keeps (d : Divider) (j : Job) (h : j ∈ d.queue ∨ ∃ b ∈ d.waiting, j ∈ b) :
    j ∈ d.letIn.queue ∨ ∃ b ∈ d.letIn.waiting, j ∈ b := by
  obtain ⟨k, -, e, -⟩ := d.enter_cases d.waiting.length
  simp only [Divider.letIn, e, List.mem_append, List.mem_flatten]
  obtain h | ⟨b, hb, hj⟩ := h
  · exact .inl (.inl h)
  · rw [← List.take_append_drop k d.waiting, List.mem_append] at hb
    obtain hb | hb := hb
    · exact .inl (.inr ⟨b, hb, hj⟩)
    · exact .inr ⟨b, hb, hj⟩

/-- Admitting batches lets them enter from the head of the list, in order, until one does not fit (R110). -/
theorem Divider.letIn_entered (d : Divider) : Entered d d.letIn := by
  suffices h : ∀ n, ∀ d : Divider, d.waiting.length ≤ n → Entered d (Divider.enter n d) from h _ d le_rfl
  intro n
  induction n with
  | zero =>
    intro d h
    have hw : d.waiting = [] := List.length_eq_zero_iff.mp (by omega)
    exact ⟨rfl, rfl, [], by simp [Divider.enter], by simp [Divider.enter], nofun, by simp [Divider.enter, hw]⟩
  | succ n ih =>
    intro d h
    cases hw : d.waiting with
    | nil => exact ⟨by simp [Divider.enter, hw], by simp [Divider.enter, hw], [], by simp [Divider.enter, hw],
        by simp [Divider.enter, hw], nofun, by simp [Divider.enter, hw]⟩
    | cons b rest =>
      by_cases hb : d.queue.length + b.length ≤ 64
      · obtain ⟨h1, h2, taken, h3, h4, h5, h6⟩ := ih { d with queue := d.queue ++ b, waiting := rest }
          (by rw [hw] at h; simpa using h)
        have e : Divider.enter (n + 1) d = Divider.enter n { d with queue := d.queue ++ b, waiting := rest } := by
          simp [Divider.enter, hw, hb]
        rw [e]
        refine ⟨h1, h2, b :: taken, by rw [hw, List.cons_append, ← h3], by simp [h4], fun _ => ?_, h6⟩
        cases taken with
        | nil => simpa [h4] using hb
        | cons x xs => exact h5 nofun
      · have e : Divider.enter (n + 1) d = d := by simp [Divider.enter, hw, hb]
        rw [e]
        refine ⟨rfl, rfl, [], by simp, by simp, nofun, fun c hc => ?_⟩
        rw [hw] at hc
        cases hc
        omega

/-- The divider's turn is what R110 and R111 say. -/
theorem Divider.pump_turn (clock : Nat) (d : Divider) : DividerTurn clock d (d.pump clock) := by
  refine ⟨d.letIn, d.letIn.start clock, d.letIn_entered, Divider.letIn_entered _, fun h => ?_, fun j rest hr hq => ?_⟩
  · obtain ⟨j, rest, hr, hq, -⟩ | ⟨-, e⟩ := d.letIn.start_cases clock
    · obtain h | h := h
      · exact absurd hr h
      · rw [hq] at h; cases h
    · exact e
  · unfold Divider.start; rw [hr, hq]

/-- The end of a sweep that is in the queue posts its SWEEP_END, and no other report (R64, R65). -/
theorem endSweep_report {s : State} {id : Nat} {w : Sweep} (h : s.findSweep id = some w) (hid : w.id = id)
    (o : SweepOutcome) : (endSweep id o 0 0 s).msg = s.msg.post s.time.clock (sweepEndIn s o (s.leg w.leg).level w) := by
  subst hid
  have hp : peakCount (s.slot w.slot) = ((s.slot w.slot).content.bind (·.peaks)).elim 0 (·.length) := by
    unfold peakCount
    cases (s.slot w.slot).content.bind (·.peaks) <;> rfl
  simp only [endSweep, h, sweepEndIn, hp]
  split <;> simp [post]

/-- A batch that becomes ready is handed over as R110 and R111 say. -/
theorem Divider.ready_handed (d : Divider) (clock : Nat) (specs : List (JobOwner × Nat × Nat × Bool)) :
    Handed d (d.ready clock specs) clock (batchJobs d.batches specs) := by
  have hw : ∀ (x : Divider) (b : List Job), x.waiting = [b] → x.queue.length + b.length ≤ 64 →
      x.letIn = { x with queue := x.queue ++ b, waiting := [] } := fun x b h1 h2 => by
    simp [Divider.letIn, h1, Divider.enter, h2]
  constructor
  · exact Divider.pump_turn clock _
  · obtain ⟨j, rest, -, -, e⟩ | ⟨-, e⟩ := Divider.start_cases clock ({ d with
      waiting := d.waiting ++ [batchJobs d.batches specs], batches := d.batches + 1 } : Divider).letIn <;>
    simp [Divider.ready, Divider.pump, e]
  · intro j hj
    let x : Divider := { d with waiting := d.waiting ++ [batchJobs d.batches specs], batches := d.batches + 1 }
    have h1 := x.letIn_keeps j (.inr ⟨_, by simp [x], hj⟩)
    show (((x.letIn).start clock).letIn).running = _ ∨ j ∈ (((x.letIn).start clock).letIn).queue ∨
      ∃ b ∈ (((x.letIn).start clock).letIn).waiting, j ∈ b
    obtain ⟨i, rest, hr, hq, e⟩ | ⟨-, e⟩ := x.letIn.start_cases clock
    · rw [hq] at h1
      by_cases hi : j = i
      · left; subst hi; simp [e]
      · right
        apply Divider.letIn_keeps
        rw [e]; simpa [hi] using h1
    · rw [e]; exact .inr (Divider.letIn_keeps _ _ h1)
  · intro h1 h2 h3
    rw [Divider.ready, Divider.pump, hw { d with waiting := d.waiting ++ [batchJobs d.batches specs], batches := d.batches + 1 }
      (batchJobs d.batches specs) (by simp [h1]) h3]
    obtain ⟨_, _, hn, -⟩ | ⟨-, e⟩ := Divider.start_cases clock
      { d with queue := d.queue ++ batchJobs d.batches specs, waiting := [], batches := d.batches + 1 }
    · exact absurd hn h2
    · rw [e]; simp [Divider.letIn, Divider.enter]
  · intro h1 h2 h3 j rest hj
    rw [Divider.ready, Divider.pump, hw { d with waiting := d.waiting ++ [batchJobs d.batches specs], batches := d.batches + 1 }
      (batchJobs d.batches specs) (by simp [h1]) h3]
    simp [Divider.start, h2, hj, Divider.letIn, Divider.enter]
  · intro h1 b rest hb h3
    have e1 : ({ d with waiting := d.waiting ++ [batchJobs d.batches specs], batches := d.batches + 1 } : Divider).letIn =
      { d with waiting := d.waiting ++ [batchJobs d.batches specs], batches := d.batches + 1 } :=
        Divider.letIn_full hb h3
    rw [Divider.ready, Divider.pump, e1]
    obtain ⟨_, _, hn, -⟩ | ⟨-, e⟩ := Divider.start_cases clock
      { d with waiting := d.waiting ++ [batchJobs d.batches specs], batches := d.batches + 1 }
    · exact absurd hn h1
    · rw [e, e1]; exact ⟨rfl, rfl, rfl⟩

/-- The running pairing settles as R189, R190 and R197 say. -/
theorem settlePairing_settled {s : State} {p : Pairing} (h : s.ing.pairing = some p) (o : PairingOutcome)
    (echo position element : Option Nat) : Settled s (settlePairing o echo position element s) p o echo position element := by
  unfold Settled
  cases hc : p.closed with
  | none =>
    have e : settlePairing o echo position element s =
        ((s.setLag .reset).setIng { s.ing with pairing := none }).setIngLeg p.leg { s.ingLeg p.leg with
          record := (s.ingLeg p.leg).record.map fun r =>
            if r.serial = p.serial then r.settled o echo position element else r } := by
      simp only [settlePairing, h, hc]; rfl
    rw [e]
    refine ⟨rfl, rfl, fun _ => ⟨rfl, rfl, fun r hr hs => ?_⟩, nofun⟩
    show (((s.ing.legs.set p.leg _).get p.leg).record) = _
    rw [Quad.get_set_same]
    simp [hr, hs, BurstRecord.settled]
  | some r =>
    have e : settlePairing o echo position element s = post (.burstEnd (r.settled o echo position element))
        (updateLog p.serial (r.settled o echo position element) ((s.setLag .reset).setIng { s.ing with pairing := none })) := by
      simp only [settlePairing, h, hc]
    rw [e]
    refine ⟨rfl, rfl, nofun, fun r' hr => ?_⟩
    cases hr
    exact ⟨rfl, fun _ => rfl, rfl⟩

/-- Ageing does what R173 says. -/
theorem ageStrays_aged (g : LegId) (fedCells : List Nat) (s : State) :
    AgedStrays g fedCells (s.legSettings g).ageLimit s.stray (ageStrays g fedCells s).stray := by
  have hset : ∀ i, (ageStrays g fedCells s).stray.set i = { s.stray.set i with ways :=
      ⟨(StrayEntry.grow g fedCells (s.legSettings g).ageLimit) (s.stray.set i).ways.q0,
       (StrayEntry.grow g fedCells (s.legSettings g).ageLimit) (s.stray.set i).ways.q1,
       (StrayEntry.grow g fedCells (s.legSettings g).ageLimit) (s.stray.set i).ways.q2,
       (StrayEntry.grow g fedCells (s.legSettings g).ageLimit) (s.stray.set i).ways.q3⟩ } := by
    intro i
    show (s.stray.mapEntries _).set i = _
    unfold Strays.set Strays.mapEntries
    simp only [List.getD_eq_getElem?_getD, List.getElem?_map]
    cases s.stray.sets[i]? with
    | none => simp [StraySet.reset, Quad.all, StrayEntry.grow, StrayEntry.reset]
    | some v => simp
  refine ⟨rfl, fun i _ => ?_⟩
  rw [hset i]
  refine ⟨rfl, rfl, rfl, fun w => ?_⟩
  have hg : ∀ e : StrayEntry, StrayEntry.grow g fedCells (s.legSettings g).ageLimit e =
      if e.valid = true ∧ e.leg = g ∧ e.state = .candidate ∧ e.cell ∉ fedCells then
          { e with age := e.age + 1, valid := decide (e.age + 1 < (s.legSettings g).ageLimit) }
        else e := by
    intro e
    unfold StrayEntry.grow
    by_cases hc : e.valid = true ∧ e.leg = g ∧ e.state = .candidate ∧ e.cell ∉ fedCells
    · rw [if_pos hc]
      obtain ⟨h1, h2, h3, h4⟩ := hc
      simp only [h1, h2, h3, h4, List.contains_eq_mem, beq_self_eq_true, decide_false, Bool.not_false, Bool.and_self, if_true]
      split
      · simp [StrayEntry.invalidate, show ¬ (e.age + 1 < (s.legSettings g).ageLimit) by omega]
      · simp [show (e.age + 1 < (s.legSettings g).ageLimit) by omega]
    · rw [if_neg hc]
      rw [if_neg]
      simpa [List.contains_eq_mem, and_assoc] using hc
  match w with
  | 0 => exact hg _
  | 1 => exact hg _
  | 2 => exact hg _
  | 3 => exact hg _

/-- Feeding strays one after another is the fold of the feeds, each confirmation posted (R156, R169). -/
theorem feedStrays_fed (g : LegId) (ps : List Peak) (s : State) :
    let fed := fedStrays g s.time.timebase (s.legSettings g).confirmCount ps s.stray
    feedStrays g ps s = (s.setStray fed.1).setMsg (fed.2.foldl (fun m r => m.post s.time.clock r) s.msg) := by
  induction ps generalizing s with
  | nil => rfl
  | cons p ps ih =>
    have e : feedStrays g (p :: ps) s = feedStrays g ps (feedStray g (p.distance.getD 0) p.amplitude s) := rfl
    rw [e]
    have := ih (feedStray g (p.distance.getD 0) p.amplitude s)
    simp only at this ⊢
    rw [this]
    have h1 : (feedStray g (p.distance.getD 0) p.amplitude s).time = s.time := by simp
    have h2 : (feedStray g (p.distance.getD 0) p.amplitude s).legSettings g = s.legSettings g := by
      simp [State.legSettings, State.leg]
    rw [h1, h2]
    rw [fedStrays]
    unfold feedStray
    cases hf : (s.stray.feed g (p.distance.getD 0) p.amplitude s.time.timebase (s.legSettings g).confirmCount) with
    | mk t o =>
      cases o <;> rfl

/-- What the input carries at the first instants is what the command gives, and free beyond it (log 15). -/
theorem sampleValues_inputs (p n next : Nat) (given : List Sample) :
    sampleValues p n next given = inputs given next p n := by
  induction n generalizing next given with
  | zero => rfl
  | succ n ih =>
    have e : ∀ f : Nat → Sample, (List.range (n + 1)).map f = f 0 :: (List.range n).map fun j => f (j + 1) := fun f => by
      rw [List.range_succ_eq_map]; simp [Function.comp_def]
    unfold inputs
    rw [e]
    cases given with
    | nil =>
      simp only [sampleValues, ih, inputs, inputAt, List.getD_nil, Nat.zero_mul, Nat.add_zero]
      congr 1
      apply List.map_congr_left
      intro j _
      rw [Nat.succ_mul, inputAt, Nat.add_assoc, Nat.add_comm p]; try rfl
    | cons x xs =>
      simp only [sampleValues, ih, inputs, inputAt, List.getD_cons_zero, List.getD_cons_succ]
      congr 1
      apply List.map_congr_left
      intro j _
      rw [Nat.succ_mul, inputAt, Nat.add_assoc, Nat.add_comm p]; try rfl

/-- Samples at an end of the range, told from their bits (R81). -/
theorem atRangeEnd_toInt (x : Sample) : (x.toInt == -2048 || x.toInt == 2047) = atRangeEnd x := by
  revert x; decide

/-- What a sampling that begins at `start` has written by a clock at or after it (R80 to R82). -/
theorem Capture.sampleTo_fresh {c : Capture} {h : HalfId} {start d all : Nat} {given : List Sample}
    (hs : c.sampling = some ⟨start, d, all, given⟩) (hf : c.inState .filling = some h) (hp : c.position = 0) (hd : 1 ≤ d)
    (hl : all ≤ (c.half h).samples.length) {clock : Nat} (hc : start ≤ clock) :
    let taken := min all ((clock - start) / d + 1)
    (c.sampleTo clock).half h = { c.half h with
        samples := inputs given start d taken ++ (c.half h).samples.drop taken
        clip := (c.half h).clip || (c.stream == .acquisition && (inputs given start d taken).any atRangeEnd) } ∧
      (c.sampleTo clock).position = taken := by
  intro taken
  have hdue : (⟨start, d, all, given⟩ : Sampling).due clock = taken := by
    simp only [Sampling.due, show ¬ clock < start by omega, show d ≠ 0 by omega, if_false, taken]
  have ht : taken ≤ (c.half h).samples.length := (Nat.min_le_left ..).trans hl
  rw [Capture.sampleTo_some hs, hdue]
  simp only [sampleValues_inputs]
  obtain ⟨hn, -⟩ | ⟨k, hk, e⟩ := Capture.write_cases (inputs given start d taken) c
  · rw [hf] at hn; cases hn
  · rw [hf] at hk; cases hk
    have hw : writeSamples 0 (inputs given start d taken) (c.half h).samples =
        inputs given start d taken ++ (c.half h).samples.drop taken := by
      have hlen : (inputs given start d taken).length = taken := by simp [inputs]
      simp only [writeSamples, List.take_zero, List.nil_append, Nat.sub_zero, Nat.zero_add, hlen]
      rw [List.take_of_length_le (by omega)]
    have hlen : (inputs given start d taken).length = taken := by simp [inputs]
    rw [e, hp, hw]
    refine ⟨?_, ?_⟩
    · show Capture.half (c.setHalf h _) h = _
      rw [Capture.half_setHalf]
      simp only [atRangeEnd_toInt]
    · simp [hlen]

/-- The chip in force after `k` steps is the code's chip `k` (R74). -/
theorem chipOf_codeAfter (l n k : Nat) (stages : List Bool) (h : k < n) :
    chipOf (codeAfter l k stages) = (chipsFrom l n stages).getD k 0 := by
  induction k generalizing n stages with
  | zero =>
    cases n with
    | zero => omega
    | succ n => rfl
  | succ k ih =>
    cases n with
    | zero => omega
    | succ n => exact ih n (codeStep l stages) (by omega)

end Sys2Proof.Machine
end

