-- ==== Sys2Proof/Laws/PerInstr.lean ====
section
/-! SUPPORT. Statements made once for each command: what a well-formed request command brings fits in a frame of R2. -/

namespace Sys2Proof.Laws.FramesFit

open Sys2Proof Sys2Proof.Machine

/-- A well-formed command that brings a frame brings one of 7 to 1,031 bytes (R2). -/
def Statement (i : Instr) : Prop :=
  i.wellFormed = true → ∀ f, i.frame = some f → 7 ≤ f.bytes.length ∧ f.bytes.length ≤ 1031

/-- The bytes of a frame: SYNC, LENGTH, KIND, TAG, the payload and the CRC (R2). -/
theorem bytes_length (f : Frame) : f.bytes.length = 7 + f.payload.length := by
  simp [Frame.bytes, Frame.covered, le]
  omega

/-- A payload of at most 1,024 bytes makes a frame of at most 1,031. -/
theorem fits {p : List Byte} {kind tag : Byte} (h : payloadFits p = true) (f : Frame) (hf : some (Frame.mk kind tag p) = some f) :
    7 ≤ f.bytes.length ∧ f.bytes.length ≤ 1031 := by
  cases hf
  have := of_decide_eq_true h
  rw [bytes_length]
  simp only
  omega

theorem byteArrival (after : Nat) (b : Byte) : Statement (.byteArrival after b) := fun _ f hf => nomatch (hf : none = some f)

theorem frameDelayExpiry : Statement (.frameDelayExpiry) := fun _ f hf => nomatch (hf : none = some f)

theorem unknownKind (after : Nat) (kind tag : Byte) (payload : List Byte) : Statement (.unknownKind after kind tag payload) := fun h f hf => fits ((Bool.and_eq_true _ _).mp h).1 f hf

theorem statusGet (after : Nat) (tag : Byte) (payload : List Byte) : Statement (.statusGet after tag payload) := fun h f hf => fits h f hf

theorem restart (after : Nat) (tag : Byte) (payload : List Byte) : Statement (.restart after tag payload) := fun h f hf => fits h f hf

theorem timeSet (after : Nat) (tag : Byte) (payload : List Byte) : Statement (.timeSet after tag payload) := fun h f hf => fits h f hf

theorem timeGet (after : Nat) (tag : Byte) (payload : List Byte) : Statement (.timeGet after tag payload) := fun h f hf => fits h f hf

theorem windowGrant (after : Nat) (tag : Byte) (payload : List Byte) : Statement (.windowGrant after tag payload) := fun h f hf => fits h f hf

theorem windowRevoke (after : Nat) (tag : Byte) (payload : List Byte) : Statement (.windowRevoke after tag payload) := fun h f hf => fits h f hf

theorem windowList (after : Nat) (tag : Byte) (payload : List Byte) : Statement (.windowList after tag payload) := fun h f hf => fits h f hf

theorem windowOpen : Statement (.windowOpen) := fun _ f hf => nomatch (hf : none = some f)

theorem windowClose : Statement (.windowClose) := fun _ f hf => nomatch (hf : none = some f)

theorem legSet (after : Nat) (tag : Byte) (payload : List Byte) : Statement (.legSet after tag payload) := fun h f hf => fits h f hf

theorem legEnable (after : Nat) (tag : Byte) (payload : List Byte) : Statement (.legEnable after tag payload) := fun h f hf => fits h f hf

theorem legDisable (after : Nat) (tag : Byte) (payload : List Byte) : Statement (.legDisable after tag payload) := fun h f hf => fits h f hf

theorem legGet (after : Nat) (tag : Byte) (payload : List Byte) : Statement (.legGet after tag payload) := fun h f hf => fits h f hf

theorem classSet (after : Nat) (tag : Byte) (payload : List Byte) : Statement (.classSet after tag payload) := fun h f hf => fits h f hf

theorem classGet (after : Nat) (tag : Byte) (payload : List Byte) : Statement (.classGet after tag payload) := fun h f hf => fits h f hf

theorem sweepReq (after : Nat) (tag : Byte) (payload : List Byte) : Statement (.sweepReq after tag payload) := fun h f hf => fits h f hf

theorem sweepCancel (after : Nat) (tag : Byte) (payload : List Byte) : Statement (.sweepCancel after tag payload) := fun h f hf => fits h f hf

theorem sweepList (after : Nat) (tag : Byte) (payload : List Byte) : Statement (.sweepList after tag payload) := fun h f hf => fits h f hf

theorem burstPhase (samples : List Sample) : Statement (.burstPhase samples) := fun _ f hf => nomatch (hf : none = some f)

theorem listenPhase (samples : List Sample) : Statement (.listenPhase samples) := fun _ f hf => nomatch (hf : none = some f)

theorem acquisitionEnd (samples : List Sample) : Statement (.acquisitionEnd samples) := fun _ f hf => nomatch (hf : none = some f)

theorem snapshotSettleEnd (samples : List Sample) : Statement (.snapshotSettleEnd samples) := fun _ f hf => nomatch (hf : none = some f)

theorem snapshotComplete (samples : List Sample) : Statement (.snapshotComplete samples) := fun _ f hf => nomatch (hf : none = some f)

theorem acquisitionJobComplete (after : Nat) : Statement (.acquisitionJobComplete after) := fun _ f hf => nomatch (hf : none = some f)

theorem snapshotJobComplete (after : Nat) : Statement (.snapshotJobComplete after) := fun _ f hf => nomatch (hf : none = some f)

theorem analysisComplete (after : Nat) (slot : SlotId) : Statement (.analysisComplete after slot) := fun _ f hf => nomatch (hf : none = some f)

theorem divisionComplete : Statement (.divisionComplete) := fun _ f hf => nomatch (hf : none = some f)

theorem profileRead (after : Nat) (tag : Byte) (payload : List Byte) : Statement (.profileRead after tag payload) := fun h f hf => fits h f hf

theorem peaksRead (after : Nat) (tag : Byte) (payload : List Byte) : Statement (.peaksRead after tag payload) := fun h f hf => fits h f hf

theorem elementPut (after : Nat) (tag : Byte) (payload : List Byte) : Statement (.elementPut after tag payload) := fun h f hf => fits h f hf

theorem elementDrop (after : Nat) (tag : Byte) (payload : List Byte) : Statement (.elementDrop after tag payload) := fun h f hf => fits h f hf

theorem mapClear (after : Nat) (tag : Byte) (payload : List Byte) : Statement (.mapClear after tag payload) := fun h f hf => fits h f hf

theorem mapRead (after : Nat) (tag : Byte) (payload : List Byte) : Statement (.mapRead after tag payload) := fun h f hf => fits h f hf

theorem scoreClear (after : Nat) (tag : Byte) (payload : List Byte) : Statement (.scoreClear after tag payload) := fun h f hf => fits h f hf

theorem strayList (after : Nat) (tag : Byte) (payload : List Byte) : Statement (.strayList after tag payload) := fun h f hf => fits h f hf

theorem strayClear (after : Nat) (tag : Byte) (payload : List Byte) : Statement (.strayClear after tag payload) := fun h f hf => fits h f hf

theorem ingressSet (after : Nat) (tag : Byte) (payload : List Byte) : Statement (.ingressSet after tag payload) := fun h f hf => fits h f hf

theorem surveyOpen (after : Nat) (tag : Byte) (payload : List Byte) : Statement (.surveyOpen after tag payload) := fun h f hf => fits h f hf

theorem surveyClose (after : Nat) (tag : Byte) (payload : List Byte) : Statement (.surveyClose after tag payload) := fun h f hf => fits h f hf

theorem surveyRead (after : Nat) (tag : Byte) (payload : List Byte) : Statement (.surveyRead after tag payload) := fun h f hf => fits h f hf

theorem logTake (after : Nat) (tag : Byte) (payload : List Byte) : Statement (.logTake after tag payload) := fun h f hf => fits h f hf

theorem watchGet (after : Nat) (tag : Byte) (payload : List Byte) : Statement (.watchGet after tag payload) := fun h f hf => fits h f hf

theorem ingressScan (leg : LegId) (levels : List Int) : Statement (.ingressScan leg levels) := fun _ f hf => nomatch (hf : none = some f)

theorem temperatureConversion (sensor : Int) : Statement (.temperatureConversion sensor) := fun _ f hf => nomatch (hf : none = some f)

theorem frameSent : Statement (.frameSent) := fun _ f hf => nomatch (hf : none = some f)

theorem powerUp : Statement (.powerUp) := fun _ f hf => nomatch (hf : none = some f)

end Sys2Proof.Laws.FramesFit
end

