-- ==== Sys2Proof/Laws/Together.lean ====
section
/-! SUPPORT. Blocks that act at one moment in a free order (log 7): every action of every block is taken. -/

namespace Sys2Proof.Machine

open Sys2Proof

/-- What every action keeps, the actions in turn keep. -/
theorem foldActions_keeps {P : State → Prop} : ∀ (l : List (State → State)) (t : State),
    (∀ f ∈ l, ∀ u, P u → P (f u)) → P t → P (l.foldl (fun t f => f t) t)
  | [], _, _, h => h
  | f :: l, t, hl, h =>
    foldActions_keeps l (f t) (fun g hg => hl g (List.mem_cons_of_mem _ hg)) (hl f List.mem_cons_self t h)

/-- What one action establishes while a count stays below `c`, every action keeping it and raising the count by at most one, holds
after the actions in turn when the count leaves room for all of them. -/
theorem foldActions_reaches {P : State → Prop} {f : State → State} {count : State → Nat} {c : Nat}
    (est : ∀ t, count t < c → P (f t)) (l : List (State → State)) (t : State) (hm : f ∈ l)
    (hl : ∀ g ∈ l, ∀ u, P u → P (g u)) (hc : ∀ g ∈ l, ∀ u, count (g u) ≤ count u + 1) (room : count t + l.length ≤ c) :
    P (l.foldl (fun t f => f t) t) := by
  induction l generalizing t with
  | nil => exact absurd hm List.not_mem_nil
  | cons g l ih =>
    have hl' : ∀ h ∈ l, ∀ u, P u → P (h u) := fun h hh => hl h (List.mem_cons_of_mem _ hh)
    rw [List.length_cons] at room
    cases List.mem_cons.1 hm with
    | inl hfg => subst hfg; exact foldActions_keeps l _ hl' (est t (by omega))
    | inr hm =>
      have := hc g List.mem_cons_self t
      exact ih _ hm hl' (fun h hh => hc h (List.mem_cons_of_mem _ hh)) (show count (g t) + l.length ≤ c by omega)

/-- Blocks with nothing left to do hold no action. -/
theorem flatten_filter_nonempty {α : Type} (bs : List (List α)) :
    (bs.filter fun b => !b.isEmpty).flatten = bs.flatten := by
  induction bs with
  | nil => rfl
  | cons b bs ih => cases b <;> simp_all

/-- What one action establishes while a count stays below `c`, every action keeping it and raising the count by at most one, holds
after the free interleaving (log 7) when the count leaves room for all of them: every action of every block is taken. -/
theorem interleave_reaches {P : State → Prop} {f : State → State} {count : State → Nat} {c : Nat}
    (hd : ∀ s n, P s → P (s.setDraws n)) (hdc : ∀ s n, count (s.setDraws n) = count s) (est : ∀ t, count t < c → P (f t)) :
    ∀ (n : Nat) (blocks : List (List (State → State))) (s : State), blocks.flatten.length < n → f ∈ blocks.flatten →
      (∀ b ∈ blocks, ∀ g ∈ b, ∀ t, P t → P (g t)) → (∀ b ∈ blocks, ∀ g ∈ b, ∀ t, count (g t) ≤ count t + 1) →
      count s + blocks.flatten.length ≤ c → P (interleave n blocks s)
  | 0, _, _, h, _, _, _, _ => absurd h (Nat.not_lt_zero _)
  | n + 1, blocks, s, hn, hf, hk, hc, room => by
    unfold interleave
    rw [← flatten_filter_nonempty] at hn hf room
    have hc' : ∀ b ∈ blocks.filter (fun b => !b.isEmpty), ∀ g ∈ b, ∀ t, count (g t) ≤ count t + 1 :=
      fun b hb => hc b (List.mem_of_mem_filter hb)
    have hk' : ∀ b ∈ blocks.filter (fun b => !b.isEmpty), ∀ g ∈ b, ∀ t, P t → P (g t) :=
      fun b hb => hk b (List.mem_of_mem_filter hb)
    have hne : ∀ b ∈ blocks.filter (fun b => !b.isEmpty), b ≠ [] := by
      intro b hb hbe
      simpa [hbe] using (List.mem_filter.1 hb).2
    generalize blocks.filter (fun b => !b.isEmpty) = bs at hn hf hk' hc' hne room ⊢
    split
    · simp at hf
    · rename_i b
      exact foldActions_reaches est b s (by simpa using hf) (hk' b List.mem_cons_self) (hc' b List.mem_cons_self)
        (by simpa using room)
    · rename_i h1 h2
      have hlen : 0 < bs.length := List.length_pos_of_ne_nil h1
      dsimp only
      generalize hi : Config.nextBlock s.draws % bs.length = i
      have hil : i < bs.length := hi ▸ Nat.mod_lt _ hlen
      have hget : bs.getD i [] = bs[i] := by simp [List.getD_eq_getElem?_getD, hil]
      rw [hget]
      split
      · rename_i hb
        exact absurd hb (hne _ (List.getElem_mem hil))
      · rename_i g rest hb
        have hmem : g :: rest ∈ bs := hb ▸ List.getElem_mem hil
        have hbs : bs = bs.take i ++ (g :: rest) :: bs.drop (i + 1) := by
          conv_lhs => rw [← List.take_append_drop i bs, List.drop_eq_getElem_cons hil, hb]
        have hset : bs.set i rest = bs.take i ++ rest :: bs.drop (i + 1) := List.set_eq_take_append_cons_drop .. |>.trans (by simp [hil])
        have hk2 : ∀ b ∈ bs.set i rest, ∀ h ∈ b, ∀ t, P t → P (h t) := by
          intro b hb' h hh t ht
          rcases List.mem_or_eq_of_mem_set hb' with hb' | rfl
          · exact hk' b hb' h hh t ht
          · exact hk' _ hmem h (List.mem_cons_of_mem _ hh) t ht
        have hc2 : ∀ b ∈ bs.set i rest, ∀ h ∈ b, ∀ t, count (h t) ≤ count t + 1 := by
          intro b hb' h hh t
          rcases List.mem_or_eq_of_mem_set hb' with hb' | rfl
          · exact hc' b hb' h hh t
          · exact hc' _ hmem h (List.mem_cons_of_mem _ hh) t
        have hg := hc' _ hmem g List.mem_cons_self (s.setDraws (s.draws + 1))
        rw [hdc] at hg
        have hsize : bs.flatten.length = (bs.set i rest).flatten.length + 1 := by
          rw [hset]
          conv_lhs => rw [hbs]
          simp only [List.flatten_append, List.flatten_cons, List.length_append, List.length_cons, List.cons_append]
          omega
        have hsplit : ∀ h, h ∈ bs.flatten → h = g ∨ h ∈ (bs.set i rest).flatten := by
          intro h hh
          rw [hbs] at hh
          rw [hset]
          simp only [List.flatten_append, List.flatten_cons, List.mem_append, List.mem_cons] at hh ⊢
          tauto
        rcases hsplit f hf with rfl | hf2
        · exact interleave_keeps hd n _ _ hk2 (est _ (by rw [hdc]; omega))
        · exact interleave_reaches hd hdc est n _ _ (by omega) hf2 hk2 hc2 (by omega)

/-- What one action establishes while a count stays below `c` holds after all the blocks together (log 7), when every action
keeps it and raises the count by at most one, and the count leaves room for all of them. -/
theorem together_reaches_room {P : State → Prop} {f : State → State} {count : State → Nat} {c : Nat}
    (hd : ∀ s n, P s → P (s.setDraws n)) (hdc : ∀ s n, count (s.setDraws n) = count s) (est : ∀ t, count t < c → P (f t))
    (blocks : List (List (State → State))) (s : State) (hf : f ∈ blocks.flatten)
    (hk : ∀ b ∈ blocks, ∀ g ∈ b, ∀ t, P t → P (g t)) (hc : ∀ b ∈ blocks, ∀ g ∈ b, ∀ t, count (g t) ≤ count t + 1)
    (room : count s + blocks.flatten.length ≤ c) : P (together blocks s) :=
  interleave_reaches hd hdc est _ blocks s (Nat.lt_succ_self _) hf hk hc room

/-- What one action establishes and every action keeps holds after all the blocks together (log 7). -/
theorem together_reaches {P : State → Prop} {f : State → State} (hd : ∀ s n, P s → P (s.setDraws n))
    (est : ∀ t, P (f t)) (blocks : List (List (State → State))) (s : State) (hf : f ∈ blocks.flatten)
    (hk : ∀ b ∈ blocks, ∀ g ∈ b, ∀ t, P t → P (g t)) : P (together blocks s) :=
  together_reaches_room (count := fun _ => 0) (c := blocks.flatten.length) hd (fun _ _ => rfl) (fun t _ => est t) blocks s hf hk
    (fun _ _ _ _ _ => Nat.zero_le _) (by omega)

end Sys2Proof.Machine
end

