-- ==== Sys2Proof/Tests/Slice0.lean ====
section
/-! SUPPORT. The model's own tests: the ill-formed terms, the worked examples of the manual, and one witness for each statement
that has hypotheses. The expected values are the manual's; the place is named with each test. -/

namespace Sys2Proof.Tests

open Sys2Proof Sys2Proof.Machine

set_option Elab.async false

/-! ### Small states -/

/-- A running part at its reset values, with nothing on the line. -/
def live : State := State.reset.setInReset false

/-- Settings of a leg like that of 9.11. -/
def settings0 : Settings where
  codeLength   := 255
  chipDivider  := 2
  profileBins  := 512
  blank        := 40
  floor        := 500
  carrier      := 30
  startLevel   := 48
  aLo          := 600
  aHi          := 900
  upStep       := 2
  downStep     := 2
  faultLimit   := 3
  vfMilli      := 870
  tolerance    := 30
  missLimit    := 3
  confirmCount := 2
  ageLimit     := 20
  trim         := 0
  ctUp         := 2
  ctDn         := 3

/-- The running part with leg 0 ENABLED at level 48, every bin FREE, and the calibration of 9.11. -/
def wired : State :=
  ((live.setLegs (live.legs.set 0 ⟨some settings0, .enabled, 48, 0, 0⟩)).setPlan ⟨List.replicate 64 .free, 64⟩).setArith
    ⟨20, 200000000, (Quad.all none).set 0 (some ⟨16692, 20⟩)⟩

/-- The state of an outcome, or the reset state when there is none. -/
def after : Host.Outcome State Fault Refusal → State
  | .next s => s
  | _ => .reset

/-- A part whose transmitter is sending a frame. -/
def busy (s : State) : State := s.setMsg { s.msg with tx := some ⟨⟨0x60, 0, []⟩, false, 0⟩ }

/-- The payload of the frame the transmitter is sending. -/
def sent (s : State) : List Byte := (s.msg.tx.map fun x => x.frame.payload).getD []

/-- A part whose message controller is as after reset is ready for a request. -/
theorem ready_of {s : State} (hm : s.msg = Message.reset) (hr : s.inReset = false) : Ready s := by
  constructor <;> simp [hm, hr, Message.reset]

/-! ### Ill-formed terms -/

theorem test_wellFormed_long_payload : (Instr.statusGet 0 0 (List.replicate 1025 0)).wellFormed = false := by decide +kernel
theorem test_wellFormed_known_kind : (Instr.unknownKind 0 0x01 0 []).wellFormed = false := by decide +kernel
theorem test_wellFormed_too_many_samples : (Instr.burstPhase (List.replicate 2049 0)).wellFormed = false ∧
    (Instr.snapshotSettleEnd (List.replicate 2049 0)).wellFormed = false ∧
    (Instr.listenPhase (List.replicate 2049 0)).wellFormed = false := by decide +kernel
theorem test_wellFormed_too_few_levels : (Instr.ingressScan 0 (List.replicate 63 0)).wellFormed = false := by
  decide +kernel
theorem test_wellFormed_accepts : (Instr.unknownKind 0 0x05 0 (List.replicate 1024 0)).wellFormed = true ∧
    (Instr.ingressScan 3 (List.replicate 64 0)).wellFormed = true ∧
    (Instr.burstPhase (List.replicate 2048 0)).wellFormed = true ∧ Instr.burstPhase.wellFormed = true := by decide +kernel

/-! ### The table has no words -/

/-- opcode_table.json gives no row bits (log 21). -/
theorem test_decode_none : decodeTableWord 8 0xB6 = none ∧ live.withFetchWord 8 0xB6 = live := ⟨rfl, rfl⟩

/-! ### The line (1.2, 1.3, 1.9) -/

/-- R16: HELLO's bytes. -/
theorem test_powerUp_hello : sent (after (exec .powerUp .reset)) = [0x16, 0x04, 0x01, 0x01] := by decide +kernel

/-- R1: SYNC, 0xB6, in the middle of its ten bits on the line as HELLO is sent; an IDLE line is high. -/
theorem test_line : ((List.range 10).map fun k => lineLevel ((after (exec .powerUp .reset)).after (434 + 868 * k)))
      = [false, false, true, true, false, true, true, false, true, true] ∧
    lineLevel live = true ∧ receivedByte [false, false, true, true, false, true, true, false, true, false] = 0xB6 := by
  decide +kernel

/-- 1.2: the STATUS_GET frame with TAG 5. -/
theorem test_frame_statusGet :
    (Frame.mk 0x01 0x05 []).bytes = [0xB6, 0x02, 0x00, 0x01, 0x05, 0x3C, 0x0A] := by decide +kernel

/-- The state before the last event of 1.3, A false SYNC before a request: a stray 0xB6 and the host's seven bytes. -/
def falseSync : State := live.setMsg { live.msg with assembler :=
  ⟨.body, 0, [⟨0xB6, 10⟩, ⟨0x02, 20⟩, ⟨0x00, 30⟩, ⟨0x01, 40⟩, ⟨0x05, 50⟩, ⟨0x3C, 60⟩, ⟨0x0A, 70⟩], 0⟩ }

/-- 1.3: 5 ms after the last byte one error is counted and the request inside is served. -/
theorem test_frameDelayExpiry_false_sync :
    (after (exec .frameDelayExpiry falseSync)).msg.frameErrors = 1 ∧
      (after (exec .frameDelayExpiry falseSync)).time.clock = 1000070 ∧
      ((after (exec .frameDelayExpiry falseSync)).msg.tx.map fun x => (x.frame.kind, x.frame.tag)) = some (0x81, 0x05) := by
  decide +kernel

/-- R4: SYNC is taken in HUNT, another byte is passed over. -/
theorem test_byteArrival : (after (exec (.byteArrival 5 0xB6) live)).msg.assembler.mode = .length ∧
    (after (exec (.byteArrival 5 0xB7) live)).msg.assembler.mode = .hunt := by decide +kernel

/-- R9: a refused request of kind 0x92 is answered with kind 0x12. -/
theorem test_unknownKind : ((after (exec (.unknownKind 0 0x92 9 []) live)).msg.tx.map fun x => x.frame)
    = some ⟨0x12, 9, [0x02]⟩ := by decide +kernel

/-- 12.3: the STATUS_GET reply has 22 bytes; its temperature after reset is 25. -/
theorem test_statusGet : (sent (after (exec (.statusGet 0 1 []) live))).length = 22 ∧
    (sent (after (exec (.statusGet 0 1 []) live)))[7]? = some 25 := by decide +kernel

/-! ### Windows (2.11) -/

/-- The table of 2.11 before its first TIME_SET. -/
def table211 : State := (live.setTime ⟨200400000, 1002000⟩).setWin
  ⟨[⟨1, 1200000, 1220000, ⟨true, true, false, false⟩, .pending, 0⟩,
    ⟨2, 1220000, 1250000, ⟨false, false, true, false⟩, .pending, 0⟩,
    ⟨3, 1500000, 1501000, ⟨false, false, false, true⟩, .pending, 0⟩], 4⟩

/-- 2.11: TIME_SET 1,230,000 leaves window 2 OPEN and window 3 PENDING. -/
theorem test_timeSet : ((after (exec (.timeSet 0 1 (le 6 1230000)) (busy table211))).win.table.map fun w => (w.id, w.state))
    = [(2, .opened), (3, .pending)] ∧ (after (exec (.timeSet 0 1 (le 6 1230000)) (busy table211))).time.timebase = 1230000 := by
  decide +kernel

/-- 2.11: the grant that overlaps window 1, and the adjacent one's place and id. -/
theorem test_windowGrant :
    sent (after (exec (.windowGrant 0 1 (le 6 1210000 ++ le 4 5000 ++ [1])) table211)) = [9] ∧
    sent (after (exec (.windowGrant 0 1 (le 6 1300000 ++ le 4 2000 ++ [5])) table211)) = [0, 4] := by decide +kernel

/-- 2.11: the revocation of a PENDING window, and of an id not in the table. -/
theorem test_windowRevoke : sent (after (exec (.windowRevoke 0 1 [3]) table211)) = [0, 0] ∧
    sent (after (exec (.windowRevoke 0 1 [9]) table211)) = [6] := by decide +kernel

/-- R26, R27: window 1 opens at its start; at its end the adjacent window 2 opens in the same event. -/
theorem test_window_events :
    ((after (exec .windowOpen table211)).win.table.map (·.state)) = [.opened, .pending, .pending] ∧
    ((after (exec .windowClose (after (exec .windowOpen table211)))).win.table.map fun w => (w.id, w.state))
      = [(2, .opened), (3, .pending)] := by decide +kernel

/-- 12.3: 8 + 17 × count bytes. -/
theorem test_windowList : (sent (after (exec (.windowList 0 1 []) table211))).length = 59 := by decide +kernel

/-- R19. -/
theorem test_timeGet : sent (after (exec (.timeGet 200 1 []) table211)) = [0x00, 0x11, 0x4A, 0x0F, 0, 0, 0] := by
  decide +kernel

/-! ### Legs and the plan -/

/-- The 27 bytes of a LEG_SET for a leg. -/
def legBytes (leg : Byte) : List Byte := [leg] ++ settings0.layout

/-- R42: a carrier below the half-width of D = 2 is refused; R119: Q_nom of VF_milli 870 is 16,692 (7.5). -/
theorem test_legSet : sent (after (exec (.legSet 0 1 (legBytes 1)) live)) = [0] ∧
    (after (exec (.legSet 0 1 (legBytes 1)) live)).arith.cal.get 1 = some ⟨16692, 25⟩ ∧
    sent (after (exec (.legSet 0 1 ([1] ++ { settings0 with carrier := 15 }.layout)) live)) = [3] := by decide +kernel

/-- R45: the countdown starts at 500. -/
theorem test_legEnable : ((after (exec (.legEnable 0 1 [0]) (wired.setLegs (wired.legs.set 0
    ⟨some settings0, .off, 5, 7, 0⟩)))).leg 0) = ⟨some settings0, .enabled, 48, 0, 500⟩ := by decide +kernel

/-- R46. -/
theorem test_legDisable : ((after (exec (.legDisable 0 1 [0]) wired)).leg 0).state = .off ∧
    sent (after (exec (.legDisable 0 1 [1]) wired)) = [10] := by decide +kernel

/-- 12.3: 40 bytes, all of the settings group zero for a leg without settings. -/
theorem test_legGet : (sent (after (exec (.legGet 0 1 [0]) wired))).length = 40 ∧
    sent (after (exec (.legGet 0 1 [1]) wired)) = List.replicate 40 0 := by decide +kernel

/-- R35: a count of 0 sets the limit alone; a range past bin 63 is refused. -/
theorem test_classSet : (after (exec (.classSet 0 1 [63, 0, 10]) wired)).plan = ⟨List.replicate 64 .free, 10⟩ ∧
    sent (after (exec (.classSet 0 1 [63, 2, 10, 0, 0]) wired)) = [3] := by decide +kernel

/-- 12.3: 66 bytes; FIXED is 2. -/
theorem test_classGet : sent (after (exec (.classGet 0 1 []) live)) = [0, 0] ++ List.replicate 64 2 := by decide +kernel

/-! ### Sweeps and captures -/

/-- The T_acq table of 4.2. -/
theorem test_acquisition_times :
    [(255, 2, 1024), (255, 4, 512), (127, 8, 512), (511, 16, 1024)].map (fun x => acquisitionMicros
      { settings0 with codeLength := x.1, chipDivider := x.2.1, profileBins := x.2.2 }) = [18, 23, 33, 166] := by
  decide +kernel

/-- The leg of 12.5 and a sweep order for it: the reply is OK, sweep 1, T_acq 23. -/
def leg125 : State := wired.setLegs (wired.legs.set 1 ⟨some { settings0 with chipDivider := 4 }, .enabled, 48, 0, 0⟩)

/-- 12.5: the accepted order, BASELINE with CALIBRATE, an option without a name, and a fifth byte. -/
theorem test_sweepReq : sent (after (exec (.sweepReq 0 1 [1, 0, 4, 1]) leg125)) = [0x00, 0x01, 0x17, 0x00] ∧
    sent (after (exec (.sweepReq 0 1 [1, 0, 4, 6]) leg125)) = [0x03] ∧
    sent (after (exec (.sweepReq 0 1 [1, 0, 4, 8]) leg125)) = [0x03] ∧
    sent (after (exec (.sweepReq 0 1 [1, 0, 4, 1, 0]) leg125)) = [0x01] := by decide +kernel

/-- The state after that order, its first acquisition in flight and the line free again. -/
def flying : State := ((after (exec (.sweepReq 0 1 [1, 0, 4, 1]) leg125)).setMsg Message.reset)

/-- R57: the acquisition starts at the dispatch. -/
theorem test_sweep_starts : flying.probe.phase = .settle ∧ flying.cap.half0.state = .filling ∧
    (flying.slot 0).state = .filling := by decide +kernel

/-- R66: cancelled; the reply carries ACQUIRING, started 1, done 0. -/
theorem test_sweepCancel : (after (exec (.sweepCancel 0 1 [1]) (busy flying))).seq.queue = [] ∧
    ((after (exec (.sweepCancel 0 1 [1]) (busy flying))).slot 0) = ⟨.free, none⟩ := by decide +kernel

/-- 12.3: 20 + 13 × count bytes. -/
theorem test_sweepList : (sent (after (exec (.sweepList 0 1 []) flying))).length = 33 := by decide +kernel

/-- What the input carries in the tests: an end of the range as sample 509, the last of the burst of leg 1, and 5 after it. -/
def line : List Sample := (List.replicate 509 1) ++ [0x7FF] ++ List.replicate 1000 5

/-- The burst of `flying`, `n` cycles after it began. -/
def burst (n : Nat) : State := (after (exec (.burstPhase line) flying)).after n

/-- R78, R79, R80: the burst begins 2,000 ns after the start, with the gate open on a window-free band; a sample is taken there, and
the next 5·4 ns later; each as soon as time passes. -/
theorem test_burstPhase : ((burst 0).time.clock, (burst 0).probe.phase, (burst 0).transmitting, (burst 0).cap.position)
    = (400, .burst, true, 1) ∧ (burst 3).cap.position = 1 ∧ (burst 4).cap.position = 2 := by decide +kernel

/-- R75, R76, 5.1: a chip lasts 8 cycles, and the first -1 of L = 255 is chip 8; the carrier of bin 30, P = 1,017, has turned by
P / 2048 after a cycle; R77: the level of 48 is 15 half-dB below the maximum. -/
theorem test_burst_output : ([0, 1, 63, 64].map fun n => (probeOutput (burst n)).map fun o => (o.chip, o.phase))
      = [some (1, 0), some (1, 1017), some (1, 583), some (-1, 1600)] ∧
    (probeOutput (burst 0)).map (fun o => (o.steps, o.attenuation, o.chipPeriod)) = some (1017, 15, 40) ∧
    probeOutput (burst 2040) = none := by decide +kernel

/-- R78: the burst of 255 chips of 40 ns ends 12,200 ns after the start; R81: sample 509, taken 12,180 ns after it, sets the clip
mark. -/
theorem test_listenPhase : (after (exec (.listenPhase []) (burst 0))).time.clock = 2440 ∧
    (after (exec (.listenPhase []) (burst 0))).probe.phase = .listen ∧
    (after (exec (.listenPhase []) (burst 0))).cap.half0.clip = true ∧ (burst 2035).cap.half0.clip = false := by decide +kernel

/-- R60, R80: 23 µs after its start the acquisition ends with its 1,022 samples taken; the correlator takes half 0 and half 1 starts
to fill. -/
theorem test_acquisitionEnd : let t := after (exec (.acquisitionEnd []) (after (exec (.listenPhase []) (burst 0))))
    t.time.clock = 4600 ∧ t.cap.half0.state = .correlating ∧ t.cap.half1.state = .filling ∧
      t.cap.half0.samples.take 1022 = line.take 1022 ∧ t.cap.half0.samples[1022]? = some 0 := by decide +kernel

/-- Log 15: samples told with BURST_PHASE, LISTEN_PHASE and ACQUISITION_END make one run: 2L + 1 of them, to the first of the listen,
fall before LISTEN_PHASE. -/
theorem test_told_samples : let t := after (exec (.acquisitionEnd (line.drop 511)) (after (exec (.listenPhase ((line.take 511).drop 2))
      (after (exec (.burstPhase (line.take 2)) flying)))))
    t.cap.half0.samples.take 1022 = line.take 1022 := by decide +kernel

/-- R85: a burst cut off after 3 samples keeps them in its void half, which went FULL at that instant. -/
theorem test_cut_off : let t := abandon ((burst 8).setCor ⟨some ⟨.h1, 0⟩⟩)
    (t.cap.half0.state, t.cap.half0.void, t.cap.half0.fillOrder) = (.full, true, some 408) ∧
      t.cap.half0.samples.take 4 = [1, 1, 1, 0] := by decide +kernel

/-- A snapshot of leg 0 just granted. -/
def snapping : State := after (exec (.ingressScan 0 (List.replicate 64 0)) ((wired.setMap
  (wired.map.set 0 ⟨[.fresh 1 .tap true 500], 1⟩))))

/-- Its sampling, begun. -/
def sampling : State := after (exec (.snapshotSettleEnd (List.replicate 1024 (0x800 : Sample))) snapping)

/-- R82, R195: the record's pairing runs and its snapshot samples from 2,000 ns on, each 10 ns for D = 2. -/
theorem test_snapshotSettleEnd : snapping.prof.lag.state = .capturing ∧ sampling.time.clock = 200400 ∧
    (sampling.after 0).cap.position = 1 ∧ (sampling.after 1).cap.position = 1 ∧ (sampling.after 2).cap.position = 2 := by decide +kernel

/-- R82: 2,000 + 10·512·2 ns is 12.24 µs, rounded up to 13; the 1,024 samples stand in the half, which the correlator takes; R81: no
clip mark. -/
theorem test_snapshotComplete : let t := after (exec (.snapshotComplete []) sampling)
    t.time.clock = 202600 ∧ t.prof.lag.state = .correlating ∧ t.cap.half0.clip = false ∧
      t.cap.half0.samples = List.replicate 1024 0x800 ++ List.replicate 1024 0 := by decide +kernel

/-! ### Correlation and analysis -/

/-- 5.1: the first twelve chips for L = 63. -/
theorem test_chips_63 : (chips 63).take 12 = [1, 1, 1, 1, 1, 1, -1, -1, -1, -1, -1, 1] := by decide +kernel

/-- R90: one sample of 32 at position 4 meets chip 0 in bin 4 and chip 1 in bin 2. -/
theorem test_correlation : (List.range 6).map (crossCorrelation 63 ([0, 0, 0, 0, 32] ++ List.replicate 140 0))
    = [2, 0, 2, 0, 2, 0] := by decide +kernel

/-- R92. -/
theorem test_autocorrelation : (List.range 4).map (autoCorrelation 4 [8, 0, 16, 0, 8, 0, 0, 0]) = [5, 0, 4, 0] := by
  decide +kernel

/-- 6.7: normalisation with ROUND and trim code 4 in bins 40 to 50. -/
theorem test_trim_67 : trimmedProfile true 4 4 [4800, 3998, 6402, 5600, 5600, 8000, 8000, 3000, 4401, 4401, 2000]
    = [1275, 1062, 1701, 1487, 1487, 2125, 2125, 796, 1168, 1168, 531] := by decide +kernel

/-- 6.7: the peaks of that profile. -/
theorem test_peaks_67 : findPeaks 1000 40 1 (List.replicate 40 0
    ++ [1275, 1062, 1701, 1487, 1487, 2125, 2125, 796, 1168, 1168, 531] ++ List.replicate 205 0)
    = [(42, 1701), (45, 2125), (48, 1168)] := by decide +kernel

/-- 6.7: of 34 peaks the one at 1,010 and the later one at 1,015 go. -/
theorem test_keep_67 : keepPeaks ((List.range 31).map (fun i => (50 + i, 2000)) ++ [(120, 1010), (200, 1015), (230, 1015)])
    = (List.range 31).map (fun i => (50 + i, 2000)) ++ [(200, 1015)] := by decide +kernel

/-- 7.2 and 7.3: the worked divisions. -/
theorem test_divisions :
    [(160800, 14400), (42602, 3412), (42108, 2552), (24552, 1488)].map (fun x =>
      (Job.mk (.refinePairing 0) x.1 x.2 false 0 true).result)
      = [some (11, 2400), some (12, 1658), some (16, 1276), some (16, 744)] := by decide +kernel

/-- 7.3: the operands of bins 42 and 45 of sweep 12. -/
theorem test_refine_operands : refineOperands [1062, 1701, 1487] 1 = (42602, 3412) ∧
    refineOperands [1487, 2125, 2125] 1 = (42108, 2552) := by decide +kernel

/-! ### Speed and distance -/

/-- 7.5: Q_nom. -/
theorem test_qNominal : [500, 660, 820, 870, 1000].map qNominal = [9593, 12663, 15733, 16692, 19187] := by decide +kernel

/-- 7.6: Q_eff for Q_cal 16,692 and T_cal 20 with Ct_up 2 and Ct_dn 3, and the clamp. -/
theorem test_qEffective : [35, 12, 13, 20].map (qEffective settings0 ⟨16692, 20⟩) = [16685, 16694, 16693, 16692] ∧
    qEffective { settings0 with ctDn := 1 } ⟨19180, 60⟩ (-40) = 19187 ∧
    qEffective { settings0 with ctUp := 6 } ⟨16692, 20⟩ 85 = 16692 := by decide +kernel

/-- 7.7: the worked distances. -/
theorem test_distances : [(16692, 3205, 2), (16685, 676, 4), (16685, 728, 4), (16685, 776, 4)].map (fun x =>
    (toDistance x.1 x.2.1 x.2.2).1) = [2612, 1101, 1186, 1264] := by decide +kernel

/-- R120. -/
theorem test_temperatureConversion : (after (exec (.temperatureConversion 90) live)).arith.temperature = 85 ∧
    (after (exec (.temperatureConversion (-41)) live)).arith.temperature = -40 := by decide +kernel

/-! ### The end of an analysis, the divider and the reconciliation -/

/-- A slot content of sweep 30 on leg 0 of 9.11, before its reconciliation. -/
def content30 (acc : Option (List Nat)) (start : Option Nat) (ps : Option (List Peak)) : SlotContent :=
  ⟨0, 30, 8, ⟨false, false, false⟩, 512, acc, start, none, ps, none, none, none, none⟩

/-- The record of sweep 30. -/
def sweep30 (st : SweepState) (clipped : Bool) : Sweep :=
  ⟨30, 0, 1, 8, 8, 8, ⟨false, false, false⟩, st, 23, some 48, ⟨clipped, false, false, false, false⟩⟩

/-- The element list of 9.11. -/
def elements911 : List Element :=
  [⟨3, .tap, false, 820, none, none, some 1400, .nominal, 0, 0, none⟩,
    ⟨4, .tap, false, 850, none, none, some 1200, .nominal, 0, 0, none⟩,
    ⟨6, .split, false, 1500, none, none, some 1000, .watch, 0, 0, none⟩,
    ⟨8, .tap, true, 2612, none, none, some 800, .nominal, 0, 0, none⟩,
    ⟨2, .eol, false, 3400, none, none, none, .unbased, 2, 0, none⟩]

/-- The refined peaks of 9.11 but for the last job of the batch. -/
def peaks911 : List Peak :=
  [(62, 1900, -4, 988), (64, 2300, 0, 1024), (113, 640, 8, 1816), (116, 1150, 6, 1862), (200, 750, 5, 3205)].map
    (fun x => ⟨x.1, x.2.1, some x.2.2.1, some x.2.2.2, none, none, false⟩) ++ [⟨231, 980, none, none, none, none, false⟩]

/-- Leg 0's waiting CANDIDATE in cell 46, set 14. -/
def strays911 : Strays := ⟨(List.replicate 16 StraySet.reset).set 14
  ⟨(Quad.all StrayEntry.reset).set 0 ⟨true, 0, 46, 1490, 500, 1, 0, 0, 0, .candidate⟩, true, true, false⟩, Quad.all 0⟩

/-- The part of 9.11 as the last job of sweep 30's batch runs: bin 231, f = -3, so a quotient of 5. -/
def before911 : State :=
  busy ((((((wired.setMap (wired.map.set 0 ⟨elements911, 5⟩)).setSeq ⟨[sweep30 .analysing false], 31, none⟩).setSlot 1
    ⟨.analysing, some (content30 none none (some peaks911))⟩).setStray strays911).setDiv
    ⟨[], [], some ⟨⟨.refineSweep 30 231, 5, 1, false, 0, true⟩, 0⟩, 1⟩))

/-- 9.11, steps 1 to 3: the states, measured distances and miss counts of the elements. -/
theorem test_reconciliation_elements :
    ((after (exec .divisionComplete before911)).elements 0).map (fun e => (e.id, e.state, e.measured, e.misses))
      = [(3, .watch, some 835, 0), (4, .nominal, none, 1), (6, .nominal, some 1518, 0), (8, .nominal, some 2612, 0),
        (2, .missing, none, 3)] := by decide +kernel

/-- 9.11, steps 2, 4, 6 and 7: the ids on the peaks, the reports in their order, and the level. -/
theorem test_reconciliation_reports :
    ((after (exec .divisionComplete before911)).msg.reports.map fun r => (r.kind, r.payload.length))
      = [(0x62, 19), (0x62, 19), (0x62, 19), (0x63, 22), (0x61, 17)] ∧
    (peaksOf (after (exec .divisionComplete before911)) 1).map (fun p => (p.k, p.element))
      = [(62, none), (64, some 3), (113, none), (116, some 6), (200, some 8), (231, none)] ∧
    ((after (exec .divisionComplete before911)).leg 0).level = 48 ∧
    ((after (exec .divisionComplete before911)).slot 1).state = .ready := by decide +kernel

/-- R97, R103: a clipped sweep ends DONE_CLIPPED, its level a step down; otherwise a batch goes to the divider. -/
def analysing (clipped : Bool) : State :=
  busy (((wired.setSeq ⟨[sweep30 .analysing clipped], 31, none⟩).setSlot 1
    ⟨.analysing, some (content30 (some (List.replicate 41 0 ++ [8000, 16000, 8000, 0])) (some 0) none)⟩))

theorem test_analysisComplete : ((after (exec (.analysisComplete 4000 1) (analysing true))).leg 0).level = 46 ∧
    ((after (exec (.analysisComplete 9000 1) (analysing false))).div.running.map fun r => (r.job.dividend, r.job.divisor))
      = some (68000, 8000) ∧
    (after (exec (.analysisComplete 9000 1) (analysing false))).time.clock = 4000 := by decide +kernel

/-- R125: a CAL job of an anchor that is still the leg's sets Q_cal and T_cal and CAL_DONE. -/
theorem test_cal_judged :
    (judgeCal 30 8 2612 (some (16000, 0)) before911).arith.cal.get 0 = some ⟨16000, 20⟩ ∧
    (judgeCal 30 8 2612 (some (9592, 0)) before911).arith.cal.get 0 = some ⟨16692, 20⟩ := by decide +kernel

/-- A half of an acquisition being correlated, for a sweep whose last repetition it is. -/
def correlating : State :=
  (((wired.setSeq ⟨[{ sweep30 .acquiring false with done := 7 }], 31, none⟩).setSlot 1
    ⟨.filling, some { content30 (some [10, 20]) none none with k := 2 }⟩).setCor ⟨some ⟨.h0, 0⟩⟩).setCap
    { wired.cap with half0 := ⟨.correlating, some (.acquisition 30 0 63 2), false, true, some 0, 0,
      [BitVec.ofNat 12 32, BitVec.ofNat 12 16] ++ List.replicate 130 0⟩ }

/-- R90, R91: C adds 2 and 1 into the accumulator, the clip mark is carried over, and at done N the sweep is ANALYSING. -/
theorem test_acquisitionJobComplete :
    ((after (exec (.acquisitionJobComplete 1) correlating)).slot 1).state = .analysing ∧
    ((after (exec (.acquisitionJobComplete 1) correlating)).slot 1).content.bind (·.acc) = some [12, 21] ∧
    ((after (exec (.acquisitionJobComplete 1) correlating)).findSweep 30).map (fun w => (w.done, w.flags.clipped))
      = some (8, true) := by decide +kernel

/-- A snapshot being correlated for leg 0's pairing; `xs` are its samples. -/
def pairing (xs : List Nat) : State :=
  busy ((((wired.setLegs (wired.legs.set 0 ⟨some { settings0 with blank := 0, floor := 1 }, .enabled, 48, 0, 0⟩)).setProf
    { wired.prof with lag := ⟨.correlating, some 0, some 5, none⟩ }).setIng
    { wired.ing with pairing := some ⟨0, 0, none, none⟩ }).setCor ⟨some ⟨.h1, 0⟩⟩ |>.setCap
    { wired.cap with half1 := ⟨.correlating, some (.snapshot 0 5), false, false, some 0, 0, xs.map (BitVec.ofNat 12 ·)⟩ })

/-- R93, R196: the lag peak at 2 hands one job to the divider; silence settles NO_ECHO and frees the lag slot. -/
theorem test_snapshotJobComplete :
    (after (exec (.snapshotJobComplete 1) (pairing [100, 0, 100, 0, 0, 0, 0, 0, 0, 0]))).prof.lag.state = .refining ∧
    ((after (exec (.snapshotJobComplete 1) (pairing [100, 0, 100, 0, 0, 0, 0, 0, 0, 0]))).div.running.map
      fun r => r.job.owner) = some (.refinePairing 0) ∧
    (after (exec (.snapshotJobComplete 1) (pairing [0, 0, 0, 0, 0, 0, 0, 0, 0, 0]))).prof.lag.state = .free := by
  decide +kernel

/-- 9.6: c = 1,400 stays NOMINAL, 1,450 is WATCH, and 2,100 comes down through 1,700 to 1,200. -/
theorem test_classify : classify 1000 1400 .nominal = .nominal ∧ classify 1000 1450 .nominal = .watch ∧
    classify 1000 1249 .watch = .nominal ∧ classify 1000 2100 .watch = .faulty ∧ classify 1000 1700 .faulty = .watch ∧
    classify 1000 1200 .watch = .nominal := by decide +kernel

/-! ### Reading a slot (12.5) -/

/-- 12.5: the peak record of bin 42. -/
theorem test_peak_record : (Peak.mk 42 1701 (some 4) (some 676) (some 1101) none false).layout
    = [0x2A, 0x00, 0xA5, 0x06, 0x03, 0x04, 0xA4, 0x02, 0x4D, 0x04, 0x00] := by decide +kernel

/-- A READY slot of K = 256 bins. -/
def readySlot3 : State := wired.setSlot 3 ⟨.ready, some ⟨0, 12, 4, ⟨true, false, false⟩, 256, none, none,
  some (List.replicate 256 7), some [], some .none, some 9, none, none⟩⟩

/-- R105: page 0 has 527 bytes, page 1 of a profile of 256 bins is refused, and a FREE slot is not found. -/
theorem test_profileRead : (sent (after (exec (.profileRead 0 1 [3, 0]) readySlot3))).length = 527 ∧
    sent (after (exec (.profileRead 0 1 [3, 1]) readySlot3)) = [3] ∧
    sent (after (exec (.profileRead 0 1 [0, 1]) readySlot3)) = [6] := by decide +kernel

/-- R106: 19 bytes without peaks; a slot being analysed is PENDING. -/
theorem test_peaksRead : (sent (after (exec (.peaksRead 0 1 [3]) readySlot3))).length = 19 ∧
    sent (after (exec (.peaksRead 0 1 [1]) { analysing false with msg := Message.reset })) = [11] := by decide +kernel

/-! ### The span map -/

/-- The part with the list of 9.11. -/
def mapped : State := (wired.setMap (wired.map.set 0 ⟨elements911, 65535⟩)).setStray strays911

/-- R131 to R136: a put replaces element 3, takes the anchor, invalidates the stray at 1,490, and the revision wraps. -/
theorem test_elementPut :
    sent (after (exec (.elementPut 0 1 ([0, 3, 0] ++ le 2 1470 ++ [1])) mapped)) = [0, 1, 5, 1, 0, 0, 3, 1, 0] ∧
    ((after (exec (.elementPut 0 1 ([0, 3, 0] ++ le 2 1470 ++ [1])) mapped)).elements 0).map (fun e => (e.id, e.anchor))
      = [(4, false), (3, true), (6, false), (8, false), (2, false)] ∧
    sent (after (exec (.elementPut 0 1 ([0, 9, 0] ++ le 2 850 ++ [0])) mapped)) = [12] ∧
    sent (after (exec (.elementPut 0 1 ([0, 9, 0] ++ le 2 3401 ++ [0])) mapped)) = [3] := by decide +kernel

/-- R137. -/
theorem test_elementDrop : sent (after (exec (.elementDrop 0 1 [0, 8]) mapped)) = [0, 0, 0x34, 0x0A, 1, 1, 0, 0, 0] ∧
    sent (after (exec (.elementDrop 0 1 [0, 9]) mapped)) = [6] := by decide +kernel

/-- R138. -/
theorem test_mapClear : sent (after (exec (.mapClear 0 1 [0]) mapped)) = [0, 5, 0, 0] ∧
    (after (exec (.mapClear 0 1 [0]) mapped)).elements 0 = [] := by decide +kernel

/-- R140: page 0 carries five records of 21 bytes; page 3 is refused. -/
theorem test_mapRead : (sent (after (exec (.mapRead 0 1 [0, 0]) mapped))).length = 112 ∧
    sent (after (exec (.mapRead 0 1 [0, 3]) mapped)) = [3] := by decide +kernel

/-- R141. -/
theorem test_scoreClear : sent (after (exec (.scoreClear 0 1 [0, 0]) mapped)) = [0, 5, 0, 0] ∧
    sent (after (exec (.scoreClear 0 1 [0, 9]) mapped)) = [6] := by decide +kernel

/-! ### The stray table (10.10) -/

/-- One entry as 10.10 writes it: leg, cell, CONFIRMED or not, sightings. -/
def entry1010 (leg : LegId) (cell : Nat) (confirmed : Bool) (sightings distance : Nat) : StrayEntry :=
  ⟨true, leg, cell, distance, 100, sightings, 0, 0, 0, if confirmed then .confirmed else .candidate⟩

/-- Set 5 with four ways and its bits. -/
def set5 (w0 w1 w2 w3 : StrayEntry) (p l h : Bool) : Strays :=
  ⟨(List.replicate 16 StraySet.reset).set 5 ⟨⟨w0, w1, w2, w3⟩, p, l, h⟩, Quad.all 0⟩

/-- What 10.10 tells of set 5: way, leg, cell, CONFIRMED as 1, and sightings of each valid way; and its bits. -/
def tell (t : Strays) : List (List Nat) × List Bool :=
  (((t.entries.filter fun x => x.1 == 5 && x.2.2.valid).map fun x =>
    [x.2.1.val, x.2.2.leg.val, x.2.2.cell, x.2.2.state.code, x.2.2.sightings]),
    [(t.set 5).pairBit, (t.set 5).lowBit, (t.set 5).highBit])

/-- 10.10, steps 1 and 7: the first feed fills way 0; the full set gives up way 0. -/
theorem test_strays_fill_and_victim :
    tell ((⟨List.replicate 16 .reset, Quad.all 0⟩ : Strays).feed 0 690 100 1 3).1 = ([[0, 0, 21, 0, 1]], [true, true, false]) ∧
    tell ((set5 (entry1010 0 21 false 1 690) (entry1010 0 37 false 2 1205) (entry1010 1 21 true 2 700)
      (entry1010 0 53 false 1 1710) false false true).feed 0 2220 100 1 3).1
      = ([[0, 0, 69, 0, 1], [1, 0, 37, 0, 2], [2, 1, 21, 1, 2], [3, 0, 53, 0, 1]], [true, true, true]) := by
  decide +kernel

/-- 10.10, steps 6, 11 and 13: a hit confirms; locked ways are passed over; with all CONFIRMED the feed is dropped. -/
theorem test_strays_confirm_skip_drop :
    ((set5 (entry1010 0 21 false 1 690) (entry1010 0 37 false 2 1205) (entry1010 1 21 false 1 690)
      (entry1010 0 53 false 1 1710) true false false).feed 1 700 100 1 2).2.isSome = true ∧
    tell ((set5 (entry1010 0 5 false 1 180) (entry1010 0 37 true 3 1190) (entry1010 1 21 true 2 700)
      (entry1010 2 85 true 1 2730) true true false).feed 1 2215 100 1 2).1
      = ([[0, 1, 69, 0, 1], [1, 0, 37, 1, 3], [2, 1, 21, 1, 2], [3, 2, 85, 1, 1]], [true, true, false]) ∧
    ((set5 (entry1010 1 69 true 2 2230) (entry1010 0 37 true 3 1190) (entry1010 1 21 true 2 700)
      (entry1010 2 85 true 1 2730) true true false).feed 0 1720 100 1 3).1.drops.get 0 = 1 := by decide +kernel

/-- The part with set 5 as after step 12 of 10.10. -/
def strays1010 : State := wired.setStray (set5 (entry1010 1 69 true 2 2230) (entry1010 0 37 true 3 1190)
  (entry1010 1 21 true 2 700) (entry1010 2 85 true 1 2730) true true false)

/-- 10.10: the two clears of leg 1. -/
theorem test_strayClear : sent (after (exec (.strayClear 0 1 [1, 1, 0, 0, 0]) strays1010)) = [0, 0, 0, 0, 0] ∧
    sent (after (exec (.strayClear 0 1 [1, 1, 0, 0, 1]) strays1010)) = [0, 2, 0, 0, 0] ∧
    tell (after (exec (.strayClear 0 1 [1, 1, 0, 0, 1]) strays1010)).stray
      = ([[1, 0, 37, 1, 3], [3, 2, 85, 1, 1]], [true, true, false]) := by decide +kernel

/-- R175: leg 1's two entries in ascending latest distance, each with its set's bits 1, 1, 0. -/
theorem test_strayList : (sent (after (exec (.strayList 0 1 [1, 0]) strays1010))).length = 56 ∧
    (sent (after (exec (.strayList 0 1 [1, 0]) strays1010))).take 10 = [0, 1, 2, 2, 0, 0, 0, 2, 5, 2] ∧
    (sent (after (exec (.strayList 0 1 [1, 0]) strays1010)))[31]? = some 3 := by decide +kernel

/-! ### The ingress monitor -/

/-- 12.5: the burst record of chapter 11; its start and end times are set to 0 here. -/
theorem test_burst_record : (BurstRecord.mk 0 0 0 [7, 8, 9] (-52) 9 4 (some 0) false false .located (some 1112) (some 1500)
    (some 6)).layout = [0] ++ List.replicate 12 0 ++ [0x80, 0x03, 0, 0, 0, 0, 0, 0, 0xCC, 0xFF, 9, 4, 0, 0, 1, 7, 0x58, 0x04,
      0xDC, 0x05, 6] := by decide +kernel

/-- 11.2: with the defaults -80 brings BURST, -92 keeps it and -93 ends it. -/
theorem test_thresholds : judgeDetector (-80) 12 (-80) .quiet = .burst ∧ judgeDetector (-80) 12 (-81) .quiet = .quiet ∧
    judgeDetector (-80) 12 (-92) .burst = .burst ∧ judgeDetector (-80) 12 (-93) .burst = .quiet := by decide +kernel

/-- R194: a sum of -151 over a count of 2 has mean -75. -/
theorem test_survey_mean : (SurveyBin.mk (-151) 2 (some (-70))).latch = some (-75, -70) := by decide +kernel

/-- R180, R185: a reading scan that finds bins 7 and 9 above the onset opens a record with its peak in bin 9. -/
theorem test_ingressScan_opens :
    (((after (exec (.ingressScan 0 ((List.replicate 64 (-240)).set 7 (-79) |>.set 9 (-52))) wired)).ingLeg 0).record.map
      fun r => (r.bins, r.peakLevel, r.peakBin, r.scans, r.outcome)) = some ([7, 9], -52, 9, 1, .noAnchor) := by
  decide +kernel

/-- R180: a countdown above 0 falls by one. -/
theorem test_ingressScan_countdown : ((after (exec (.ingressScan 0 []) (wired.setLegs (wired.legs.set 0
    ⟨some settings0, .enabled, 48, 0, 500⟩)))).leg 0).settle = 499 := by decide +kernel

/-- R181: the defaults are returned; an onset of 241 is refused. -/
theorem test_ingressSet : sent (after (exec (.ingressSet 0 1 ([0, 1] ++ leSigned 2 (-60) ++ [30, 8, 0])) wired))
      = [0, 0, 0xB0, 0xFF, 40, 12, 1] ∧
    sent (after (exec (.ingressSet 0 1 ([0, 1] ++ leSigned 2 241 ++ [30, 8, 0])) wired)) = [3] := by decide +kernel

/-- R193. -/
theorem test_surveyOpen : ((after (exec (.surveyOpen 0 1 [0]) wired)).ingLeg 0).survey = some (.fresh 0) ∧
    sent (after (exec (.surveyOpen 0 1 [1]) wired)) = [10] := by decide +kernel

/-- Leg 0 with an open survey that has bin 0 as in R194's example. -/
def surveying : State := wired.setIngLeg 0 { wired.ingLeg 0 with
  survey := some ⟨⟨-151, 2, some (-70)⟩ :: List.replicate 63 ⟨0, 0, none⟩, 2, 0⟩ }

/-- R194: the result has 281 bytes, SHORT, bin 0 alone with a mean of -75 and a maximum of -70. -/
theorem test_surveyClose : (sent (after (exec (.surveyClose 0 1 [0]) surveying))).length = 282 ∧
    ((sent (after (exec (.surveyClose 0 1 [0]) surveying))).drop 17).take 14
      = [1, 1, 0, 0, 0, 0, 0, 0, 0, 0xB5, 0xFF, 0xBA, 0xFF, 0] ∧
    sent (after (exec (.surveyClose 0 1 [0]) wired)) = [6] := by decide +kernel

/-- R194: 287 bytes with a latched result; NOT_FOUND without. -/
theorem test_surveyRead : (sent (after (exec (.surveyRead 0 1 [0])
      ((after (exec (.surveyClose 0 1 [0]) surveying)).setMsg Message.reset)))).length = 287 ∧
    sent (after (exec (.surveyRead 0 1 [0]) wired)) = [6] := by decide +kernel

/-- A closed record for the log. -/
def closedRecord : BurstRecord := ⟨0, 0, 5, [7], -52, 7, 4, some 9, false, false, .off, none, none, none⟩

/-- R191: the oldest records leave the log; an empty log gives none; a count of 7 is refused. -/
theorem test_logTake :
    (sent (after (exec (.logTake 0 1 [2]) (wired.setIng { wired.ing with log := [closedRecord, closedRecord, closedRecord] })))
      ).length = 73 ∧
    sent (after (exec (.logTake 0 1 [1]) wired)) = [0, 0, 0, 0, 0] ∧ sent (after (exec (.logTake 0 1 [7]) wired)) = [3] := by
  decide +kernel

/-- R192: 356 bytes. -/
theorem test_watchGet : (sent (after (exec (.watchGet 0 1 [0]) wired))).length = 356 := by decide +kernel

/-! ### The transmitter -/

/-- R15: after the RESTART reply the part resets and HELLO carries RESTART. -/
theorem test_restart : (after (exec (.restart 0 1 []) wired)).msg.dispatching = false ∧
    sent (after (exec .frameSent (after (exec (.restart 0 1 []) wired)))) = [0x16, 0x04, 0x01, 0x02] ∧
    ((after (exec .frameSent (after (exec (.restart 0 1 []) wired)))).leg 0).state = .off := by decide +kernel

/-- R12: the end of a frame takes the waiting reply before the oldest report; 7 bytes take 60,764 cycles (R1). -/
theorem test_frameSent : (((after (exec .frameSent ((busy live).setMsg { (busy live).msg with
      slot := some ⟨⟨0x81, 5, [0]⟩, false⟩, reports := [.hello .power] }))).msg.tx).map fun x => (x.frame.kind, x.startClock))
    = some (0x81, 60764) := by decide +kernel

/-! ### Witnesses: states and operands that meet the hypotheses of each statement, at the bounds of each clause -/

theorem witness_StepTakesFrontCommand : live.pending = [] ∧ (live.setPending [.windowOpen]).pending = [.windowOpen] :=
  ⟨rfl, rfl⟩

theorem witness_TimebaseCountsMicroseconds :
    ((⟨198, 2 ^ 48 - 1⟩ : Time).timebase < 281474976710656 ∧ (⟨198, 2 ^ 48 - 1⟩ : Time).clock % 200 + 1 < 200) ∧
    ((⟨199, 2 ^ 48 - 1⟩ : Time).clock % 200 = 199 ∧ (⟨199, 2 ^ 48 - 2⟩ : Time).timebase < 281474976710656) ∧
    live.cap.sampling = none ∧ live.probe.phase ≠ .burst := by decide +kernel

/-- R165, R174: a reset leaves no entry valid, and each keeps its other fields. -/
theorem test_powerUp_strays : let t := after (exec .powerUp strays1010)
    t.stray.drops = Quad.all 0 ∧ ∀ i < 16, ∀ w, (t.stray.set i).ways.get w =
      { (strays1010.stray.set i).ways.get w with valid := false } := by decide +kernel

theorem witness_PowerUpLeavesReset : State.reset.inReset = true ∧ Instr.windowOpen ≠ .powerUp := ⟨rfl, nofun⟩

/-- A part with `n` requests waiting behind a reply. -/
def queued (n : Nat) : State := (busy live).setMsg { (busy live).msg with
  requests := List.replicate n ⟨4, 0, []⟩, slot := some ⟨⟨0x81, 0, [0]⟩, false⟩ }

theorem witness_RequestsWaitOrOverrun : (Instr.statusGet 3 7 []).frame = some ⟨1, 7, []⟩ ∧
    (8 ≤ (queued 8).msg.requests.length ∧ (queued 8).inReset = false) ∧
    ((queued 7).msg.requests.length < 8 ∧ (queued 7).msg.slot ≠ none) ∧
    ((live.setMsg { live.msg with dispatching := false }).msg.requests.length < 8 ∧
      (live.setMsg { live.msg with dispatching := false }).msg.dispatching = false) := by decide +kernel

/-- The one hypothesis of StatusTimeAndRestart and WholeTablesAreListed, with the transmitter IDLE and
SENDING. -/
theorem witness_ready : Ready live ∧ Ready wired ∧ Ready (busy live) :=
  ⟨ready_of rfl rfl, ready_of rfl rfl, ⟨rfl, rfl, rfl, rfl, rfl, nofun⟩⟩

theorem witness_BadKindAndBadLength : Ready live ∧ (0x05 : Byte).toNat ∉ kindsInUse ∧
    ((Instr.timeSet 0 1 (List.replicate 7 0)).frame = some ⟨0x03, 1, List.replicate 7 0⟩ ∧ (0x03, 6) ∈ requestLengths ∧
      (List.replicate 7 (0 : Byte)).length ≠ 6) ∧
    ((Instr.classSet 0 1 [0]).frame = some ⟨0x14, 1, [0]⟩ ∧ ∀ b0 b1 rest, [(0 : Byte)] = b0 :: b1 :: rest →
      rest.length ≠ 1 + b1.toNat) ∧
    ∀ b0 b1 rest, [(0 : Byte), 2, 0, 0] = b0 :: b1 :: rest → rest.length ≠ 1 + b1.toNat := by
  refine ⟨witness_ready.1, by decide, by decide, ⟨rfl, fun _ _ _ h => nomatch h⟩, fun b0 b1 rest h => ?_⟩
  cases h
  decide

theorem witness_FrameSentTakesNext :
    ((busy live).inReset = false ∧ (busy live).msg.tx = some ⟨⟨0x60, 0, []⟩, false, 0⟩ ∧ (busy live).msg.requests = [] ∧
      (busy live).msg.hold = false ∧ (busy live).msg.slot = none ∧ (busy live).msg.reports = []) ∧
    ((queued 0).msg.requests = [] ∧ (queued 0).msg.slot = some ⟨⟨0x81, 0, [0]⟩, false⟩) ∧
    (((busy live).setMsg { (busy live).msg with reports := [.hello .power] }).msg.reports = [.hello .power]) ∧
    ((live.setMsg { live.msg with tx := some ⟨⟨0x82, 0, [0]⟩, true, 0⟩ }).msg.tx = some ⟨⟨0x82, 0, [0]⟩, true, 0⟩) ∧
    ((queued 1).msg.dispatching = true ∧ (queued 1).msg.requests = ⟨4, 0, []⟩ :: [] ∧ (queued 2).msg.requests.length = 2 ∧
      (Instr.timeGet 0 0 []).frame = some ⟨4, 0, []⟩ ∧ (Instr.timeGet 0 0 []).after = 0) ∧
    (((busy live).after 60763).msg.tx = (busy live).msg.tx ∧ ((busy live).after 60763).time.clock * 18 / 15625 = 69 ∧
      ((busy live).after 60764).time.clock * 18 / 15625 = 70) ∧
    live.msg.tx = none := by decide +kernel

/-- A part sending, with `n` reports waiting. -/
def reporting (n : Nat) : State := (busy live).setMsg { (busy live).msg with reports := List.replicate n (.hello .power) }

theorem witness_PostingAReport : 32 ≤ (reporting 32).msg.reports.length ∧
    ((reporting 31).msg.reports.length < 32 ∧ (reporting 31).msg.tx ≠ none) ∧
    (live.msg.reports = [] ∧ live.msg.tx = none ∧ live.msg.slot = none ∧ live.msg.hold = false) := by decide +kernel

theorem witness_FrameBytesBringTheFrame : ([] : List Byte).length ≤ 1024 ∧ live.inReset = false ∧
    live.msg.assembler.mode = .hunt ∧
    [7, 1000000, 0, 1, 2, 3, 1000000].length = (Frame.mk 0x01 0x05 []).bytes.length ∧
    ∀ n ∈ [7, 1000000, 0, 1, 2, 3, 1000000].tail, n ≤ 1000000 := by decide +kernel

/-- A part in a frame with `bs` taken after its SYNC, one each 10 cycles. -/
def taking (bs : List Byte) : State := live.setMsg { live.msg with assembler :=
  ⟨.body, 0, bs.zipIdx.map fun x => ⟨x.1, 10 * x.2 + 10⟩, 0⟩ }

theorem witness_AssemblerHuntsAndDiscards : (live.inReset = false ∧ live.msg.assembler = .reset ∧ (0xB7 : Byte) ≠ 0xB6) ∧
    ((taking [1]).msg.assembler.mode ≠ .hunt ∧
      (taking [1]).msg.assembler.retained.map (·.byte) ++ [0] = [1, 0] ∧ 1 + 256 * 0 < 2 ∧
      (taking [3]).msg.assembler.retained.map (·.byte) ++ [4] = [3, 4] ∧ 1026 < 3 + 256 * 4 ∧
      (taking [2, 0, 1, 5, 0x3C]).msg.assembler.retained.map (·.byte) ++ [0x0B] = [2, 0, 1, 5, 0x3C, 0x0B] ∧
      (crc [2, 0, 1, 5]).toNat ≠ 0x3C + 256 * 0x0B) ∧
    ((taking [2]).msg.assembler.mode ≠ .hunt ∧ ∀ x ∈ (taking [2]).msg.assembler.retained, x.byte ≠ 0xB6) ∧
    (falseSync.msg.assembler.mode ≠ .hunt ∧
      falseSync.msg.assembler.retained.map (·.byte) = [Frame.mk 1 5 []].flatMap Frame.bytes ∧
      falseSync.msg.assembler.retained.IsChain fun x y => y.time ≤ x.time + 1000000) := by decide +kernel

theorem witness_FirstFreeIdIsGiven : 1 ≤ 255 ∧ 255 ≤ 255 ∧ [255, 1, 2, 3].length ≤ 4 ∧
    allocateId 5 255 [255, 1, 2, 3] = 4 ∧ nextIdAfter 255 = 1 := by decide

/-! #### Windows -/

/-- A window OPEN from 100 to 200 on every leg. -/
def opened : State := (live.setTime ⟨30000, 150⟩).setWin ⟨[⟨1, 100, 200, Quad.all true, .opened, 0⟩,
  ⟨2, 200, 250, Quad.all true, .pending, 0⟩], 3⟩

/-- Four windows waiting. -/
def crowded : State := live.setWin ⟨[⟨1, 100, 200, Quad.all true, .pending, 0⟩, ⟨2, 200, 250, Quad.all true, .pending, 0⟩,
  ⟨3, 300, 400, Quad.all true, .pending, 0⟩, ⟨255, 400, 500, Quad.all true, .pending, 0⟩], 4⟩

theorem windowInv_opened : WindowInv opened := by constructor <;> decide +kernel
theorem windowInv_crowded : WindowInv crowded := by constructor <;> decide +kernel
theorem windowInv_live : WindowInv live := by constructor <;> decide +kernel
theorem ready_opened : Ready opened := ready_of rfl rfl
theorem ready_crowded : Ready crowded := ready_of rfl rfl

/-- A part whose leg 0 has an open record whose pairing runs, its snapshot waiting or not. -/
def recording (waiting : Option LegId) : State :=
  (((wired.setMap (wired.map.set 0 ⟨elements911, 5⟩)).setIng { wired.ing with
    pairing := some ⟨0, 5, none, none⟩
    legs := wired.ing.legs.set 0 { wired.ingLeg 0 with
      detectors := (List.replicate 64 .quiet).set 7 .burst
      record := some ⟨5, 0, 3, [7], -52, 7, 4, none, false, false, .pending, none, none, none⟩ } }).setLag
    ⟨.capturing, some 0, some 512, none⟩).setCap { wired.cap with waiting := waiting }

theorem windowInv_recording : WindowInv (recording (some 0)) := by constructor <;> decide +kernel

theorem witness_TimeSetLoadsTheTimebase : (Ready opened ∧ opened.openWindow ≠ none) ∧
    (Ready crowded ∧ crowded.openWindow = none ∧ WindowInv crowded ∧ crowded.msg.reports.length + 9 ≤ 32 ∧
      ∃ w ∈ crowded.win.table, w.stop ≤ 250) ∧
    (Ready (recording (some 0)) ∧ Ready (recording none) ∧ WindowInv (recording (some 0)) ∧
      ((recording (some 0)).ingLeg 0).record.map (·.serial) = some 5 ∧ (recording none).cap.waiting = none ∧
      (recording (some 0)).ing.pairing = some ⟨0, 5, none, none⟩ ∧ (recording (some 0)).cap.waiting ≠ none) ∧
    281474976710655 < 281474976710656 :=
  ⟨⟨ready_opened, by decide +kernel⟩, ⟨ready_crowded, by decide +kernel, windowInv_crowded, by decide +kernel,
    by decide +kernel⟩, ⟨ready_of rfl rfl, ready_of rfl rfl, windowInv_recording, by decide +kernel⟩, by decide⟩

/-- The clauses of WINDOW_GRANT at their bounds: every range, LATE, OVERLAP by one microsecond, NO_ROOM, and the two ways an
accepted window goes. -/
theorem witness_WindowGrantChecksAndJoins :
    (grantOutOfRange 0 49 1 ∧ grantOutOfRange 0 65536 1 ∧ grantOutOfRange 0 50 0 ∧ grantOutOfRange 0 50 16 ∧
      grantOutOfRange 281474976710655 50 1 ∧ ¬ grantOutOfRange 0 50 1 ∧ ¬ grantOutOfRange 0 65535 15) ∧
    (149 < (opened.after 0).time.timebase) ∧
    ((crowded.after 0).time.timebase ≤ 0 ∧ ∃ w ∈ crowded.win.table, 51 < w.stop ∧ w.start < 51 + 50) ∧
    ((¬ ∃ w ∈ crowded.win.table, 500 < w.stop ∧ w.start < 500 + 50) ∧ 4 ≤ crowded.win.table.length) ∧
    ((opened.after 0).time.timebase < 250 ∧ (¬ ∃ w ∈ opened.win.table, 250 < w.stop ∧ w.start < 250 + 50) ∧
      opened.win.table.length < 4) ∧
    ((live.after 0).time.timebase = 0 ∧ live.openWindow = none ∧ live.win.table.length < 4) := by
  refine ⟨by simp [grantOutOfRange], by decide +kernel, by decide +kernel, by decide +kernel, by decide +kernel,
    by decide +kernel⟩

theorem witness_WindowRevokeRemoves :
    opened.win.table.find? (fun w => w.id == (9 : Byte).toNat) = none ∧
    (∃ w, crowded.win.table.find? (fun x => x.id == (255 : Byte).toNat) = some w ∧ w.state = .pending) ∧
    (∃ w, opened.win.table.find? (fun x => x.id == (1 : Byte).toNat) = some w ∧ w.state = .opened) ∧
    opened.msg.reports.length + 7 ≤ 32 := by
  refine ⟨by decide +kernel, ⟨_, rfl, rfl⟩, ⟨_, rfl, rfl⟩, by decide +kernel⟩

theorem witness_WindowOpensAtItsStart : crowded.inReset = false ∧ (∃ w rest, crowded.win.table = w :: rest ∧
    w.start < 281474976710656) ∧ crowded.openWindow = none :=
  ⟨rfl, ⟨_, _, rfl, by decide⟩, by decide +kernel⟩

theorem lineInv_opened : LineInv opened := by constructor <;> decide +kernel

theorem witness_WindowClosesAtItsEnd : opened.inReset = false ∧ (∃ w, opened.openWindow = some w ∧
    w.stop < 281474976710656) ∧ opened.msg.reports.length + 7 ≤ 32 ∧ WindowInv opened ∧ LineInv opened :=
  ⟨rfl, ⟨_, rfl, by decide⟩, by decide +kernel, windowInv_opened, lineInv_opened⟩

/-! #### Legs and the plan -/

/-- A list as the 27 bytes of LEG_SET. -/
def bytes27 (bs : List Byte) : Fin 27 → Byte := fun i => bs.getD i.val 0

theorem witness_LegSetReplacesSettings : Ready wired ∧ 4 ≤ (bytes27 (legBytes 4) 0).toNat ∧
    ((bytes27 (legBytes 0) 0).toNat = (0 : LegId).val ∧ (wired.leg 0).state ≠ .off) ∧
    ((bytes27 (legBytes 3) 0).toNat = (3 : LegId).val ∧ (wired.leg 3).state = .off ∧
      settingsAccepted (settingsOfBytes (bytes27 (legBytes 3)))) ∧
    ¬ settingsAccepted (settingsOfBytes (bytes27 ([3] ++ { settings0 with carrier := 48 }.layout))) := by
  refine ⟨witness_ready.2.1, by decide, by decide +kernel, ?_, ?_⟩ <;> unfold settingsAccepted <;> decide +kernel

theorem witness_LegEnableStartsTheLeg : 4 ≤ (4 : Byte).toNat ∧ ((3 : Byte).toNat = (3 : LegId).val ∧
    (wired.leg 3).state = .off ∧ (wired.leg 3).settings = none) ∧ (wired.leg 0).state = .enabled ∧
    ((wired.setLegs (wired.legs.set 0 ⟨some settings0, .faulted, 48, 3, 0⟩)).leg 0).settings = some settings0 ∧
    ((wired.setLegs (wired.legs.set 0 ⟨some settings0, .faulted, 48, 3, 0⟩)).leg 0).state ≠ .enabled := by decide +kernel

theorem queueInv_wired : QueueInv wired := by constructor <;> decide +kernel

theorem queueInv_flying : QueueInv flying := by constructor <;> decide +kernel
theorem queueInv_snapping : QueueInv snapping := by constructor <;> decide +kernel

/-- A closed record whose pairing still runs, and a record opened after it. -/
def outlasted : State := let s := recording none
  s.setIng { s.ing with pairing := some ⟨0, 4, some { closedRecord with serial := 4 }, none⟩ }

/-- Each clause of a disable: the leg's acquisition in flight; its pairing with a snapshot filling and its record open; no pairing;
a pairing that has outlasted its record while another is open; and the last room for the reports. -/
theorem witness_LegDisableTearsDown :
    (4 ≤ (4 : Byte).toNat ∧ (wired.leg 3).state = .off ∧ (wired.leg 0).state ≠ .off ∧ (flying.leg 1).state ≠ .off) ∧
    (QueueInv flying ∧ flying.seq.inFlight = some ⟨1, 1, .free, 0, 0⟩ ∧ (∃ w ∈ flying.seq.queue, w.id = 1 ∧ w.leg = 1) ∧
      flying.cap.stream = .acquisition ∧ flying.cap.inState .filling = some .h0) ∧
    (QueueInv snapping ∧ snapping.ing.pairing.map (fun p => (p.leg, p.serial)) = some (0, 0) ∧
      (snapping.ingLeg 0).record.map (·.serial) = some 0 ∧ snapping.cap.stream = .snapshot ∧ snapping.cap.coupler = some 0 ∧
      snapping.cap.inState .filling = some .h0 ∧ snapping.seq.inFlight = none) ∧
    wired.ing.pairing = none ∧ (outlasted.ing.pairing.map (fun p => (p.leg, p.serial, p.closed.isSome)) = some (0, 4, true) ∧
      (outlasted.ingLeg 0).record.map (·.serial) = some 5) ∧
    (reporting 26).msg.reports.length + 6 ≤ 32 :=
  ⟨by decide +kernel, ⟨queueInv_flying, by decide +kernel, by decide +kernel, by decide +kernel, by decide +kernel⟩,
    ⟨queueInv_snapping, by decide +kernel⟩, rfl, by decide +kernel, by decide +kernel⟩

theorem witness_ClassSetWritesThePlan : (reporting 23).msg.reports.length + 9 ≤ 32 ∧
    (∃ w ∈ flying.seq.queue, w.state ≠ .analysing ∧ (flying.setPlan ⟨List.replicate 64 .fixed, 64⟩).admissible w.leg = false) ∧
    (∃ w ∈ before911.seq.queue, w.state = .analysing) ∧ Ready wired ∧ QueueInv wired ∧ wired.plan.stored.length = 64 ∧
    (63 < (64 : Byte).toNat ∧ 64 < (List.replicate 65 (0 : Byte)).length ∧
      64 < (63 : Byte).toNat + [(0 : Byte), 0].length ∧ (∃ b ∈ [(3 : Byte)], 2 < b.toNat) ∧ 64 < (65 : Byte).toNat) ∧
    ¬ (63 < (63 : Byte).toNat ∨ 64 < [(2 : Byte)].length ∨ 64 < (63 : Byte).toNat + [(2 : Byte)].length ∨
      (∃ b ∈ [(2 : Byte)], 2 < b.toNat) ∨ 64 < (64 : Byte).toNat) :=
  ⟨by decide +kernel, by decide +kernel, by decide +kernel, witness_ready.2.1, queueInv_wired, by decide +kernel,
    by decide +kernel, by decide +kernel⟩

theorem witness_BandTestsFollowTheMap : 1 ≤ settings0.chipDivider ∧ settings0.chipDivider ≤ 16 ∧
    settings0.halfWidth ≤ settings0.carrier ∧ ({ settings0 with carrier := 16 } : Settings).halfWidth ≤ 16 := by
  decide +kernel

/-! #### Sweeps -/

theorem witness_SweepRequestChecksAndJoins :
    (sweepOutOfRange 65 0 ∧ sweepOutOfRange 1 8 ∧ sweepOutOfRange 1 6 ∧ ¬ sweepOutOfRange 64 5) ∧
    (wired.leg 1).state ≠ .enabled ∧ ((wired.leg 0).state = .enabled ∧ wired.anchor 0 = none) ∧
    (wired.setPlan ⟨List.replicate 64 .free, 46⟩).admissible 0 = false ∧ wired.admissible 0 = true ∧
    (∃ w ∈ flying.seq.queue, w.slot = 0) ∧ ¬ (∃ w ∈ wired.seq.queue, w.slot = 0) ∧ QueueInv wired ∧
    (wired.seq.inFlight = none ∧ wired.cap.inState .filling = none ∧ wired.cap.inState .free ≠ none ∧
      wired.windowFree 0 = true ∧ wired.seq.queue = [] ∧ flying.seq.inFlight ≠ none) := by
  refine ⟨by simp [sweepOutOfRange], by decide +kernel, by decide +kernel, by decide +kernel, by decide +kernel,
    by decide +kernel, by decide +kernel, queueInv_wired, by decide +kernel⟩

theorem witness_SweepCancelEndsTheSweep : Ready flying ∧ flying.findSweep (2 : Byte).toNat = none ∧
    (flying.findSweep (1 : Byte).toNat).isSome = true ∧ QueueInv flying ∧
    (flying.seq.inFlight.map (·.sweepId) = some 1 ∧ flying.cap.inState .filling = some .h0) ∧
    (reporting 31).msg.reports.length < 32 ∧ 32 ≤ (reporting 32).msg.reports.length :=
  ⟨ready_of rfl rfl, by decide +kernel, by decide +kernel, queueInv_flying, by decide +kernel, by decide +kernel,
    by decide +kernel⟩

/-- A part with a record of leg 0 that may start. -/
def mayStart : State := wired.setSeq ⟨[{ sweep30 .queued false with started := 7, done := 0 }], 31, none⟩

/-- `mayStart` with the slot of its record HELD. -/
def held : State := mayStart.setSlot 1 ⟨.held, some (content30 (some (List.replicate 512 0)) none none)⟩

/-- R57, R95: the first acquisition moves its slot from HELD to FILLING. -/
theorem test_first_start : (choose held).slot 1 = { held.slot 1 with state := .filling } ∧
    (choose held).cap.position = 0 := by decide +kernel

/-- `mayStart` in a band of SCHEDULED bins, with a window on leg 0 OPEN until `stop`. -/
def fitting (stop : Nat) : State := (mayStart.setPlan ⟨List.replicate 64 .scheduled, 64⟩).setWin
  ⟨[⟨1, 0, stop, ⟨true, false, false, false⟩, .opened, 0⟩], 2⟩

/-- T_acq is 23 µs: it fits into 23 µs, and not into 22. -/
theorem witness_OldestEligibleRecordStarts : mayStart.seq.inFlight = none ∧ mayStart.cap.inState .filling = none ∧
    mayStart.cap.inState .free = some .h0 ∧ (∃ w, mayStart.seq.queue = [] ++ w :: [] ∧ MayStart mayStart w ∧
      MayStart (fitting 23) w ∧ ¬ MayStart (fitting 22) w) ∧
    (held.seq.queue.map (fun w => (w.state, w.slot)) = [(.queued, 1)] ∧ (held.slot 1).state = .held ∧
      (held.slot 1).content.isSome = true ∧ (mayStart.slot 1).state ≠ .held) ∧
    flying.cap.inState .filling ≠ none ∧ mayStart.cap.half0.state = .free := by
  refine ⟨by decide +kernel, by decide +kernel, by decide +kernel, ⟨_, rfl, ?_, ?_, ?_⟩, by decide +kernel, by decide +kernel,
      by decide +kernel⟩ <;>
    rw [← eligible_iff] <;> decide +kernel

/-- The correlator busy with half 1. -/
def working (s : State) : State := s.setCor ⟨some ⟨.h1, 0⟩⟩

/-- The acquisition of `flying` in the OPEN window 7, with every bin of the class. -/
def windowed (c : BinClass) : State := working (((flying.setPlan ⟨List.replicate 64 c, 64⟩).setWin
  ⟨[⟨7, 0, 100000, Quad.all true, .opened, 1⟩], 8⟩).setSeq { flying.seq with inFlight := some ⟨1, 1, .window 7, 0, 0⟩ })

/-- The sweep of `flying` on its leg, with 1 of 4 repetitions started. -/
theorem flying_acquires : flying.seq.inFlight = some ⟨1, 1, .free, 0, 0⟩ ∧ flying.findSweep 1
    = some ⟨1, 1, 0, 4, 1, 0, ⟨true, false, false⟩, .acquiring, 23, some 48, .none⟩ := by decide +kernel

theorem witness_BurstAndListenPhases : live.probe.phase ≠ .settle ∧ live.seq.inFlight = none ∧
    ((burst 0).probe.phase = .burst ∧ (burst 0).seq.inFlight ≠ none) ∧
    (flying.probe.phase = .settle ∧ flying.cap.inState .filling = some .h0 ∧ flying.cap.stream = .acquisition ∧
      flying.cap.position = 0 ∧ flying.cap.sampling = none ∧ 1 ≤ (flying.legSettings 1).chipDivider ∧
      2 * (flying.legSettings 1).codeLength + (flying.legSettings 1).profileBins ≤ (flying.cap.half .h0).samples.length ∧
      flying.probe.carrier = some 30) ∧
    gateAsked flying ⟨1, 1, .free, 0, 0⟩ = true ∧ gateAsked (windowed .scheduled) ⟨1, 1, .window 6, 0, 0⟩ = false := by
  decide +kernel

/-- The acquisition of `flying` in its listen. -/
def listening : State := after (exec (.listenPhase []) (burst 0))

theorem witness_AcquisitionEndsAfterItsTime : (live.seq.inFlight = none ∧ flying.probe.phase ≠ .listen) ∧
    (listening.probe.phase = .listen ∧ listening.seq.inFlight = some ⟨1, 1, .free, 0, 0⟩ ∧
      (listening.findSweep 1).isSome = true ∧ listening.cap.inState .filling = some .h0 ∧ listening.cor.job = none ∧
      (listening.cap.half .h0).owner = some (.acquisition 1 1 255 512) ∧
      (∀ i, i ≠ HalfId.h0 → (listening.cap.half i).state ≠ .full)) ∧
    ((working listening).cor.job ≠ none ∧ (working listening).cap.inState .filling = some .h0) ∧
    (2 * 255 + 512 ≤ (flying.cap.half .h0).samples.length ∧ 400 + (2 * 255 + 512) * 4 ≤ 200 * 23 ∧
      (∃ t, exec (.burstPhase line) flying = .next t) ∧ (∃ u, exec (.listenPhase []) (burst 0) = .next u) ∧
      ∃ v, exec (.acquisitionEnd [5]) listening = .next v) ∧
    listening.cap.position ≤ (line ++ []).length := by
  refine ⟨by decide +kernel, ⟨by decide +kernel, by decide +kernel, by decide +kernel, by decide +kernel, by decide +kernel,
    by decide +kernel, fun i hi => ?_⟩, by decide +kernel,
    ⟨by decide +kernel, by decide, ⟨_, rfl⟩, ⟨_, rfl⟩, _, rfl⟩, by decide +kernel⟩
  cases i
  · exact absurd rfl hi
  · decide +kernel

theorem witness_SnapshotSettlesAndCompletes : (snapping.inReset = false ∧ snapping.cap.stream = .snapshot ∧
      snapping.cap.sampling = none ∧ snapping.cap.coupler = some 0 ∧ snapping.cap.inState .filling = some .h0 ∧
      snapping.cap.position = 0 ∧ 1 ≤ (snapping.legSettings 0).chipDivider ∧
      2 * (snapping.legSettings 0).profileBins ≤ (snapping.cap.half .h0).samples.length) ∧
    (live.cap.stream ≠ .snapshot ∧ live.cap.sampling = none) ∧
    (sampling.cap.stream = .snapshot ∧ sampling.cap.sampling ≠ none ∧ sampling.cap.coupler = some 0 ∧
      sampling.cap.inState .filling = some .h0 ∧ (sampling.cap.half .h0).owner = some (.snapshot 0 512) ∧
      sampling.cor.job = none ∧ sampling.prof.lag.state = .capturing ∧ sampling.prof.lag.leg = some 0 ∧
      sampling.cap.half1.state ≠ .full) ∧
    (working sampling).cor.job ≠ none ∧ ∃ v, exec (.snapshotComplete []) sampling = .next v := by
  refine ⟨by decide +kernel, by decide +kernel, by decide +kernel, by decide +kernel, _, rfl⟩

theorem windowInv_windowed (c : BinClass) : WindowInv (windowed c) := by cases c <;> constructor <;> decide +kernel
theorem queueInv_windowed (c : BinClass) : QueueInv (windowed c) := by cases c <;> constructor <;> decide +kernel
theorem probeInv_windowed (c : BinClass) : ProbeInv (windowed c) := by
  constructor
  · intro a h
    have h' : some (⟨1, 1, .window 7, 0, 0⟩ : InFlight) = some a := by rw [← h]; rfl
    cases h'
    cases c <;> decide +kernel
  · intro h
    exact absurd h (by cases c <;> decide +kernel)

theorem probeInv_flying : ProbeInv flying := by
  constructor
  · intro a h
    have h' : some (⟨1, 1, .free, 0, 0⟩ : InFlight) = some a := by rw [← h]; decide +kernel
    cases h'
    decide +kernel
  · intro h
    exact absurd h (by decide +kernel)

theorem witness_AbandonedAcquisitionsAreGivenBack :
    (flying.cap.inState .filling = some .h0 ∧ flying.cor.job = none ∧ flying.cap.half1.state ≠ .full ∧
      (working flying).cor.job ≠ none) ∧
    (Ready (windowed .free) ∧ Ready (windowed .scheduled) ∧ WindowInv (windowed .free) ∧ WindowInv (windowed .scheduled) ∧
      QueueInv (windowed .scheduled) ∧ ProbeInv (windowed .scheduled) ∧
      ((windowed .scheduled).win.table.find? fun x => x.id == (7 : Byte).toNat).map (·.state) = some .opened ∧
      (windowed .scheduled).cap.inState .filling = some .h0 ∧ (windowed .scheduled).cor.job ≠ none ∧
      (windowed .free).windowFree 1 = true ∧ (windowed .scheduled).windowFree 1 = false) ∧
    (Ready (working flying) ∧ QueueInv flying ∧ ProbeInv flying ∧ (List.replicate 64 (1 : Byte)).length < 256 ∧
      flying.plan.stored.length = 64 ∧ flying.openWindow = none ∧
      (let t := flying.setPlan ⟨List.replicate 64 .free, 64⟩
       t.admissible 1 = true ∧ t.windowFree 1 = true) ∧
      (let t := flying.setPlan ⟨List.replicate 64 .scheduled, 64⟩
       t.admissible 1 = true ∧ t.windowFree 1 = false) ∧
      (let t := flying.setPlan ⟨List.replicate 64 .fixed, 64⟩
       t.admissible 1 = false)) := by
  refine ⟨by decide +kernel, ⟨ready_of rfl rfl, ready_of rfl rfl, windowInv_windowed _, windowInv_windowed _,
    queueInv_windowed _, probeInv_windowed _, by decide +kernel⟩, ready_of rfl rfl, queueInv_flying, probeInv_flying, by decide,
    by decide +kernel⟩

/-! #### Correlation, analysis and the divider -/

theorem witness_CodesAndCorrelations : 2 * 63 + 10 ≤ (List.replicate 136 (1 : Int)).length ∧
    4 + 4 ≤ (List.replicate 8 (1 : Int)).length ∧ 0 < 62 ∧ 62 < 63 := by decide +kernel

theorem witness_AcquisitionJobAddsItsCapture : correlating.inReset = false ∧ correlating.cor.job = some ⟨.h0, 0⟩ ∧
    (correlating.cap.half .h0).owner = some (.acquisition 30 0 63 2) ∧
    (correlating.setSeq ⟨[], 31, none⟩).findSweep 30 = none ∧
    (∃ w v, correlating.findSweep 30 = some w ∧ correlating.slot w.slot = ⟨.filling, some v⟩ ∧ v.acc = some [10, 20] ∧
      w.state = .acquiring ∧ w.done + 1 = w.n) :=
  ⟨rfl, rfl, rfl, rfl, _, _, rfl, rfl, rfl, rfl, rfl⟩

theorem witness_SnapshotJobWritesTheLagProfile :
    let p := pairing [100, 0, 100, 0, 0, 0, 0, 0, 0, 0]
    let q := pairing [0, 0, 0, 0, 0, 0, 0, 0, 0, 0]
    p.cor.job = some ⟨.h1, 0⟩ ∧ (p.cap.half .h1).owner = some (.snapshot 0 5) ∧ p.prof.lag.state = .correlating ∧
      p.prof.lag.leg = some 0 ∧ p.prof.lag.k = some 5 ∧ p.ing.pairing ≠ none ∧
      lagPeak (p.legSettings 0) 5 ((List.range 5).map (autoCorrelation 5 (p.cap.half .h1).signed)) = some 2 ∧
      lagPeak (q.legSettings 0) 5 ((List.range 5).map (autoCorrelation 5 (q.cap.half .h1).signed)) = none ∧
      ¬ ((p.setLag .reset).prof.lag.state = .correlating ∧ (p.setLag .reset).prof.lag.leg = some 0) := by decide +kernel

theorem witness_ProfilesAreTrimmedAndSearched :
    (((List.range 33).map fun i => (i, 7)).Pairwise fun x y => x.1 < y.1) ∧ 32 < ((List.range 33).map fun i => (i, 7)).length ∧
    (31, 7) ∈ keepPeaks ((List.range 33).map fun i => (i, 7)) ∧
    (32, 7) ∉ keepPeaks ((List.range 33).map fun i => (i, 7)) ∧ (2, 9) ∈ findPeaks 9 1 1 [0, 0, 9, 9] ∧
    2 ≤ 6 ∧ lagPeak { settings0 with blank := 0, floor := 5 } 6 [9, 0, 5, 0, 5, 0] = some 2 ∧
    lagPeak settings0 6 [9, 0, 5, 0, 5, 0] = none := by decide +kernel

theorem queueInv_analysing (b : Bool) : QueueInv (analysing b) := by cases b <;> constructor <;> decide +kernel

theorem witness_AnalysisStoresProfileAndPeaks (b : Bool) : (analysing b).inReset = false ∧ QueueInv (analysing b) ∧
    (∃ v acc w, (analysing b).slot 1 = ⟨.analysing, some v⟩ ∧ v.analysisStart = some 0 ∧ v.acc = some acc ∧
      (analysing b).findSweep v.sweepId = some w ∧ w.slot = 1 ∧ w.flags.clipped = b ∧
      findPeaks 500 40 1 (acc.map fun a => trimAmplitude 0 (normalise w.options.round w.n a)) ≠ []) :=
  ⟨rfl, queueInv_analysing b, content30 (some (List.replicate 41 0 ++ [8000, 16000, 8000, 0])) (some 0) none,
    List.replicate 41 0 ++ [8000, 16000, 8000, 0], sweep30 .analysing b, rfl, rfl, rfl, by cases b <;> rfl, rfl, rfl,
    by cases b <;> decide +kernel⟩

/-- `analysing` with a flat accumulator. -/
def silent : State := (analysing false).setSlot 1
  ⟨.analysing, some (content30 (some (List.replicate 512 0)) (some 0) none)⟩

theorem witness_AnalysisWithoutPeaks : QueueInv silent ∧ silent.findSweep 30 = some (sweep30 .analysing false) ∧
    findPeaks 500 40 1 ((List.replicate 512 0).map fun a => trimAmplitude 0 (normalise false 8 a)) = [] :=
  ⟨by constructor <;> decide +kernel, by decide +kernel, by decide +kernel⟩

theorem witness_DivisionByOctalDigits : 1 ≤ 7 ∧ 7 * 262144 ≤ 1835005 + 7 / 2 ∧ 1835004 + 7 / 2 < 7 * 262144 ∧
    (Job.mk (.refinePairing 0) 1835004 7 true 0 true).result = some (262143, 6) ∧
    (Job.mk (.refinePairing 0) 1835005 7 true 0 true).result = none ∧
    ([0, 1, 1].getD (1 - 1) 0 < [0, 1, 1].getD 1 0 ∧ [0, 1, 1].getD (1 + 1) 0 ≤ [0, 1, 1].getD 1 0) ∧
    ([65534, 65535, 0].getD (1 - 1) 0 < [65534, 65535, 0].getD 1 0 ∧ [65534, 65535, 0].getD (1 + 1) 0 ≤ 65535) := by
  decide +kernel

/-- `before911` with its running job not the last of its batch. -/
def refining : State :=
  before911.setDiv ⟨[], [], some ⟨⟨.refineSweep 30 231, 5, 1, false, 0, false⟩, 0⟩, 1⟩

/-- The peaks of 9.11 once the last is refined. -/
def refined911 : List Peak :=
  peaks911.map fun p => if p.k = 231 then { p with f := some (-3), t16 := some 3693 } else p

/-- `before911` for a CALIBRATE sweep, with these elements. -/
def calibrating (es : List Element) : State := (before911.setSeq ⟨[{ sweep30 .analysing false with
  options := ⟨false, false, true⟩ }], 31, none⟩).setMap (wired.map.set 0 ⟨es, 5⟩)

/-- The distance of a refined peak of 9.11 from an anchor. -/
def offAnchor (nominal : Nat) (p : Peak) : Nat :=
  distanceBetween (toDistance (before911.qEff 0) (p.t16.getD 0) 2).1 nominal

theorem witness_RefineResultIsWritten : live.div.running = none ∧ (∃ r w c ps, refining.div.running = some r ∧
    r.job.owner = .refineSweep 30 231 ∧ r.job.last = false ∧ r.job.result = some (5, 0) ∧ refining.findSweep 30 = some w ∧
    (refining.slot w.slot).content = some c ∧ c.peaks = some ps) ∧ refining.div.waiting = [] ∧
    (before911.setSeq ⟨[], 31, none⟩).findSweep 30 = none ∧
    (before911.div.running.map (·.job.last) = some true ∧
      (before911.findSweep 30).map (·.options.calibrate) = some false ∧
      ((calibrating []).findSweep 30).map (·.options.calibrate) = some true ∧ (calibrating []).anchor 0 = none) ∧
    ((calibrating [.fresh 8 .tap true 65000]).anchor 0 = some (.fresh 8 .tap true 65000) ∧
      ∀ p ∈ refined911, 4 * 30 < offAnchor 65000 p) ∧
    ((calibrating elements911).anchor 0).map (·.nominal) = some 2612 ∧
    (refined911.Pairwise fun x y => x.k < y.k) ∧
    ∃ p ∈ refined911, offAnchor 2612 p ≤ 4 * 30 ∧ ∀ x ∈ refined911, offAnchor 2612 p < offAnchor 2612 x ∨
      (offAnchor 2612 p = offAnchor 2612 x ∧ (x.amplitude < p.amplitude ∨ (x.amplitude = p.amplitude ∧ p.k ≤ x.k))) :=
  ⟨rfl, ⟨_, sweep30 .analysing false, content30 none none (some peaks911), peaks911, rfl, rfl, rfl, by decide +kernel, rfl,
    rfl, rfl⟩, rfl, rfl, by decide +kernel, by decide +kernel, by decide +kernel, by decide +kernel, by decide +kernel⟩

/-- `calibrating` with a CAL job of a quotient `q` running. -/
def judging (q : Nat) : State := (calibrating elements911).setDiv
  ⟨[], [], some ⟨⟨.cal 30 8 2612, q, 1, false, 0, true⟩, 0⟩, 1⟩

/-- A pairing's REFINE job of quotient 8 running at the lag peak `b`, with these elements on leg 0. -/
def pairingJob (b : Nat) (es : List Element) : State := ((((busy wired).setMap (wired.map.set 0 ⟨es, 5⟩)).setLag
  ⟨.refining, some 0, some 512, some []⟩).setIng { wired.ing with pairing := some ⟨0, 0, none, some b⟩ }).setDiv
  ⟨[], [], some ⟨⟨.refinePairing 0, 8, 1, false, 0, true⟩, 0⟩, 1⟩

/-- The echo distance of that pairing and, with the anchor of `elements911` at 2,612, the distance of an element from its place. -/
def echoAt (b : Nat) : Nat := (toDistance (wired.qEff 0) (16 * b) 2).1
def offPlace (b : Nat) (e : Element) : Nat := distanceBetween e.nominal (2612 - echoAt b)

theorem witness_CalAndPairingResultsAreJudged :
    ([9592, 9593, 19187, 19188, 262143, 262144].map fun q => (judging q).div.running.bind (·.job.result))
      = [some (9592, 0), some (9593, 0), some (19187, 0), some (19188, 0), some (262143, 0), none] ∧
    ((judging 0).findSweep 30).isSome = true ∧ ((judging 0).setSeq ⟨[], 31, none⟩).findSweep 30 = none ∧
    ((judging 0).anchor 0).map (fun a => (a.id, a.nominal)) = some (8, 2612) ∧
    (((judging 0).setMap (wired.map.set 0 ⟨[.fresh 8 .tap true 2613], 6⟩)).anchor 0).map (fun a => (a.id, a.nominal))
      = some (8, 2613) ∧
    ((pairingJob 69 []).prof.lag.state = .refining ∧ (pairingJob 69 []).prof.lag.leg = some 0 ∧
      (pairingJob 69 []).anchor 0 = none ∧ ((pairingJob 69 []).setLag .reset).prof.lag.state ≠ .refining) ∧
    (2612 < echoAt 300 ∧ echoAt 69 ≤ 2612 ∧ (∀ e ∈ [Element.fresh 8 .tap true 2612], 2 * 30 < offPlace 69 e)) ∧
    (ListInv elements911 ∧ ∃ e ∈ elements911, offPlace 84 e ≤ 2 * 30 ∧
      ∀ x ∈ elements911, offPlace 84 e < offPlace 84 x ∨ (offPlace 84 e = offPlace 84 x ∧ e.nominal ≤ x.nominal)) :=
  ⟨by decide +kernel, by decide +kernel, rfl, by decide +kernel, by decide +kernel, by decide +kernel, by decide +kernel,
    by constructor <;> decide +kernel, by decide +kernel⟩

theorem witness_SpeedDistanceAndTemperature : 500 ≤ 500 ∧ 1000 ≤ 1000 ∧ live.inReset = false ∧
    toDistance 19187 1000 16 = (7495, false) ∧ toDistance 19187 16360 16 = (65535, true) := by decide +kernel

/-! #### Reading -/

theorem witness_LegAndWatchAreRead : 4 ≤ (4 : Byte).toNat ∧ ((3 : Byte).toNat = (3 : LegId).val ∧
    (wired.leg 3).settings = none) ∧ ((wired.leg 0).settings = some settings0 ∧
    wired.arith.cal.get 0 = some ⟨16692, 20⟩) ∧ (wired.ingLeg 0).result = none ∧
    ((wired.setIngLeg 0 { wired.ingLeg 0 with result := some ⟨[], 0, true, false, 0, 0⟩ }).ingLeg 0).result
      = some ⟨[], 0, true, false, 0, 0⟩ := by decide +kernel

theorem witness_PagesAreRead : Ready readySlot3 ∧ (4 ≤ (4 : Byte).toNat ∧ 2 < (3 : Byte).toNat ∧ 3 < (4 : Byte).toNat) ∧
    (readySlot3.slot 0).state = .free ∧ ((analysing false).slot 1).state = .analysing ∧
    (∃ c a ps, readySlot3.slot 3 = ⟨.ready, some c⟩ ∧ c.k / 256 ≤ (1 : Byte).toNat ∧ (0 : Byte).toNat < c.k / 256 ∧
      c.profile = some a ∧ a.length = c.k ∧ c.peaks = some ps) :=
  ⟨ready_of rfl rfl, by decide, rfl, rfl, _, _, _, rfl, by decide, by decide, rfl, by decide +kernel, rfl⟩

/-! #### The span map and the strays -/

/-- The list with 48 elements. -/
def full48 : State := wired.setMap (wired.map.set 0 ⟨(List.range 48).map (fun i => .fresh (i + 1) .tap false (10 * i)), 0⟩)

theorem listInv_mapped : ListInv (mapped.elements 0) := by constructor <;> decide +kernel

/-- The clauses of ELEMENT_PUT: each range, a full list, a taken distance, each break of the order, and an accepted put. -/
theorem witness_ElementPutPlacesItsElement : Ready mapped ∧ Ready full48 ∧
    (4 ≤ (4 : Byte).toNat ∧ (0 : Byte).toNat = 0 ∧ 2 < (3 : Byte).toNat ∧ 1 < (2 : Byte).toNat) ∧
    ((∀ e ∈ full48.elements 0, e.id ≠ (49 : Byte).toNat) ∧ 48 ≤ (full48.elements 0).length) ∧
    (¬ (∀ e ∈ full48.elements 0, e.id ≠ (48 : Byte).toNat) ∧
      ∃ e ∈ (full48.elements 0).filter (fun e => e.id ≠ (48 : Byte).toNat), e.nominal = 460) ∧
    (∃ e ∈ (mapped.elements 0).filter (fun e => e.id ≠ (9 : Byte).toNat), e.kind = .eol ∧ e.nominal ≤ 3401) ∧
    (¬ (∃ e ∈ (mapped.elements 0).filter (fun e => e.id ≠ (9 : Byte).toNat), e.kind = .eol ∧ e.nominal ≤ 3399)) ∧
    ListInv (mapped.elements 0) :=
  ⟨ready_of rfl rfl, ready_of rfl rfl, by decide, by decide +kernel, by decide +kernel, by decide +kernel,
    by decide +kernel, listInv_mapped⟩

theorem witness_ElementsAreDroppedAndCleared : 4 ≤ (4 : Byte).toNat ∧ (0 : Byte).toNat = 0 ∧
    (1 ≤ (9 : Byte).toNat ∧ ∀ e ∈ mapped.elements 0, e.id ≠ (9 : Byte).toNat) ∧
    ((mapped.elements 0).find? (fun x => x.id == (2 : Byte).toNat)).isSome = true ∧
    (∃ e ∈ mapped.elements 0, e.id = (2 : Byte).toNat) := by decide +kernel

theorem strayInv_strays1010 : StrayInv strays1010 := by
  constructor
  · decide +kernel
  · intro i hi w hw
    interval_cases i <;> fin_cases w <;> first
      | exact absurd hw (by decide +kernel)
      | exact ⟨by decide +kernel, by decide +kernel, by decide +kernel, by decide +kernel⟩
  · decide +kernel
  · decide +kernel

theorem witness_StrayClearInvalidates : Ready strays1010 ∧ (1 < (2 : Byte).toNat ∧ (0 : Byte).toNat = 0 ∧ 2047 < 2048) ∧
    (∀ w, ((strays1010.stray.set (2037 % 16)).ways.get w).hasTag 1 2037 = false) ∧
    ((strays1010.stray.set (69 % 16)).ways.get 0).hasTag 1 69 = true ∧ StrayInv strays1010 :=
  ⟨ready_of rfl rfl, by decide, by decide +kernel, by decide +kernel, strayInv_strays1010⟩

theorem witness_StrayFeedsHitFillOrDrop :
    let t := set5 (entry1010 0 21 false 1 690) (entry1010 0 37 false 2 1205) (entry1010 1 21 true 2 700)
      (entry1010 0 53 false 1 1710) false false true
    let u := set5 (entry1010 1 69 true 2 2230) (entry1010 0 37 true 3 1190) (entry1010 1 21 true 2 700)
      (entry1010 2 85 true 1 2730) true true false
    t.sets.length = 16 ∧ (((t.set 5).ways.get 1).hasTag 0 37 = true ∧ ∀ x < (1 : Fin 4), ((t.set 5).ways.get x).hasTag 0 37 = false) ∧
      (∀ w, ((t.set 5).ways.get w).hasTag 0 69 = false) ∧ (∀ w, ((t.set 5).ways.get w).valid = true) ∧
      ((t.set 4).ways.get 0).valid = false ∧ victimTable false false true = [] ++ 0 :: [1, 3, 2] ∧
      ((t.set 5).ways.get 0).state = .candidate ∧ (∀ w, ((u.set 5).ways.get w).state = .confirmed) := by decide +kernel

/-! #### Reconciliation and the ingress monitor -/

theorem witness_ElementsTakeTheirNearestPeaks : peaks911.Pairwise fun p q => p.k < q.k := by decide +kernel

theorem witness_ElementsAndLevelsAreJudged : settings0.aLo ≤ settings0.aHi ∧ 599 < settings0.aLo ∧ settings0.aLo ≤ 600 ∧
    900 ≤ settings0.aHi ∧ settings0.aHi < 901 ∧ 600 ≤ settings0.aHi ∧ settings0.aLo ≤ 900 := by decide +kernel

/-- The part of 9.11 as sweep 30 passes to reconciliation; and, with its leg at full level and two faults, the anchor unmatched. -/
def at911 (ps : List Peak) (level faults : Nat) : State := ((before911.setSlot 1
  ⟨.analysing, some (content30 none none (some ps))⟩).setSeq ⟨[{ sweep30 .analysing false with levelUsed := some level }],
    31, none⟩).setLegs (wired.legs.set 0 ⟨some settings0, .enabled, level, faults, 0⟩)

/-- The last of these with another sweep of the leg QUEUED. -/
def faulting : State := let s := at911 [] 63 2
  s.setSeq { s.seq with queue := s.seq.queue ++ [{ sweep30 .queued false with id := 31, slot := 2, started := 0, done := 0 }] }

theorem witness_ReconciliationEndsTheSweep : QueueInv (at911 refined911 48 0) ∧ QueueInv (at911 [] 63 2) ∧
    (QueueInv faulting ∧ faulting.seq.inFlight = none ∧
      (faulting.seq.queue.filter fun v => v.leg = 0 ∧ v.state ≠ .analysing ∧ v.id ≠ 30).map (·.id) = [31]) ∧
    (∃ w c, (at911 refined911 48 0).findSweep w.id = some w ∧
      ((at911 refined911 48 0).slot w.slot).content = some c ∧ c.peaks = some refined911) ∧
    (faultsAfterDone settings0 (.matched 750) 48 0 ≠ settings0.faultLimit ∧
      faultsAfterDone settings0 .unmatched 63 2 = settings0.faultLimit ∧
      ((at911 [] 63 2).leg 0).state = .enabled ∧ ((at911 [] 63 2).findSweep 30).bind (·.levelUsed) = some 63) :=
  ⟨by constructor <;> decide +kernel, by constructor <;> decide +kernel,
    ⟨by constructor <;> decide +kernel, by decide +kernel, by decide +kernel⟩,
    ⟨{ sweep30 .analysing false with levelUsed := some 48 }, content30 none none (some refined911), rfl, rfl, rfl⟩,
    by decide +kernel⟩

/-- R72, R160: the anchor lost for the third time at full level faults the leg, whose QUEUED sweep ends, its slot FREE; the same sweep
with the anchor matched does not. -/
theorem test_legFault : ((reconcile 30 faulting).leg 0).state = .faulted ∧
    ((reconcile 30 faulting).msg.reports.map (·.kind)).drop 1 = [0x61, 0x65, 0x61] ∧
    (reconcile 30 faulting).slot 2 = ⟨.free, none⟩ ∧
    ((reconcile 30 (at911 refined911 48 0)).leg 0).state = .enabled := by decide +kernel

theorem witness_WatchIsSetAndSurveyed : Ready wired ∧ ((-32768 : Int) ≤ -241 ∧ (-241 : Int) < -240 ∧ (240 : Int) < 241) ∧
    (120 < (121 : Byte).toNat ∧ 60 < (61 : Byte).toNat ∧ 1 < (2 : Byte).toNat) ∧
    ((wired.leg 1).state = .off ∧ (wired.leg 0).state ≠ .off ∧ (wired.ingLeg 0).survey = none) ∧
    ((surveying.leg 0).state ≠ .off ∧ (surveying.ingLeg 0).survey ≠ none) ∧
    ((0 : Byte).toNat < 1 ∧ 6 < (7 : Byte).toNat ∧ 1 ≤ (1 : Byte).toNat ∧ (6 : Byte).toNat ≤ 6) :=
  ⟨witness_ready.2.1, by decide, by decide, by decide +kernel, by decide +kernel, by decide⟩

/-- Leg 0 with a record open for 9,998 scans and a survey one short of its last but one scan. -/
def scanning : State := wired.setIngLeg 0 { wired.ingLeg 0 with
  detectors := (List.replicate 64 .quiet).set 7 .burst
  record := some { closedRecord with scans := 9998, endTime := none }
  survey := some ⟨List.replicate 64 ⟨0, 0, none⟩, 3599998, 0⟩ }

/-- `scanning` one scan later: the record is at its last scan before LONG, the survey before FULL. -/
def lastScan : State := wired.setIngLeg 0 { scanning.ingLeg 0 with
  record := some { closedRecord with scans := 9999, endTime := none }
  survey := some ⟨List.replicate 64 ⟨0, 0, none⟩, 3599999, 0⟩ }

/-- The clauses of a scan: OFF, a countdown of 1, a survey and a record one short of their ends and at them, none of either, and a
bin that is watched and not held, above the onset. -/
theorem witness_ScansCountDownOrRead : wired.inReset = false ∧ (wired.leg 1).state = .off ∧
    (let s := wired.setLegs (wired.legs.set 0 ⟨some settings0, .enabled, 48, 0, 1⟩)
     (s.leg 0).state ≠ .off ∧ 0 < (s.leg 0).settle) ∧
    ((wired.leg 0).state ≠ .off ∧ (wired.leg 0).settle = 0 ∧ (wired.ingLeg 0).survey = none) ∧
    (∃ x, (scanning.ingLeg 0).survey = some x ∧ x.scans + 1 < 3600000) ∧
    (∃ x, (lastScan.ingLeg 0).survey = some x ∧ 3600000 ≤ x.scans + 1) ∧
    (∃ r, (scanning.ingLeg 0).record = some r ∧ r.scans + 1 < 10000) ∧
    (∃ r, (lastScan.ingLeg 0).record = some r ∧ 10000 ≤ r.scans + 1) ∧
    ((wired.ingLeg 0).record = none ∧ (wired.ingLeg 0).longHeld = false) ∧
    (wired.watched 0 7 = true ∧ (wired.ingLeg 0).acquired = false ∧ wired.seq.inFlight = none ∧
      (wired.ingLeg 0).settings.mode = .absolute ∧ (wired.ingLeg 0).settings.onset ≤ -80) :=
  ⟨rfl, rfl, by decide +kernel, by decide +kernel, ⟨_, rfl, by decide⟩, ⟨_, rfl, by decide⟩, ⟨_, rfl, by decide⟩,
    ⟨_, rfl, by decide⟩, by decide +kernel, by decide +kernel⟩

/-- R186, R187: a scan that leaves every bin QUIET logs the record with its time; a louder bin becomes the peak. -/
theorem test_ingressScan_record :
    ((after (exec (.ingressScan 0 (List.replicate 64 (-240))) scanning)).ing.log.map fun r =>
      (r.scans, r.endTime, r.long, r.cut)) = [(9999, some 1000, false, false)] ∧
    ((after (exec (.ingressScan 0 (((List.replicate 64 (-240)).set 9 (-51)).set 3 (-51)))
      scanning)).ingLeg 0).record.map (fun r => (r.bins, r.peakLevel, r.peakBin)) = some ([3, 7, 9], -51, 3) := by
  decide +kernel

/-- R187, R194: at its 10,000th scan a record closes with LONG; at its 3,600,000th a survey is latched with FULL. -/
theorem test_ingressScan_last : let t := after (exec (.ingressScan 0 ((List.replicate 64 (-240)).set 7 (-52))) lastScan)
    (t.ing.log.map fun r => (r.long, r.scans)) = [(true, 10000)] ∧ (t.ingLeg 0).longHeld = true ∧
      (t.ingLeg 0).record = none ∧ ((t.ingLeg 0).result.map fun v => (v.full, v.scans)) = some (true, 3600000) := by
  decide +kernel

/-- The leg of `wired` with an anchor, its pairings on or off, and the lag slot in this state. -/
def paired (on : Bool) (lag : LagState) : State := ((wired.setMap (wired.map.set 0 ⟨elements911, 5⟩)).setLag
  { wired.prof.lag with state := lag }).setIngLeg 0 { wired.ingLeg 0 with settings := ⟨.absolute, -80, 40, 12, on⟩ }

theorem witness_RecordsOpenAndAreLogged :
    (((paired false .free).ingLeg 0).settings.pairing = false ∧ (wired.ingLeg 0).settings.pairing = true ∧
      wired.anchor 0 = none ∧ (paired true .refining).anchor 0 ≠ none ∧ (paired true .refining).prof.lag.state ≠ .free ∧
      (paired true .free).prof.lag.state = .free) ∧
    ((paired true .free).cap.inState .filling = none ∧ (paired true .free).cap.inState .free = some .h0 ∧
      (paired true .free).seq.inFlight = none ∧ (∀ w ∈ (paired true .free).seq.queue, ¬ MayStart (paired true .free) w) ∧
      (∃ w ∈ mayStart.seq.queue, MayStart mayStart w) ∧ flying.cap.inState .filling ≠ none) ∧
    (((recording none).ingLeg 0).record.map (·.serial) = some 5 ∧ (recording none).ing.pairing = some ⟨0, 5, none, none⟩ ∧
      (recording none).cap.waiting = none ∧ (recording (some 0)).cap.waiting ≠ none ∧
      ∀ p, (wired.setIngLeg 0 (scanning.ingLeg 0)).ing.pairing = some p → p.serial ≠ 0) ∧
    128 ≤ ((recording none).setIng { (recording none).ing with log := List.replicate 128 closedRecord }).ing.log.length :=
  ⟨by decide +kernel, by simp only [← eligible_iff]; decide +kernel, ⟨by decide +kernel, by decide +kernel, by decide +kernel, by decide +kernel, nofun⟩,
    by decide +kernel⟩

/-! #### The invariants, in states with something to keep -/

theorem lineInv_reporting : LineInv (reporting 32) := by constructor <;> decide +kernel
theorem witness_StepsKeepTheLine : LineInv (reporting 32) ∧ ∃ t, step (reporting 32) = .next t :=
  ⟨lineInv_reporting, _, rfl⟩

theorem witness_StepsKeepTheWindows : WindowInv opened ∧ ∃ t, step opened = .next t := ⟨windowInv_opened, _, rfl⟩

theorem legInv_wired : LegInv wired := by
  constructor
  · decide +kernel
  · decide +kernel
  · decide +kernel
  · decide +kernel
  · intro g t ht
    fin_cases g
    · have h : some settings0 = some t := ht
      cases h
      decide +kernel
    all_goals exact nomatch (ht : (none : Option Settings) = some t)
  · decide +kernel
  · intro g c hc
    fin_cases g
    · have h : some (⟨16692, 20⟩ : Cal) = some c := hc
      cases h
      decide +kernel
    all_goals exact nomatch (hc : (none : Option Cal) = some c)
  · decide +kernel

theorem witness_StepsKeepTheLegs : LegInv wired ∧ ∃ t, step wired = .next t := ⟨legInv_wired, _, rfl⟩

theorem witness_StepsKeepTheQueues : QueueInv flying ∧ ∃ t, step flying = .next t := ⟨queueInv_flying, _, rfl⟩

theorem windowInv_flying : WindowInv flying := by constructor <;> decide +kernel

theorem witness_StepsKeepTheProbeLawful : WindowInv flying ∧ ProbeInv flying ∧ ∃ t, step flying = .next t :=
  ⟨windowInv_flying, probeInv_flying, _, rfl⟩

theorem mapInv_mapped : MapInv mapped := by
  intro g
  fin_cases g
  · exact listInv_mapped
  all_goals constructor <;> decide +kernel

theorem witness_StepsKeepTheMapAndTheStrays : (MapInv mapped ∧ ∃ t, step mapped = .next t) ∧
    (StrayInv strays1010 ∧ ∃ t, step strays1010 = .next t) :=
  ⟨⟨mapInv_mapped, _, rfl⟩, strayInv_strays1010, _, rfl⟩

theorem ingressInv_scanning : IngressInv scanning := by constructor <;> decide +kernel
theorem windowInv_scanning : WindowInv scanning := by constructor <;> decide +kernel

theorem witness_StepsKeepTheWatch : WindowInv scanning ∧ IngressInv scanning ∧ ∃ t, step scanning = .next t :=
  ⟨windowInv_scanning, ingressInv_scanning, _, rfl⟩

end Sys2Proof.Tests
end

section
/-! PROOFS. How a request on a ready part is dispatched and answered, for the requests whose owner posts no report. -/

namespace Sys2Proof.Machine

open Sys2Proof

/-! ### The state inside one dispatch (R8, log 8) -/

/-- A state as the owner of a request sees it: an IDLE transmitter is kept from the reports (log 8). -/
def State.holding (s : State) : State := s.setMsg { s.msg with hold := true }

/-! ### Replies (R8, R11, R12) -/

@[simp] theorem State.replied_win (kind tag : Byte) (st : Status) (fields : List Byte) (s : State) :
    (s.replied kind tag st fields).win = s.win := by
  unfold State.replied; split <;> rfl

@[simp] theorem State.replied_time (kind tag : Byte) (st : Status) (fields : List Byte) (s : State) :
    (s.replied kind tag st fields).time = s.time := by
  unfold State.replied; split <;> rfl

@[simp] theorem State.replied_openWindow (kind tag : Byte) (st : Status) (fields : List Byte) (s : State) :
    (s.replied kind tag st fields).openWindow = s.openWindow := by
  simp [State.openWindow]

/-- A reply that is placed stands in the slot, or the transmitter has it. -/
theorem State.answered_replied (kind tag : Byte) (st : Status) (fields : List Byte) (s : State) :
    Answered (s.replied kind tag st fields) kind tag st fields := by
  unfold State.replied
  split
  · exact .inr ⟨_, rfl⟩
  · exact .inl rfl

/-- A good frame of an allowed length on a ready part, when its owner answers `t` and leaves the message controller and the
time as they are: the owner's effect and the reply (R8, R12). -/
theorem requestArrives_served {n : Nat} {f : Frame} {s t : State} {st : Status} {fields : List Byte} (h : Ready s)
    (hkind : kindsInUse.contains f.kind.toNat = true) (hlength : lengthAllowed f.kind f.payload = true)
    (hs : serveKind f.kind f.payload (s.after n).holding = (t, ⟨st, fields, false⟩))
    (hmsg : t.msg = (s.after n).holding.msg) (htime : t.time = (s.after n).time) :
    requestArrives n f s = .next ((t.setMsg s.msg).replied f.kind f.tag st fields) := by
  have hback : (t.setMsg s.msg).setMsg (s.after n).holding.msg = t := by rw [← hmsg]; rfl
  refine requestArrives_silent h ?_ htime rfl
  calc serve f (s.after n).holding
      = serveKind f.kind f.payload (s.after n).holding := by
        simp only [serve, hkind, hlength, Bool.not_true, Bool.false_eq_true, ↓reduceIte]
    _ = (t, ⟨st, fields, false⟩) := hs
    _ = ((t.setMsg s.msg).setMsg (s.after n).holding.msg, ⟨st, fields, false⟩) := by rw [hback]

/-! ### Fields of a payload (R200) -/

@[simp] theorem le_length (n v : Nat) : (le n v).length = n := by
  induction n generalizing v with
  | zero => rfl
  | succ n ih => simp [le, ih]

/-- Bytes written least significant first are read back as the number they hold. -/
theorem unle_le (n v : Nat) : unle (le n v) = v % 256 ^ n := by
  induction n generalizing v with
  | zero => simp [le, unle, Nat.mod_one]
  | succ n ih =>
    rw [le, unle, ih, BitVec.toNat_ofNat, show 256 ^ (n + 1) = 256 * 256 ^ n from Nat.pow_succ', Nat.mod_mul]

/-- A field is read where it stands. -/
theorem field_eq_unle {p before bytes after : List Byte} {i n : Nat} (hp : p = before ++ bytes ++ after)
    (hi : before.length = i) (hn : bytes.length = n) : field p i n = unle bytes := by
  subst hp hi hn
  simp [field]

/-- A number that fits its field is read as it was written. -/
theorem field_le {p before after : List Byte} {i n v : Nat} (hp : p = before ++ le n v ++ after)
    (hi : before.length = i) (hv : v < 256 ^ n) : field p i n = v := by
  rw [field_eq_unle hp hi (le_length ..), unle_le, Nat.mod_eq_of_lt hv]

end Sys2Proof.Machine
end

section
/-! PROOFS. The reads of whole tables (R30, R38, R69). -/

namespace Sys2Proof.Machine

open Sys2Proof

/-- A request that carries no operand and whose owner reads the state without a change (R8). -/
theorem requestArrives_read {n : Nat} {kind tag : Byte} {s : State} {fields : List Byte} (h : Ready s)
    (hkind : kindsInUse.contains kind.toNat = true) (hlength : lengthAllowed kind [] = true)
    (hs : serveKind kind [] (s.after n).holding = ((s.after n).holding, okReply fields)) :
    requestArrives n ⟨kind, tag, []⟩ s = .next ((s.after n).replied kind tag .ok fields) :=
  requestArrives_served h hkind hlength hs rfl rfl

/-- The yes/no byte that leads a level: 1 when there is one (R202). -/
theorem levelUsed_presence (v : Option Nat) : bitsOf [v.isSome] = if v = none then 0 else 1 := by
  cases v <;> rfl

/-- The record of a sweep, its options and flags bit by bit (R200, R202). -/
theorem Sweep.layout_eq (w : Sweep) : w.layout = u8 w.id ++ u8 w.leg.val ++ u8 w.slot.val ++ u8 w.n ++ u8 w.started
    ++ u8 w.done ++ u8 (bitsOf [w.options.round, w.options.baseline, w.options.calibrate]) ++ u8 w.state.code
    ++ le 2 w.tAcq ++ u8 (if w.levelUsed = none then 0 else 1) ++ u8 (w.levelUsed.getD 0)
    ++ u8 (bitsOf [w.flags.clipped, w.flags.calDone, w.flags.calFailed, w.flags.peaksTruncated, w.flags.range]) := by
  rw [← levelUsed_presence]
  rfl

/-- The in-flight group of SWEEP_LIST: zeros with nothing in flight (R202). -/
theorem inFlightLayout_eq (o : Option InFlight) : inFlightLayout o =
    match o with
    | none => List.replicate 12 0
    | some a => [1] ++ u8 a.sweepId ++ u8 a.leg.val
        ++ (match a.basis with
          | .free => [0, 0, 0]
          | .window id => [1, 1] ++ u8 id)
        ++ le 6 a.startTime := by
  cases o with
  | none => rfl
  | some a =>
    obtain ⟨id, leg, basis, time, clock⟩ := a
    cases basis <;> rfl

/-- Settles O41: each of the three requests reads the state and changes nothing; what is left is the layout of its records. -/
theorem wholeTablesAreListed : Obligations.WholeTablesAreListed := by
  unfold Obligations.WholeTablesAreListed
  intro n tag s h u
  refine ⟨requestArrives_read h rfl rfl rfl, requestArrives_read h rfl rfl rfl, requestArrives_read h rfl rfl ?_⟩
  show serveSweepList [] u.holding = _
  simp only [serveSweepList, inFlightLayout_eq, funext Sweep.layout_eq]
  rfl

end Sys2Proof.Machine
end

section
/-! PROOFS. The grant of a window: ids (R23), its place in the table (R25), and its opening (R26). -/

namespace Sys2Proof.Machine

open Sys2Proof

/-! ### Ids (R23, R52) -/

/-- The id `k` places after an id, wrapping from 255 to 1. -/
theorem nextIdAfter_iterate {next : Nat} (h1 : 1 ≤ next) (h2 : next ≤ 255) (k : Nat) :
    nextIdAfter^[k] next = (next - 1 + k) % 255 + 1 := by
  induction k with
  | zero => simp only [Function.iterate_zero, id_eq]; omega
  | succ k ih =>
    rw [Function.iterate_succ_apply', ih]
    simp only [nextIdAfter, beq_iff_eq]
    split <;> omega

/-- The search for an id goes past ids in use, and where it stops before its tries are spent it has found a free one. -/
theorem allocateId_search (n next : Nat) (used : List Nat) :
    ∃ k ≤ n, allocateId n next used = nextIdAfter^[k] next ∧ (∀ j < k, nextIdAfter^[j] next ∈ used) ∧
      (k < n → nextIdAfter^[k] next ∉ used) := by
  induction n generalizing next with
  | zero => exact ⟨0, le_rfl, rfl, nofun, nofun⟩
  | succ n ih =>
    by_cases hused : next ∈ used
    · obtain ⟨k, hk, hid, hpast, hfree⟩ := ih (nextIdAfter next)
      have hstep : allocateId (n + 1) next used = allocateId n (nextIdAfter next) used := by
        simp [allocateId, nextIdAfter, hused]
      refine ⟨k + 1, by omega, hstep.trans hid, fun j hj => ?_, fun hk => hfree (by omega)⟩
      cases j with
      | zero => exact hused
      | succ j => exact hpast j (by omega)
    · exact ⟨0, Nat.zero_le _, by simp [allocateId, hused], nofun, fun _ => hused⟩

/-- With fewer ids in use than tries, the id given is free (R23). -/
theorem allocateId_fresh {n next : Nat} {used : List Nat} (h1 : 1 ≤ next) (h2 : next ≤ 255) (hn : n ≤ 255)
    (hused : used.length < n) : allocateId n next used ∉ used := by
  obtain ⟨k, hk, hid, hpast, hfree⟩ := allocateId_search n next used
  have hnodup : ((List.range k).map fun j => nextIdAfter^[j] next).Nodup := by
    refine List.nodup_range.map_on fun i hi j hj hij => ?_
    rw [List.mem_range] at hi hj
    rw [nextIdAfter_iterate h1 h2, nextIdAfter_iterate h1 h2] at hij
    omega
  have hsub : ((List.range k).map fun j => nextIdAfter^[j] next) ⊆ used := by
    intro id hmem
    obtain ⟨j, hj, rfl⟩ := List.mem_map.mp hmem
    exact hpast j (List.mem_range.mp hj)
  have hle : k ≤ used.length := by simpa using (List.subperm_of_subset hnodup hsub).length_le
  rw [hid]
  exact hfree (by omega)

/-! ### The table (R22, R25) -/

/-- A window is put after those that start no later and before the first that starts later. -/
theorem insertWindow_split (w : Window) (table : List Window) : ∃ before rest, table = before ++ rest ∧
    (∀ x ∈ before, x.start ≤ w.start) ∧ (∀ x ∈ rest.head?, w.start < x.start) ∧
    insertWindow w table = before ++ w :: rest := by
  induction table with
  | nil => exact ⟨[], [], rfl, nofun, nofun, rfl⟩
  | cons x xs ih =>
    by_cases hx : w.start < x.start
    · exact ⟨[], x :: xs, rfl, nofun, by simpa using hx, by simp [insertWindow, hx]⟩
    · obtain ⟨before, rest, rfl, hbefore, hrest, hinsert⟩ := ih
      refine ⟨x :: before, rest, rfl, ?_, hrest, by simp [insertWindow, hx, hinsert]⟩
      simpa using ⟨Nat.le_of_not_lt hx, hbefore⟩

/-- Some window of the table overlaps the span asked for. -/
theorem any_overlaps_iff (start stop : Nat) (table : List Window) :
    table.any (overlaps start stop) = true ↔ ∃ w ∈ table, start < w.stop ∧ w.start < stop := by
  simp [overlaps]

/-! ### The OPEN window after an opening (R26, R32) -/

/-- No window is OPEN exactly when every record of the table is PENDING. -/
theorem State.openWindow_eq_none (s : State) : s.openWindow = none ↔ ∀ w ∈ s.win.table, w.state ≠ .opened := by
  simp [State.openWindow]

/-- What counting an acquisition does to one record of the table. -/
def Window.counted (w : Window) : Window := if w.state == .opened then { w with made := satSucc 65535 w.made } else w

@[simp] theorem Window.counted_state (w : Window) : w.counted.state = w.state := by unfold Window.counted; split <;> rfl

/-- The records of the table, each counted. -/
theorem countAcquisition_win (s : State) :
    (countAcquisition s).win = ⟨s.win.table.map Window.counted, s.win.nextId⟩ := rfl

/-- Counting an acquisition keeps which window is OPEN. -/
theorem countAcquisition_openWindow (s : State) : (countAcquisition s).openWindow = s.openWindow.map Window.counted := by
  simp [State.openWindow, countAcquisition_win, List.find?_map]

/-- The start of an acquisition touches the window scheduler only by counting. -/
theorem startAcquisition_win (h : HalfId) (w : Sweep) (s : State) :
    (startAcquisition h w s).win = s.win ∨ (startAcquisition h w s).win = (countAcquisition s).win := by
  unfold startAcquisition
  dsimp only
  cases basisOf s w.leg with
  | free => left; simp
  | window id => right; simp [countAcquisition]

/-- The choice touches the window scheduler only by counting the acquisition it starts (R32, R57). -/
theorem choose_win (s : State) : (choose s).win = s.win ∨ (choose s).win = (countAcquisition s).win := by
  unfold choose
  split
  · exact .inl rfl
  split
  · exact .inl rfl
  split
  · exact startAcquisition_win ..
  split
  · left; simp
  · exact .inl rfl

/-- The choice keeps which window is OPEN, its id, its span and its legs, and next-id. -/
theorem choose_openWindow {s : State} {w : Window} (h : s.openWindow = some w) :
    (choose s).win.nextId = s.win.nextId ∧ ∃ made, (choose s).openWindow = some { w with made := made } := by
  have hstate : w.state = .opened := by simpa using List.find?_some h
  obtain hw | hw := choose_win s
  · exact ⟨by rw [hw], w.made, by rw [State.openWindow, hw]; exact h⟩
  · refine ⟨by rw [hw, countAcquisition_win], satSucc 65535 w.made, ?_⟩
    calc (choose s).openWindow
        = (countAcquisition s).openWindow := by rw [State.openWindow, hw]; rfl
      _ = some w.counted := by rw [countAcquisition_openWindow, h]; rfl
      _ = some { w with made := satSucc 65535 w.made } := by simp [Window.counted, hstate]

/-- When a record opens and no record before it is OPEN or carries its id, it is the OPEN window (R26). -/
theorem openWindowAt_openWindow {s : State} {before rest : List Window} {w : Window}
    (htable : s.win.table = before ++ w :: rest) (hnone : ∀ x ∈ before, x.state ≠ .opened)
    (hid : ∀ x ∈ before, x.id ≠ w.id) :
    (openWindowAt w.id s).win.nextId = s.win.nextId ∧
      ∃ made, (openWindowAt w.id s).openWindow = some { w.opens with made := made } := by
  have hkeep : before.map (fun x => if x.id = w.id then x.opens else x) = before :=
    (List.map_congr_left fun x hx => if_neg (hid x hx)).trans (List.map_id' before)
  have hopen : (s.setTable (s.win.table.map fun x => if x.id = w.id then x.opens else x)).openWindow = some w.opens := by
    have hpast : before.find? (fun x => x.state == .opened) = none := by simpa using hnone
    simp only [State.openWindow, State.setTable, State.setWin_win, htable, List.map_append, List.map_cons, hkeep,
      ↓reduceIte, List.find?_append, hpast, Option.none_or]
    rfl
  exact choose_openWindow hopen

/-! ### WINDOW_GRANT (R24, R25) -/

/-- The fields a payload of WINDOW_GRANT carries (R24, R201). -/
structure CarriesGrant (p : List Byte) (start length legs : Nat) : Prop where
  start_eq  : field p 0 6 = start
  length_eq : field p 6 4 = length
  legs_eq   : field p 10 1 = legs

/-- The payload laid out as R201 says carries its fields. -/
theorem carriesGrant_payload {start length : Nat} (legs : Byte) (hstart : start < 281474976710656)
    (hlength : length < 4294967296) :
    CarriesGrant (le 6 start ++ le 4 length ++ [legs]) start length legs.toNat where
  start_eq := field_le (before := []) (List.append_assoc ..) rfl hstart
  length_eq := field_le rfl (le_length ..) hlength
  legs_eq := (field_eq_unle (List.append_nil _).symm (by simp) rfl).trans (Nat.add_zero _)

/-- The record of an accepted grant (R23, R25). -/
def grantedWindow (start length legs : Nat) (s : State) : Window :=
  ⟨allocateId 5 s.win.nextId (s.win.table.map (·.id)), start, start + length, legSetOf legs, .pending, 0⟩

/-- The part with a granted window in its place in the table (R23, R25). -/
def State.joined (w : Window) (s : State) : State := s.setWin ⟨insertWindow w s.win.table, nextIdAfter w.id⟩

section
variable {p : List Byte} {start length legs : Nat} {s : State} (hp : CarriesGrant p start length legs)
include hp

/-- R24: fields outside their ranges. -/
theorem serveWindowGrant_badValue (hrange : grantOutOfRange start length legs) :
    serveWindowGrant p s = (s, refuse .badValue) := by
  obtain ⟨rfl, rfl, rfl⟩ := hp
  exact if_pos hrange

variable (hrange : ¬ grantOutOfRange start length legs)
include hrange

/-- R24: a start that has passed. -/
theorem serveWindowGrant_late (hlate : start < s.time.timebase) : serveWindowGrant p s = (s, refuse .late) := by
  obtain ⟨rfl, rfl, rfl⟩ := hp
  exact (if_neg hrange).trans (if_pos hlate)

variable (htime : s.time.timebase ≤ start)
include htime

/-- R24: a span that overlaps a window of the table. -/
theorem serveWindowGrant_overlap (hclash : ∃ w ∈ s.win.table, start < w.stop ∧ w.start < start + length) :
    serveWindowGrant p s = (s, refuse .overlap) := by
  obtain ⟨rfl, rfl, rfl⟩ := hp
  exact (if_neg hrange).trans <| (if_neg (by omega)).trans <| if_pos ((any_overlaps_iff ..).mpr hclash)

variable (hclash : ¬ ∃ w ∈ s.win.table, start < w.stop ∧ w.start < start + length)
include hclash

/-- R24: a full table. -/
theorem serveWindowGrant_noRoom (hfull : 4 ≤ s.win.table.length) : serveWindowGrant p s = (s, refuse .noRoom) := by
  obtain ⟨rfl, rfl, rfl⟩ := hp
  exact (if_neg hrange).trans <| (if_neg (by omega)).trans <| (if_neg (by rwa [any_overlaps_iff])).trans <| if_pos hfull

variable (hroom : s.win.table.length < 4)
include hroom

/-- R25, R26: an accepted grant joins the table; whether it opens at once is left to its start and the OPEN window. -/
theorem serveWindowGrant_accepted :
    serveWindowGrant p s = (if start = s.time.timebase ∧ s.openWindow.isNone then
      openWindowAt (grantedWindow start length legs s).id (s.joined (grantedWindow start length legs s))
      else s.joined (grantedWindow start length legs s), okReply (u8 (grantedWindow start length legs s).id)) := by
  obtain ⟨rfl, rfl, rfl⟩ := hp
  exact (if_neg hrange).trans <| (if_neg (by omega)).trans <| (if_neg (by rwa [any_overlaps_iff])).trans <|
    if_neg (by omega)

/-- R25: a grant that starts later, or while another window is OPEN, waits in the table. -/
theorem serveWindowGrant_waits (hwait : s.time.timebase < start ∨ s.openWindow ≠ none) :
    serveWindowGrant p s = (s.joined (grantedWindow start length legs s),
      okReply (u8 (grantedWindow start length legs s).id)) := by
  have hnot : ¬ (start = s.time.timebase ∧ s.openWindow.isNone = true) := fun ⟨hnow, hnone⟩ =>
    hwait.elim (by omega) fun h => h (Option.isNone_iff_eq_none.mp hnone)
  rw [serveWindowGrant_accepted hp hrange htime hclash hroom, if_neg hnot]

/-- R25, R26: a grant that starts now with no window OPEN opens at once. -/
theorem serveWindowGrant_opens (hnow : s.time.timebase = start) (hnone : s.openWindow = none) :
    serveWindowGrant p s = (openWindowAt (grantedWindow start length legs s).id
      (s.joined (grantedWindow start length legs s)), okReply (u8 (grantedWindow start length legs s).id)) := by
  rw [serveWindowGrant_accepted hp hrange htime hclash hroom, if_pos ⟨hnow.symm, Option.isNone_iff_eq_none.mpr hnone⟩]

end

/-- Under the window invariant the id of an accepted grant is new to the table (R23). -/
theorem grantedWindow_id_fresh {s : State} (hs : WindowInv s) (start length legs : Nat) :
    ∀ x ∈ s.win.table, x.id ≠ (grantedWindow start length legs s).id := by
  intro x hx hid
  have hroom : (s.win.table.map (·.id)).length < 5 := by simpa using Nat.lt_succ_of_le hs.room
  have hmem : x.id ∈ s.win.table.map (·.id) := List.mem_map_of_mem hx
  rw [hid] at hmem
  exact allocateId_fresh hs.nextId.1 hs.nextId.2 (by decide) hroom hmem

/-- The window invariant speaks of the window scheduler alone. -/
theorem WindowInv.of_win {s t : State} (h : WindowInv s) (hw : t.win = s.win) : WindowInv t := by
  obtain ⟨room, spans, ordered, ids, idRange, nextId, oneOpen⟩ := h
  constructor <;> rwa [hw]

/-- A grant that opens at once leaves the message controller and the time to the dispatch. -/
theorem openWindowAt_joined_frame (id : Nat) (w : Window) (s : State) :
    (openWindowAt id (s.joined w)).msg = s.msg ∧ (openWindowAt id (s.joined w)).time = s.time := by
  simp [State.joined]

/-- A granted window that opens at once is the OPEN window (R25, R26). -/
theorem openWindowAt_granted {s : State} (hs : WindowInv s) (hnone : s.openWindow = none) (start length legs : Nat) :
    let w := grantedWindow start length legs s
    (openWindowAt w.id (s.joined w)).win.nextId = nextIdAfter w.id ∧
      ∃ made, (openWindowAt w.id (s.joined w)).openWindow = some { w.opens with made := made } := by
  intro w
  obtain ⟨before, rest, htable, -, -, hinsert⟩ := insertWindow_split w s.win.table
  have hbefore : ∀ x ∈ before, x ∈ s.win.table := fun x hx => htable ▸ List.mem_append_left _ hx
  exact openWindowAt_openWindow (s := s.joined w) hinsert
    (fun x hx => s.openWindow_eq_none.mp hnone x (hbefore x hx))
    (fun x hx => grantedWindow_id_fresh hs start length legs x (hbefore x hx))

/-- WINDOW_GRANT on a ready part, by what the scheduler answers (R8). -/
theorem exec_windowGrant {n : Nat} {tag : Byte} {p : List Byte} {s t : State} {st : Status} {fields : List Byte}
    (h : Ready s) (hp : p.length = 11) (hs : serveWindowGrant p (s.after n).holding = (t, ⟨st, fields, false⟩))
    (hmsg : t.msg = (s.after n).holding.msg) (htime : t.time = (s.after n).time) :
    exec (.windowGrant n tag p) s = .next ((t.setMsg s.msg).replied 0x08 tag st fields) :=
  requestArrives_served h rfl (by simpa [lengthAllowed] using hp) hs hmsg htime

/-- Settles O16: WINDOW_GRANT's cases in the order of its checks; the opened window is followed through the sequencer's choice,
which may count an acquisition in it. -/
theorem windowGrantChecksAndJoins : Obligations.WindowGrantChecksAndJoins := by
  unfold Obligations.WindowGrantChecksAndJoins
  intro n start length legs tag s hready hstart hlength u c clash id
  have hp := carriesGrant_payload legs hstart hlength
  have hp11 : (le 6 start ++ le 4 length ++ [legs]).length = 11 := by simp
  refine ⟨fun hrange => exec_windowGrant hready hp11 (serveWindowGrant_badValue hp hrange) rfl rfl,
    fun hrange hlate => exec_windowGrant hready hp11 (serveWindowGrant_late hp hrange hlate) rfl rfl,
    fun hrange hlate hclash => exec_windowGrant hready hp11 (serveWindowGrant_overlap hp hrange hlate hclash) rfl rfl,
    fun hrange hlate hclash hfull =>
      exec_windowGrant hready hp11 (serveWindowGrant_noRoom hp hrange hlate hclash hfull) rfl rfl,
    fun hrange hlate hclash hroom => ?_⟩
  let w := grantedWindow start length legs.toNat s
  constructor
  · intro hwait
    obtain ⟨before, rest, htable, hbefore, hrest, hinsert⟩ := insertWindow_split w s.win.table
    refine ⟨before, rest, htable, hbefore, hrest, ?_⟩
    calc exec c s
        = .next ((u.setWin ⟨insertWindow w s.win.table, nextIdAfter id⟩).replied 0x08 tag .ok (u8 id)) :=
          exec_windowGrant hready hp11
            (serveWindowGrant_waits (s := u.holding) hp hrange hlate hclash hroom hwait) rfl rfl
      _ = .next ((u.setWin ⟨before ++ w :: rest, nextIdAfter id⟩).replied 0x08 tag .ok (u8 id)) := by rw [hinsert]
  · intro hnow hnone hinv
    obtain ⟨hmsg, htime⟩ := openWindowAt_joined_frame id w u.holding
    obtain ⟨hnext, made, hopen⟩ := openWindowAt_granted (s := u.holding) (hinv.of_win rfl) hnone start length legs.toNat
    have hserve := serveWindowGrant_opens (s := u.holding) hp hrange hlate hclash hroom hnow hnone
    exact ⟨_, { w.opens with made := made }, exec_windowGrant hready hp11 hserve hmsg htime,
      (State.replied_openWindow ..).trans hopen, rfl, rfl, rfl, rfl,
      (congrArg Windows.nextId (State.replied_win ..)).trans hnext, (State.replied_time ..).trans htime,
      State.answered_replied ..⟩

end Sys2Proof.Machine
end

section
/-! PROOFS. The probe band and its two tests against the spectrum plan (R34, R39, R40). -/

namespace Sys2Proof.Machine

open Sys2Proof

/-- The half-width ceil(32 / D) is the entry of R39's table, for every chip divider of R41. -/
theorem Settings.halfWidth_eq_table (t : Settings) (h1 : 1 ≤ t.chipDivider) (h16 : t.chipDivider ≤ 16) :
    t.halfWidth = halfWidthTable.getD t.chipDivider 0 := by
  have table : ∀ d < 17, 1 ≤ d → (32 + d - 1) / d = halfWidthTable.getD d 0 := by decide
  exact table t.chipDivider (by omega) h1

/-- The bins of a band that does not begin below bin 0 are those from n - h to n + h (R39). -/
theorem Settings.mem_bandBins {t : Settings} (h : t.halfWidth ≤ t.carrier) (b : Nat) :
    b ∈ t.bandBins ↔ t.carrier - t.halfWidth ≤ b ∧ b ≤ t.carrier + t.halfWidth := by
  simp only [Settings.bandBins, Settings.bandLow, List.mem_map, List.mem_range]
  constructor
  · rintro ⟨i, hi, rfl⟩
    omega
  · rintro ⟨hlow, hhigh⟩
    exact ⟨b - (t.carrier - t.halfWidth), by omega, by omega⟩

/-- A band is admissible exactly when none of its bins is effectively FIXED (R40). -/
theorem Plan.admissible_iff {p : Plan} {t : Settings} (h : t.halfWidth ≤ t.carrier) : p.admissible t = true ↔
    ∀ b, t.carrier - t.halfWidth ≤ b → b ≤ t.carrier + t.halfWidth → p.effective b ≠ .fixed := by
  simp only [Plan.admissible, List.all_eq_true, bne_iff_ne, Settings.mem_bandBins h, and_imp]

/-- A band is window-free exactly when all its bins are effectively FREE (R40). -/
theorem Plan.windowFree_iff {p : Plan} {t : Settings} (h : t.halfWidth ≤ t.carrier) : p.windowFree t = true ↔
    ∀ b, t.carrier - t.halfWidth ≤ b → b ≤ t.carrier + t.halfWidth → p.effective b = .free := by
  simp only [Plan.windowFree, List.all_eq_true, beq_iff_eq, Settings.mem_bandBins h, and_imp]

/-- A window-free band is admissible, since a FREE bin is not FIXED (R40). -/
theorem Plan.admissible_of_windowFree {p : Plan} {t : Settings} (h : p.windowFree t = true) : p.admissible t = true := by
  simp only [Plan.windowFree, Plan.admissible, List.all_eq_true, beq_iff_eq, bne_iff_ne] at h ⊢
  intro b hb hfixed
  exact BinClass.noConfusion ((h b hb).symm.trans hfixed)

/-- Settles O24: the table is checked divider by divider, and each test is read off the bins of the band. -/
theorem bandTestsFollowTheMap : Obligations.BandTestsFollowTheMap := by
  unfold Obligations.BandTestsFollowTheMap
  exact ⟨fun _ _ => rfl, Settings.halfWidth_eq_table,
    fun _ _ h => ⟨Plan.admissible_iff h, Plan.windowFree_iff h, Plan.admissible_of_windowFree⟩⟩

end Sys2Proof.Machine
end

section
/-! PROOFS. LEG_SET: the settings its payload carries (R201), its three checks (R42) and its effect (R43). -/

namespace Sys2Proof.Machine

open Sys2Proof

/-! ### The operands (R200, R201) -/

/-- A byte that names no leg. -/
theorem legOf_eq_none {v : Nat} (h : 4 ≤ v) : legOf v = none := dif_neg (Nat.not_lt.mpr h)

/-- A byte that names a leg. -/
@[simp] theorem legOf_val (g : LegId) : legOf g.val = some g := dif_pos g.isLt

/-- A field of `n + 1` bytes is the byte where it begins and the field of the `n` bytes after that one (R200). -/
theorem field_ofFn_succ {m i : Nat} (b : Fin m → Byte) (n : Nat) (hi : i < m) :
    field (List.ofFn b) i (n + 1) = (b ⟨i, hi⟩).toNat + 256 * field (List.ofFn b) (i + 1) n := by
  simp only [field]
  rw [List.drop_eq_getElem_cons (by simpa using hi), List.getElem_ofFn, List.take_succ_cons, unle]

/-- A field of one byte is that byte. -/
theorem field_ofFn_one {m i : Nat} (b : Fin m → Byte) (hi : i < m) : field (List.ofFn b) i 1 = (b ⟨i, hi⟩).toNat :=
  field_ofFn_succ b 0 hi

/-- A field of two bytes has the less significant one first (R200). -/
theorem field_ofFn_two {m i : Nat} (b : Fin m → Byte) (hi : i + 1 < m) :
    field (List.ofFn b) i 2 = (b ⟨i, by omega⟩).toNat + 256 * (b ⟨i + 1, hi⟩).toNat := by
  rw [field_ofFn_succ b 1 (by omega), field_ofFn_one b hi]

/-- The settings read from LEG_SET's payload are those of its bytes after the leg number (R201). -/
theorem settingsOf_ofFn (b : Fin 27 → Byte) : settingsOf (List.ofFn b) = settingsOfBytes b := by
  simp only [settingsOf, settingsOfBytes, Settings.mk.injEq]
  refine ⟨field_ofFn_two b _, field_ofFn_one b _, field_ofFn_two b _, field_ofFn_one b _, field_ofFn_two b _,
    field_ofFn_one b _, field_ofFn_one b _, field_ofFn_two b _, field_ofFn_two b _, field_ofFn_one b _,
    field_ofFn_one b _, field_ofFn_one b _, field_ofFn_two b _, field_ofFn_one b _, field_ofFn_one b _,
    field_ofFn_one b _, field_ofFn_one b _, field_ofFn_one b _, field_ofFn_one b _, field_ofFn_one b _⟩

/-- The leg number of LEG_SET is its first byte (R201). -/
theorem field_legSet_leg (b : Fin 27 → Byte) : field (List.ofFn b) 0 1 = (b 0).toNat := field_ofFn_one b _

/-! ### The third check (R41, R42) -/

/-- A value lies in a range that includes both ends. -/
theorem inRange_iff {lo hi v : Nat} : inRange lo hi v = true ↔ lo ≤ v ∧ v ≤ hi := by simp [inRange]

/-- The third check accepts exactly the settings of R41 and R42. Within the range of the chip divider the half-width is that of the
table, and what is left is the same conditions in another order, the range of A_lo following from A_lo ≤ A_hi; outside it both
refuse. -/
theorem Settings.allowed_iff (t : Settings) : t.allowed = true ↔ settingsAccepted t := by
  by_cases hdivider : 1 ≤ t.chipDivider ∧ t.chipDivider ≤ 16
  · simp only [Settings.allowed, Settings.rangesHold, settingsAccepted, Bool.and_eq_true, decide_eq_true_eq, inRange_iff,
      List.contains_iff_mem, t.halfWidth_eq_table hdivider.1 hdivider.2]
    grind
  · simp only [Settings.allowed, Settings.rangesHold, settingsAccepted, Bool.and_eq_true, inRange_iff, hdivider]
    simp

/-! ### The checks in order, and the effect (R42, R43) -/

section
variable {p : List Byte} {g : LegId} {s : State}

/-- R42: a number that names no leg. -/
theorem serveLegSet_noLeg (h : 4 ≤ field p 0 1) : serveLegSet p s = (s, refuse .badValue) := by
  simp only [serveLegSet, legOf_eq_none h]

variable (hleg : field p 0 1 = g.val)
include hleg

/-- R42: a leg that is not OFF. -/
theorem serveLegSet_legState (h : (s.leg g).state ≠ .off) : serveLegSet p s = (s, refuse .legState) := by
  simp only [serveLegSet, hleg, legOf_val]
  exact if_pos h

variable (hoff : (s.leg g).state = .off)
include hoff

/-- R42: settings outside their ranges. -/
theorem serveLegSet_badValue (h : ¬ settingsAccepted (settingsOf p)) : serveLegSet p s = (s, refuse .badValue) := by
  simp only [serveLegSet, hleg, legOf_val]
  exact (if_neg (not_not.mpr hoff)).trans (if_pos (by simp [mt (Settings.allowed_iff _).mp h]))

/-- R43: the settings are replaced and the calibration starts anew. -/
theorem serveLegSet_accepted (h : settingsAccepted (settingsOf p)) : serveLegSet p s =
    (setCal g ⟨qNominal (settingsOf p).vfMilli, s.arith.temperature⟩
      (s.setLeg g { s.leg g with settings := some (settingsOf p) }), okReply []) := by
  simp only [serveLegSet, hleg, legOf_val]
  exact (if_neg (not_not.mpr hoff)).trans (if_neg (by simp [(Settings.allowed_iff _).mpr h]))

end

/-- LEG_SET on a ready part, by what the leg controller answers (R8). -/
theorem exec_legSet {n : Nat} {tag : Byte} {p : List Byte} {s t : State} {st : Status} (h : Ready s) (hp : p.length = 27)
    (hs : serveLegSet p (s.after n).holding = (t, ⟨st, [], false⟩)) (hmsg : t.msg = (s.after n).holding.msg)
    (htime : t.time = (s.after n).time) :
    exec (.legSet n tag p) s = .next ((t.setMsg s.msg).replied 0x10 tag st []) :=
  requestArrives_served h rfl (by simpa [lengthAllowed] using hp) hs hmsg htime

/-- Settles O20: LEG_SET's cases in the order of its checks. -/
theorem legSetReplacesSettings : Obligations.LegSetReplacesSettings := by
  unfold Obligations.LegSetReplacesSettings
  intro n tag b s hready u c t
  have hp : (List.ofFn b).length = 27 := List.length_ofFn
  have hsettings : settingsOf (List.ofFn b) = t := settingsOf_ofFn b
  refine ⟨fun hnone => exec_legSet hready hp (serveLegSet_noLeg (by rwa [field_legSet_leg])) rfl rfl, fun g hg => ?_⟩
  have hleg : field (List.ofFn b) 0 1 = g.val := (field_legSet_leg b).trans hg
  refine ⟨fun hstate => exec_legSet hready hp (serveLegSet_legState hleg hstate) rfl rfl,
    fun hoff hbad => exec_legSet hready hp (serveLegSet_badValue hleg hoff (by rwa [hsettings])) rfl rfl,
    fun hoff hgood => ?_⟩
  have hserve := serveLegSet_accepted (s := u.holding) hleg hoff (by rwa [hsettings])
  rw [hsettings] at hserve
  exact exec_legSet hready hp hserve rfl rfl

end Sys2Proof.Machine
end

section
/-! PROOFS. The values after reset (R17, R33, R48, R49, R73, R88, R107, R127, R128, R142, R178, R199). -/

namespace Sys2Proof.Machine

open Sys2Proof

/-! ### One block each -/

/-- After reset every leg is OFF without settings (R48). -/
theorem reset_leg (g : LegId) : State.reset.leg g = .reset := Quad.get_all _ g

/-- After reset the four profile slots are FREE (R107). -/
theorem reset_slot (i : SlotId) : State.reset.slot i = .reset := Quad.get_all _ i

/-- After reset both capture halves are FREE (R88). -/
theorem reset_half (h : HalfId) : State.reset.cap.half h = .reset := by cases h <;> rfl

/-- After reset every set of the stray table is at its reset value (R178). -/
theorem reset_straySet {i : Nat} (h : i < 16) : State.reset.stray.set i = .reset := List.getD_replicate _ h

/-- After reset every leg's ingress monitor is at its reset value (R199). -/
theorem reset_ingLeg (g : LegId) : State.reset.ingLeg g = .reset := Quad.get_all _ g

/-- A detector of a leg at its reset value is QUIET and without a reading (R199). -/
theorem IngressLeg.reset_bin {b : Nat} (h : b < 64) :
    IngressLeg.reset.detector b = .quiet ∧ IngressLeg.reset.readings.getD b none = none :=
  ⟨List.getD_replicate _ h, List.getD_replicate _ h⟩

/-- Settles O3: block by block; what is single is read off the reset state, what is one of many by its lemma. -/
theorem resetValues : Obligations.ResetValues := by
  unfold Obligations.ResetValues
  intro s
  have hcap : ∀ h, (s.cap.half h).state = .free ∧ (s.cap.half h).owner = none ∧ (s.cap.half h).void = false ∧
      (s.cap.half h).clip = false ∧ (s.cap.half h).fillOrder = none := by
    intro h
    rw [reset_half]
    exact ⟨rfl, rfl, rfl, rfl, rfl⟩
  have hways : ∀ i < 16, ∀ w, ((s.stray.set i).ways.get w).valid = false := by
    intro i hi w
    rw [reset_straySet hi, StraySet.reset, Quad.get_all]
    rfl
  have hbits : ∀ i < 16, (s.stray.set i).pairBit = false ∧ (s.stray.set i).lowBit = false ∧
      (s.stray.set i).highBit = false := by
    intro i hi
    rw [reset_straySet hi]
    exact ⟨rfl, rfl, rfl⟩
  refine ⟨⟨rfl, rfl, rfl, rfl, rfl, rfl, rfl, rfl, rfl⟩, ⟨rfl, rfl, rfl, rfl⟩, ⟨rfl, rfl⟩, reset_leg, ⟨rfl, rfl, rfl⟩,
    ⟨rfl, rfl, rfl, rfl, rfl, rfl, hcap⟩, ⟨rfl, reset_slot, rfl⟩, ⟨rfl, rfl, rfl⟩, ⟨rfl, rfl, Quad.get_all none⟩,
    Quad.get_all _, ⟨hways, hbits, Quad.get_all 0⟩, rfl, rfl, rfl, fun g => ?_⟩
  rw [reset_ingLeg]
  exact ⟨rfl, rfl, rfl, rfl, rfl, rfl, fun b hb => IngressLeg.reset_bin hb⟩

end Sys2Proof.Machine
end

section
/-! PROOFS. The probe codes (R74) and the correlations as sums (R90, R92). -/

namespace Sys2Proof.Machine

open Sys2Proof

/-! ### The codes (R74) -/

@[simp] theorem chipsFrom_length (l n : Nat) (stages : List Bool) : (chipsFrom l n stages).length = n := by
  induction n generalizing stages with
  | zero => rfl
  | succ n ih => simp [chipsFrom, ih]

@[simp] theorem chips_length (l : Nat) : (chips l).length = l := chipsFrom_length l l _

/-- The register after `n` steps is the `n`-th iterate of one step. -/
theorem codeAfter_eq_iterate (l n : Nat) (stages : List Bool) : codeAfter l n stages = (codeStep l)^[n] stages := by
  induction n generalizing stages with
  | zero => rfl
  | succ n ih => exact ih (codeStep l stages)

/-- Each code has one chip +1 more than it has chips -1. -/
theorem chips_balance : ∀ l ∈ [63, 127, 255, 511],
    (chips l).count 1 = (l + 1) / 2 ∧ (chips l).count (-1) = (l - 1) / 2 := by decide +kernel

/-- After L steps the register is back at all ones. -/
theorem codeAfter_period : ∀ l ∈ [63, 127, 255, 511], codeAfter l l (codeStart l) = codeStart l := by decide +kernel

/-- After a proper divisor of L steps it is not. -/
theorem codeAfter_divisor_ne : ∀ l ∈ [63, 127, 255, 511], ∀ d < l, d ∣ l → codeAfter l d (codeStart l) ≠ codeStart l := by
  decide +kernel

/-- A register that is back after L steps, but after no proper divisor of L, is not back before: were it back after n steps, it
would be after gcd(n, L). -/
theorem codeAfter_ne_of_divisors {l n : Nat} {stages : List Bool} (hback : codeAfter l l stages = stages)
    (hdivisors : ∀ d < l, d ∣ l → codeAfter l d stages ≠ stages) (h0 : 0 < n) (hn : n < l) :
    codeAfter l n stages ≠ stages := by
  intro h
  rw [codeAfter_eq_iterate] at h hback
  have hgcd : (codeStep l)^[n.gcd l] stages = stages := Function.IsPeriodicPt.gcd h hback
  have hlt : n.gcd l < l := (Nat.gcd_le_left l h0).trans_lt hn
  exact hdivisors _ hlt (Nat.gcd_dvd_right n l) (by rwa [codeAfter_eq_iterate])

/-! ### The sums (R90, R92) -/

/-- A sum with its first term split off. -/
theorem sumTo_succ (n : Nat) (f : Nat → Int) : sumTo (n + 1) f = f 0 + sumTo n fun i => f (i + 1) := by
  simp [sumTo, List.range_succ_eq_map, Function.comp_def]

/-- A sum whose terms are all 0. -/
theorem sumTo_eq_zero {n : Nat} {f : Nat → Int} (h : ∀ i, f i = 0) : sumTo n f = 0 := by
  simp [sumTo, funext h]

/-- Two sums with equal terms. -/
theorem sumTo_congr {n : Nat} {f g : Nat → Int} (h : ∀ i < n, f i = g i) : sumTo n f = sumTo n g := by
  rw [sumTo, sumTo, List.map_congr_left fun i hi => h i (List.mem_range.mp hi)]

/-- The code against every second sample is the sum of S_k, what lies past the samples counting 0 (R90). -/
theorem correlateCode_eq_sum : ∀ cs xs : List Int,
    correlateCode cs xs = sumTo cs.length fun i => cs.getD i 0 * xs.getD (2 * i) 0
  | [], _ => rfl
  | _ :: _, [] => (sumTo_eq_zero fun _ => by simp).symm
  | c :: cs, [x] => by
    have hrest : (sumTo cs.length fun i => (c :: cs).getD (i + 1) 0 * [x].getD (2 * (i + 1)) 0) = 0 :=
      sumTo_eq_zero fun i => by simp [Nat.mul_succ]
    rw [List.length_cons, sumTo_succ, hrest]
    simp [correlateCode]
  | c :: cs, x :: y :: xs => by
    rw [correlateCode, correlateCode_eq_sum cs xs, List.length_cons, sumTo_succ]
    rfl

/-- The sum of products of two runs, term by term (R92). -/
theorem dotProduct_eq_sum : ∀ xs ys : List Int,
    dotProduct xs ys = sumTo xs.length fun j => xs.getD j 0 * ys.getD j 0
  | [], _ => rfl
  | _ :: _, [] => (sumTo_eq_zero fun _ => by simp).symm
  | x :: xs, y :: ys => by
    rw [dotProduct, dotProduct_eq_sum xs ys, List.length_cons, sumTo_succ]
    rfl

/-- A run read from its k-th sample on. -/
theorem getD_drop_samples (xs : List Int) (k i : Nat) : (xs.drop k).getD i 0 = xs.getD (k + i) 0 := by
  simp [List.getD_eq_getElem?_getD]

/-- C[k] is the limited quotient of S_k (R90). -/
theorem crossCorrelation_eq_sum (l : Nat) (xs : List Int) (k : Nat) : crossCorrelation l xs k =
    min 65535 ((sumTo l fun i => (chips l).getD i 0 * xs.getD (2 * i + k) 0).natAbs / 16) := by
  simp only [crossCorrelation, correlateCode_eq_sum, chips_length, getD_drop_samples, Nat.add_comm k]

/-- R[k] is the limited quotient of its sum, when the first n samples are there (R92). -/
theorem autoCorrelation_eq_sum {n : Nat} {xs : List Int} (h : n ≤ xs.length) (k : Nat) : autoCorrelation n xs k =
    min 65535 ((sumTo n fun j => xs.getD j 0 * xs.getD (j + k) 0).natAbs / 64) := by
  have hsum : dotProduct (xs.take n) (xs.drop k) = sumTo n fun j => xs.getD j 0 * xs.getD (j + k) 0 := by
    rw [dotProduct_eq_sum, List.length_take, Nat.min_eq_left h]
    refine sumTo_congr fun j hj => ?_
    rw [getD_drop_samples, Nat.add_comm k, List.getD_eq_getElem?_getD, List.getElem?_take_of_lt hj,
      ← List.getD_eq_getElem?_getD]
  rw [autoCorrelation, hsum]

/-- Settles O32: the four codes by evaluation, their period through its divisors, and the two sums. -/
theorem codesAndCorrelations : Obligations.CodesAndCorrelations := by
  unfold Obligations.CodesAndCorrelations
  refine ⟨fun l hl => ?_, fun l xs k _ => crossCorrelation_eq_sum l xs k,
    fun n xs k h => autoCorrelation_eq_sum (by omega) k⟩
  obtain ⟨hplus, hminus⟩ := chips_balance l hl
  have hback := codeAfter_period l hl
  exact ⟨chips_length l, hplus, hminus, hback, fun n h0 hn =>
    codeAfter_ne_of_divisors hback (codeAfter_divisor_ne l hl) h0 hn⟩

end Sys2Proof.Machine
end

section
/-! PROOFS. Normalisation and trim (R98, R99), the peak search and the peaks kept (R100, R101), and the lag peak (R196). -/

namespace Sys2Proof.Machine

open Sys2Proof

/-! ### The peak search (R100) -/

/-- The tests of R100 as one proposition. -/
theorem isPeak_iff {floor left mid right : Nat} :
    isPeak floor left mid right = true ↔ floor ≤ mid ∧ left < mid ∧ right ≤ mid := by
  simp [isPeak, and_assoc]

/-- What is found from bin `m` on: the bins that pass the tests, bin `m + i` standing at place `i + 1` of the amplitudes given. -/
theorem mem_findPeaks (floor blank : Nat) (k v : Nat) : ∀ (m : Nat) (a : List Nat), (k, v) ∈ findPeaks floor blank m a ↔
    ∃ i, k = m + i ∧ blank < k ∧ i + 2 < a.length ∧ v = a.getD (i + 1) 0 ∧ floor ≤ v ∧ a.getD i 0 < v ∧ a.getD (i + 2) 0 ≤ v
  | m, left :: mid :: right :: rest => by
    have hrest := mem_findPeaks floor blank k v (m + 1) (mid :: right :: rest)
    have hhead : (blank < m ∧ isPeak floor left mid right = true) ∧ (k, v) = (m, mid) ↔
        k = m ∧ blank < k ∧ v = mid ∧ floor ≤ v ∧ left < v ∧ right ≤ v := by
      rw [isPeak_iff, Prod.mk.injEq]
      constructor
      · rintro ⟨⟨hb, hf, hl, hr⟩, rfl, rfl⟩
        exact ⟨rfl, hb, rfl, hf, hl, hr⟩
      · rintro ⟨rfl, hb, rfl, hf, hl, hr⟩
        exact ⟨⟨hb, hf, hl, hr⟩, rfl, rfl⟩
    have hcons : (k, v) ∈ findPeaks floor blank m (left :: mid :: right :: rest) ↔
        ((blank < m ∧ isPeak floor left mid right = true) ∧ (k, v) = (m, mid)) ∨
          (k, v) ∈ findPeaks floor blank (m + 1) (mid :: right :: rest) := by
      rw [findPeaks]
      split
      · next h => simp [h]
      · next h => simp [h]
    rw [hcons, hhead, hrest]
    constructor
    · rintro (⟨rfl, hb, rfl, hf, hl, hr⟩ | ⟨i, rfl, hb, hi, hv⟩)
      · exact ⟨0, rfl, hb, by simp, rfl, hf, hl, hr⟩
      · exact ⟨i + 1, by omega, hb, Nat.succ_lt_succ hi, hv⟩
    · rintro ⟨_ | i, rfl, hb, hi, hv⟩
      · exact .inl ⟨rfl, hb, hv⟩
      · exact .inr ⟨i, by omega, hb, Nat.lt_of_succ_lt_succ hi, hv⟩
  | m, [] => by simp [findPeaks]
  | m, [_] => by simp [findPeaks]
  | m, [_, _] => by simp [findPeaks]

/-- The bins found in a profile (R100). -/
theorem mem_findPeaks_profile (floor blank : Nat) (a : List Nat) (k v : Nat) : (k, v) ∈ findPeaks floor blank 1 a ↔
    blank < k ∧ 1 ≤ k ∧ k + 1 < a.length ∧ v = a.getD k 0 ∧ floor ≤ v ∧ a.getD (k - 1) 0 < v ∧ a.getD (k + 1) 0 ≤ v := by
  rw [mem_findPeaks]
  constructor
  · rintro ⟨i, rfl, hb, hi, hv⟩
    rw [Nat.add_comm 1 i] at hb ⊢
    exact ⟨hb, by omega, hi, hv⟩
  · rintro ⟨hb, h1, hk, hv⟩
    obtain ⟨i, rfl⟩ := Nat.exists_eq_add_of_le' h1
    exact ⟨i, Nat.add_comm i 1, hb, hk, hv⟩

/-- The bins are found in ascending order (R100). -/
theorem findPeaks_ascending (floor blank : Nat) : ∀ (m : Nat) (a : List Nat),
    (findPeaks floor blank m a).Pairwise fun x y => x.1 < y.1
  | m, left :: mid :: right :: rest => by
    have hrest := findPeaks_ascending floor blank (m + 1) (mid :: right :: rest)
    rw [findPeaks]
    split
    · refine List.pairwise_cons.mpr ⟨fun ⟨k, v⟩ hmem => ?_, hrest⟩
      obtain ⟨i, rfl, -⟩ := (mem_findPeaks ..).mp hmem
      show m < m + 1 + i
      omega
    · exact hrest
  | _, [] => by simp [findPeaks]
  | _, [_] => by simp [findPeaks]
  | _, [_, _] => by simp [findPeaks]

/-! ### The peaks kept (R101) -/

/-- The order of R101: larger amplitude first, the smaller bin first among equals. -/
def Outranks (x y : Nat × Nat) : Prop := y.2 < x.2 ∨ (y.2 = x.2 ∧ x.1 < y.1)

theorem Outranks.trans {x y z : Nat × Nat} (hxy : Outranks x y) (hyz : Outranks y z) : Outranks x z := by
  unfold Outranks at *
  omega

/-- Putting a peak in its place by amplitude adds it and loses none. -/
theorem insertByAmplitude_perm (x : Nat × Nat) (ys : List (Nat × Nat)) : (insertByAmplitude x ys).Perm (x :: ys) := by
  induction ys with
  | nil => exact .refl _
  | cons y ys ih =>
    rw [insertByAmplitude]
    split
    · exact .refl _
    · exact (ih.cons y).trans (.swap x y ys)

/-- Putting a peak of a smaller bin in its place keeps the order of R101. -/
theorem insertByAmplitude_ranked {x : Nat × Nat} {ys : List (Nat × Nat)} (hys : ys.Pairwise Outranks)
    (hx : ∀ y ∈ ys, x.1 < y.1) : (insertByAmplitude x ys).Pairwise Outranks := by
  induction ys with
  | nil => exact List.pairwise_singleton _ _
  | cons y ys ih =>
    obtain ⟨hy, hrest⟩ := List.pairwise_cons.mp hys
    obtain ⟨hxy, hxys⟩ := List.forall_mem_cons.mp hx
    rw [insertByAmplitude]
    split
    · next h =>
      have hfirst : Outranks x y := by unfold Outranks; omega
      exact List.pairwise_cons.mpr ⟨List.forall_mem_cons.mpr ⟨hfirst, fun z hz => hfirst.trans (hy z hz)⟩, hys⟩
    · next h =>
      refine List.pairwise_cons.mpr ⟨fun z hz => ?_, ih hrest hxys⟩
      obtain rfl | hz := List.mem_cons.mp ((insertByAmplitude_perm x ys).mem_iff.mp hz)
      · exact .inl (Nat.lt_of_not_le h)
      · exact hy z hz

/-- The peaks found, sorted by amplitude, are the same peaks. -/
theorem sortByAmplitude_perm (found : List (Nat × Nat)) : (found.foldr insertByAmplitude []).Perm found := by
  induction found with
  | nil => exact .refl _
  | cons x xs ih => exact (insertByAmplitude_perm x _).trans (ih.cons x)

/-- Peaks found in ascending order are sorted in the order of R101. -/
theorem sortByAmplitude_ranked {found : List (Nat × Nat)} (h : found.Pairwise fun x y => x.1 < y.1) :
    (found.foldr insertByAmplitude []).Pairwise Outranks := by
  induction found with
  | nil => exact .nil
  | cons x xs ih =>
    obtain ⟨hx, hxs⟩ := List.pairwise_cons.mp h
    exact insertByAmplitude_ranked (ih hxs) fun y hy => hx y ((sortByAmplitude_perm xs).mem_iff.mp hy)

/-- With no more than 32 peaks found, all are kept. -/
theorem keepPeaks_few {found : List (Nat × Nat)} (h : found.length ≤ 32) : keepPeaks found = found := if_pos h

/-- With more than 32 found, the kept ones are those among the first 32 by amplitude. -/
theorem keepPeaks_many {found : List (Nat × Nat)} (h : 32 < found.length) :
    keepPeaks found = found.filter fun x => ((found.foldr insertByAmplitude []).take 32).contains x :=
  if_neg (Nat.not_le.mpr h)

/-- The kept peaks stand in the order in which they were found. -/
theorem keepPeaks_sublist (found : List (Nat × Nat)) : (keepPeaks found).Sublist found := by
  obtain h | h := le_or_gt found.length 32
  · rw [keepPeaks_few h]
  · rw [keepPeaks_many h]
    exact List.filter_sublist

/-- The kept peaks of more than 32 are the first 32 by amplitude. -/
theorem keepPeaks_perm_take {found : List (Nat × Nat)} (h : 32 < found.length)
    (hfound : found.Pairwise fun x y => x.1 < y.1) :
    (keepPeaks found).Perm ((found.foldr insertByAmplitude []).take 32) := by
  have hsort := sortByAmplitude_perm found
  have hnodup : found.Nodup := hfound.imp fun hlt heq => by simp [heq] at hlt
  rw [keepPeaks_many h]
  refine (List.perm_ext_iff_of_nodup (hnodup.filter _) ((hsort.nodup_iff.mpr hnodup).sublist (List.take_sublist ..))).mpr
    fun x => ?_
  rw [List.mem_filter, List.contains_iff_mem, and_iff_right_iff_imp]
  exact fun hx => hsort.mem_iff.mp (List.mem_of_mem_take hx)

/-- Of more than 32 peaks, 32 are kept. -/
theorem keepPeaks_length {found : List (Nat × Nat)} (h : 32 < found.length)
    (hfound : found.Pairwise fun x y => x.1 < y.1) : (keepPeaks found).length = 32 := by
  have hlength : (found.foldr insertByAmplitude []).length = found.length := (sortByAmplitude_perm found).length_eq
  rw [(keepPeaks_perm_take h hfound).length_eq, List.length_take]
  omega

/-- A kept peak outranks every peak that was dropped: in the list sorted by amplitude the one stands among the first 32 and the other
after them. -/
theorem keepPeaks_outranks {found : List (Nat × Nat)} (hfound : found.Pairwise fun x y => x.1 < y.1) {x y : Nat × Nat}
    (hy : y ∈ found) (hkept : x ∈ keepPeaks found) (hdropped : y ∉ keepPeaks found) : Outranks x y := by
  obtain h | h := le_or_gt found.length 32
  · exact absurd (by rwa [keepPeaks_few h]) hdropped
  · have hperm := keepPeaks_perm_take h hfound
    have hsplit := List.take_append_drop 32 (found.foldr insertByAmplitude [])
    have hranked := sortByAmplitude_ranked hfound
    rw [← hsplit] at hranked
    have hyafter : y ∈ (found.foldr insertByAmplitude []).drop 32 := by
      have hmem := (sortByAmplitude_perm found).mem_iff.mpr hy
      rw [← hsplit] at hmem
      exact (List.mem_append.mp hmem).resolve_left fun hfirst => hdropped (hperm.mem_iff.mpr hfirst)
    obtain ⟨-, -, hacross⟩ := List.pairwise_append.mp hranked
    exact hacross x (hperm.mem_iff.mp hkept) y hyafter

/-! ### The lag peak (R196) -/

/-- The four tests of R196 on a lag. -/
theorem lagQualifies_iff {t : Settings} {k : Nat} {r : List Nat} {b : Nat} : lagQualifies t k r b = true ↔
    t.blank < b ∧ b ≤ k - 2 ∧ t.floor ≤ r.getD b 0 ∧ r.getD (b - 1) 0 < r.getD b 0 ∧ r.getD (b + 1) 0 ≤ r.getD b 0 := by
  simp [lagQualifies, and_assoc]

/-- One lag weighed against the best so far: it takes over when it qualifies and its R is larger (R196). -/
def betterLag (t : Settings) (k : Nat) (r : List Nat) (best : Option Nat) (b : Nat) : Option Nat :=
  if lagQualifies t k r b then
    match best with
    | none => some b
    | some c => if r.getD c 0 < r.getD b 0 then some b else some c
  else best

/-- The lag peak is the best after all lags have been weighed. -/
theorem lagPeak_eq_foldl (t : Settings) (k : Nat) (r : List Nat) :
    lagPeak t k r = (List.range k).foldl (betterLag t k r) none := rfl

/-- What the best among the first `n` lags is: none when none qualifies, otherwise the qualifying lag of largest R, the smaller among
equals. -/
def BestLag (t : Settings) (k : Nat) (r : List Nat) (n : Nat) : Option Nat → Prop
  | none => ∀ c < n, ¬ lagQualifies t k r c
  | some b => lagQualifies t k r b ∧ b < n ∧
      ∀ c < n, lagQualifies t k r c → r.getD c 0 < r.getD b 0 ∨ (r.getD c 0 = r.getD b 0 ∧ b ≤ c)

/-- Weighing the next lag gives the best of one lag more. -/
theorem BestLag.step {t : Settings} {k : Nat} {r : List Nat} {n : Nat} {best : Option Nat} (h : BestLag t k r n best) :
    BestLag t k r (n + 1) (betterLag t k r best n) := by
  unfold betterLag
  by_cases hn : lagQualifies t k r n
  · rw [if_pos hn]
    cases best with
    | none =>
      refine ⟨hn, by omega, fun c hc hq => ?_⟩
      obtain hc | rfl := Nat.lt_succ_iff_lt_or_eq.mp hc
      · exact absurd hq (h c hc)
      · exact .inr ⟨rfl, le_rfl⟩
    | some b =>
      obtain ⟨hb, hbn, hbest⟩ := h
      dsimp only
      split
      · next hlarger =>
        refine ⟨hn, by omega, fun c hc hq => ?_⟩
        obtain hc | rfl := Nat.lt_succ_iff_lt_or_eq.mp hc
        · have := hbest c hc hq
          omega
        · exact .inr ⟨rfl, le_rfl⟩
      · next hnot =>
        refine ⟨hb, by omega, fun c hc hq => ?_⟩
        obtain hc | rfl := Nat.lt_succ_iff_lt_or_eq.mp hc
        · exact hbest c hc hq
        · omega
  · rw [if_neg hn]
    have hpast : ∀ c < n + 1, lagQualifies t k r c → c < n := fun c hc hq =>
      (Nat.lt_succ_iff_lt_or_eq.mp hc).resolve_right fun heq => hn (heq ▸ hq)
    cases best with
    | none => exact fun c hc hq => h c (hpast c hc hq) hq
    | some b =>
      obtain ⟨hb, hbn, hbest⟩ := h
      exact ⟨hb, by omega, fun c hc hq => hbest c (hpast c hc hq) hq⟩

/-- The best of the lags weighed. -/
theorem bestLag_foldl (t : Settings) (k : Nat) (r : List Nat) (n : Nat) :
    BestLag t k r n ((List.range n).foldl (betterLag t k r) none) := by
  induction n with
  | zero => exact nofun
  | succ n ih =>
    rw [List.range_succ, List.foldl_append]
    exact ih.step

/-- The lag peak is the best of all lags (R196). -/
theorem bestLag_lagPeak (t : Settings) (k : Nat) (r : List Nat) : BestLag t k r k (lagPeak t k r) :=
  lagPeak_eq_foldl t k r ▸ bestLag_foldl t k r k

/-- Settles O35: the two quotients by their definitions, then the search, the selection and the lag peak by their lemmas. -/
theorem profilesAreTrimmedAndSearched : Obligations.ProfilesAreTrimmedAndSearched := by
  unfold Obligations.ProfilesAreTrimmedAndSearched
  have hfactor : ∀ p ∈ [(0, 64), (1, 60), (2, 62), (3, 63), (4, 68), (5, 66), (6, 65)], trimFactor p.1 = p.2 := by decide
  refine ⟨fun n a => ⟨rfl, rfl⟩, fun a p hp => ?_, mem_findPeaks_profile, fun floor blank => findPeaks_ascending floor blank 1,
    fun found hfound => ⟨keepPeaks_few, fun h => keepPeaks_length h hfound, keepPeaks_sublist found,
      fun x _ y hy hkept hdropped => keepPeaks_outranks hfound hy hkept hdropped⟩, fun t k r hk => ?_⟩
  · rw [trimAmplitude, hfactor p hp]
  · have hinRange : ∀ b, b ≤ k - 2 → b < k := by omega
    have hbest := bestLag_lagPeak t k r
    constructor
    · intro b hb
      rw [hb] at hbest
      obtain ⟨hq, -, hlargest⟩ := hbest
      exact ⟨lagQualifies_iff.mp hq, fun c hblank hc hfloor hleft hright =>
        hlargest c (hinRange c hc) (lagQualifies_iff.mpr ⟨hblank, hc, hfloor, hleft, hright⟩)⟩
    · intro hnone b hb
      rw [hnone] at hbest
      have ⟨_, hlast, _⟩ := hb
      exact hbest b (hinRange b hlast) (lagQualifies_iff.mpr hb)

end Sys2Proof.Machine
end

section
/-! PROOFS. The reads of profile slots and the paged reads of the map and the stray table (R105, R106, R140, R175). -/

namespace Sys2Proof.Machine

open Sys2Proof

/-! ### Operands and fields of one byte (R200) -/

/-- The field of the first byte. -/
@[simp] theorem field_first (b : Byte) (p : List Byte) : field (b :: p) 0 1 = b.toNat := by simp [field, unle]

/-- The field of the second byte. -/
@[simp] theorem field_second (a b : Byte) (p : List Byte) : field (a :: b :: p) 1 1 = b.toNat := by simp [field, unle]

/-- A byte written as the number it holds is that byte. -/
@[simp] theorem u8_toNat (b : Byte) : u8 b.toNat = [b] := by simp [u8, le]

/-- A byte that holds the number of a leg is that number's byte. -/
theorem u8_leg {leg : Byte} {g : LegId} (h : leg.toNat = g.val) : u8 g.val = [leg] := by rw [← h, u8_toNat]

/-- The four numbers in ascending order are all four. -/
theorem mem_allLegs (g : LegId) : g ∈ allLegs := by fin_cases g <;> decide

/-- A request of an allowed length on a ready part, when its owner leaves the state as it is: the reply and nothing else (R8). -/
theorem requestArrives_unchanged {n : Nat} {kind tag : Byte} {p : List Byte} {s : State} {st : Status} {fields : List Byte}
    (h : Ready s) (hkind : kindsInUse.contains kind.toNat = true) (hlength : lengthAllowed kind p = true)
    (hs : serveKind kind p (s.after n).holding = ((s.after n).holding, ⟨st, fields, false⟩)) :
    requestArrives n ⟨kind, tag, p⟩ s = .next ((s.after n).replied kind tag st fields) :=
  requestArrives_served h hkind hlength hs rfl rfl

/-! ### PROFILE_READ and PEAKS_READ (R105, R106) -/

/-- A HELD, FILLING or ANALYSING slot cannot be read yet. -/
theorem readySlot_pending {v : Slot} (h : v.state = .held ∨ v.state = .filling ∨ v.state = .analysing) :
    readySlot v = .error .pending := by
  obtain ⟨state, content⟩ := v
  obtain rfl | rfl | rfl := h <;> rfl

/-- A FREE slot holds nothing to read. -/
theorem readySlot_free {v : Slot} (h : v.state = .free) : readySlot v = .error .notFound := by
  obtain ⟨state, content⟩ := v
  obtain rfl := h
  rfl

section
variable {slot : Byte} {s : State}

/-- R105: a number that names no slot. -/
theorem serveProfileRead_noSlot (h : 4 ≤ slot.toNat) (page : Byte) :
    serveProfileRead [slot, page] s = (s, refuse .badValue) := by
  simp only [serveProfileRead, field_first, legOf_eq_none h]

/-- R106: a number that names no slot. -/
theorem servePeaksRead_noSlot (h : 4 ≤ slot.toNat) : servePeaksRead [slot] s = (s, refuse .badValue) := by
  simp only [servePeaksRead, field_first, legOf_eq_none h]

variable {i : SlotId} (hslot : slot.toNat = i.val)
include hslot

/-- R105: a slot that is not READY. -/
theorem serveProfileRead_refused {st : Status} (h : readySlot (s.slot i) = .error st) (page : Byte) :
    serveProfileRead [slot, page] s = (s, refuse st) := by
  simp only [serveProfileRead, field_first, hslot, legOf_val, h]

/-- R106: a slot that is not READY. -/
theorem servePeaksRead_refused {st : Status} (h : readySlot (s.slot i) = .error st) :
    servePeaksRead [slot] s = (s, refuse st) := by
  simp only [servePeaksRead, field_first, hslot, legOf_val, h]

variable {c : SlotContent} (h : s.slot i = ⟨.ready, some c⟩)
include h

/-- R105: a page past the profile, or the page. -/
theorem serveProfileRead_ready (page : Byte) : serveProfileRead [slot, page] s =
    if c.k / 256 ≤ page.toNat then (s, refuse .badValue)
    else (s, okReply (c.header ++ [page] ++ (((c.profile.getD []).drop (256 * page.toNat)).take 256).flatMap (le 2))) := by
  simp only [serveProfileRead, field_first, field_second, hslot, legOf_val, h, readySlot, u8_toNat]

/-- R106: the peak list. -/
theorem servePeaksRead_ready : servePeaksRead [slot] s =
    (s, okReply (c.header ++ u8 (bitsOf [c.temperature.isSome, c.qEff.isSome]) ++ leSigned 1 (c.temperature.getD 0)
      ++ leOpt 2 c.qEff ++ u8 (c.peaks.getD []).length ++ (c.peaks.getD []).flatMap Peak.layout)) := by
  simp only [servePeaksRead, field_first, hslot, legOf_val, h, readySlot]

end

/-- A run of entries inside a list, entry by entry. -/
theorem take_drop_eq_map_range {a : List Nat} {m n : Nat} (h : m + n ≤ a.length) :
    (a.drop m).take n = (List.range n).map fun j => a.getD (m + j) 0 := by
  refine List.ext_getElem (by simp; omega) fun j hj _ => ?_
  have hin : m + j < a.length := by simp at hj; omega
  simp [List.getElem?_eq_getElem hin]

/-- A page of a profile that lies inside it, amplitude by amplitude (R105). -/
theorem profilePage_eq {a : List Nat} {page : Nat} (h : page < a.length / 256) :
    ((a.drop (256 * page)).take 256).flatMap (le 2) =
      (List.range 256).flatMap fun j => le 2 (a.getD (256 * page + j) 0) := by
  rw [take_drop_eq_map_range (by omega), List.flatMap_map]

/-- PROFILE_READ on a ready part, by what the profile store answers (R8). -/
theorem exec_profileRead {n : Nat} {slot page tag : Byte} {s : State} {st : Status} {fields : List Byte} (h : Ready s)
    (hs : serveProfileRead [slot, page] (s.after n).holding = ((s.after n).holding, ⟨st, fields, false⟩)) :
    exec (.profileRead n tag [slot, page]) s = .next ((s.after n).replied 0x1B tag st fields) :=
  requestArrives_unchanged h rfl rfl hs

/-- PEAKS_READ on a ready part, by what the profile store answers (R8). -/
theorem exec_peaksRead {n : Nat} {slot tag : Byte} {s : State} {st : Status} {fields : List Byte} (h : Ready s)
    (hs : servePeaksRead [slot] (s.after n).holding = ((s.after n).holding, ⟨st, fields, false⟩)) :
    exec (.peaksRead n tag [slot]) s = .next ((s.after n).replied 0x1C tag st fields) :=
  requestArrives_unchanged h rfl rfl hs

/-! ### MAP_READ (R140) -/

section
variable {leg page : Byte} {s : State}

/-- R140: a number that names no leg, or a page that is not one of the three. -/
theorem serveMapRead_badValue (h : 4 ≤ leg.toNat ∨ 2 < page.toNat) :
    serveMapRead [leg, page] s = (s, refuse .badValue) := by
  simp only [serveMapRead, field_first, field_second]
  cases hleg : legOf leg.toNat with
  | none => rfl
  | some g => exact if_pos (h.resolve_left fun hnone => by simp [legOf_eq_none hnone] at hleg)

/-- R140: a page of a leg's elements. -/
theorem serveMapRead_page {g : LegId} (hleg : leg.toNat = g.val) (hpage : page.toNat ≤ 2) :
    let shown := ((s.elements g).drop (16 * page.toNat)).take 16
    serveMapRead [leg, page] s = (s, okReply ([leg] ++ le 2 (s.map.get g).revision ++ u8 (s.elements g).length ++ [page]
      ++ u8 shown.length ++ shown.flatMap Element.layout)) := by
  simp only [serveMapRead, field_first, field_second, hleg, legOf_val, u8_leg hleg, u8_toNat]
  exact if_neg (Nat.not_lt.mpr hpage)

end

/-- MAP_READ on a ready part, by what the map answers (R8). -/
theorem exec_mapRead {n : Nat} {leg page tag : Byte} {s : State} {st : Status} {fields : List Byte} (h : Ready s)
    (hs : serveMapRead [leg, page] (s.after n).holding = ((s.after n).holding, ⟨st, fields, false⟩)) :
    exec (.mapRead n tag [leg, page]) s = .next ((s.after n).replied 0x23 tag st fields) :=
  requestArrives_unchanged h rfl rfl hs

/-! ### STRAY_LIST (R175) -/

/-- The entries of the table are the ways of its sixteen sets. -/
theorem Strays.mem_entries {t : Strays} {i : Nat} {w : Fin 4} {e : StrayEntry} :
    (i, w, e) ∈ t.entries ↔ i < 16 ∧ e = (t.set i).ways.get w := by
  simp only [Strays.entries, List.mem_flatMap, List.mem_range, List.mem_map, Prod.mk.injEq]
  constructor
  · rintro ⟨_, hi, _, -, rfl, rfl, rfl⟩
    exact ⟨hi, rfl⟩
  · rintro ⟨hi, rfl⟩
    exact ⟨i, hi, w, mem_allLegs w, rfl, rfl, rfl⟩

/-- No set and way comes twice. -/
theorem Strays.entries_nodup (t : Strays) : t.entries.Nodup := by
  have hways : allLegs.Nodup := by decide
  refine List.nodup_flatMap.mpr ⟨fun i _ => hways.map fun v w h => ?_, List.nodup_range.imp fun {i j} hij => ?_⟩
  · exact congrArg (·.2.1) h
  · rintro ⟨k, w, e⟩ hi hj
    obtain ⟨_, -, hi⟩ := List.mem_map.mp hi
    obtain ⟨_, -, hj⟩ := List.mem_map.mp hj
    exact hij ((congrArg (·.1) hi).trans (congrArg (·.1) hj).symm)

/-- Putting an entry in its place adds it and loses none. -/
theorem insertStray_perm (x : Nat × Fin 4 × StrayEntry) (ys : List (Nat × Fin 4 × StrayEntry)) :
    (insertStray x ys).Perm (x :: ys) := by
  induction ys with
  | nil => exact .refl _
  | cons y ys ih =>
    rw [insertStray]
    split
    · exact .refl _
    · exact (ih.cons y).trans (.swap x y ys)

/-- Entries in ascending latest distance (R175). -/
def ByDistance (xs : List (Nat × Fin 4 × StrayEntry)) : Prop := xs.Pairwise fun x y => x.2.2.distance ≤ y.2.2.distance

/-- Putting an entry in its place keeps the order of R175. -/
theorem insertStray_byDistance (x : Nat × Fin 4 × StrayEntry) {ys : List (Nat × Fin 4 × StrayEntry)}
    (h : ByDistance ys) : ByDistance (insertStray x ys) := by
  induction ys with
  | nil => exact List.pairwise_singleton _ _
  | cons y ys ih =>
    obtain ⟨hy, hys⟩ := List.pairwise_cons.mp h
    rw [insertStray]
    split
    · next hxy => exact List.pairwise_cons.mpr ⟨List.forall_mem_cons.mpr ⟨hxy, fun z hz => hxy.trans (hy z hz)⟩, h⟩
    · next hxy =>
      refine List.pairwise_cons.mpr ⟨fun z hz => ?_, ih hys⟩
      obtain rfl | hz := List.mem_cons.mp ((insertStray_perm x ys).mem_iff.mp hz)
      · exact Nat.le_of_not_le hxy
      · exact hy z hz

/-- Entries put in their places one by one are the same entries. -/
theorem sortStrays_perm (xs : List (Nat × Fin 4 × StrayEntry)) : (xs.foldr insertStray []).Perm xs := by
  induction xs with
  | nil => exact .refl _
  | cons x xs ih => exact (insertStray_perm x _).trans (ih.cons x)

/-- Entries put in their places one by one stand in the order of R175. -/
theorem sortStrays_byDistance (xs : List (Nat × Fin 4 × StrayEntry)) : ByDistance (xs.foldr insertStray []) := by
  induction xs with
  | nil => exact .nil
  | cons x xs ih => exact insertStray_byDistance x ih

/-- A leg's list holds exactly the leg's valid entries (R175). -/
theorem Strays.mem_listOf {t : Strays} {g : LegId} {i : Nat} {w : Fin 4} {e : StrayEntry} :
    (i, w, e) ∈ t.listOf g ↔ i < 16 ∧ e = (t.set i).ways.get w ∧ e.valid = true ∧ e.leg = g := by
  rw [Strays.listOf, (sortStrays_perm _).mem_iff, List.mem_filter, Strays.mem_entries]
  simp [and_assoc]

/-- A leg's list names no way twice. -/
theorem Strays.listOf_nodup (t : Strays) (g : LegId) : (t.listOf g).Nodup :=
  (sortStrays_perm _).nodup_iff.mpr (t.entries_nodup.filter _)

/-- A leg's list is in ascending latest distance (R175). -/
theorem Strays.listOf_byDistance (t : Strays) (g : LegId) : ByDistance (t.listOf g) := sortStrays_byDistance _

/-- The CONFIRMED entries counted in the table are those of the leg's list (R175). -/
theorem Strays.count_confirmed (t : Strays) (g : LegId) : t.count (fun e => e.leg == g && e.state == .confirmed) =
    ((t.listOf g).filter fun x => x.2.2.state == .confirmed).length := by
  rw [Strays.listOf, ((sortStrays_perm _).filter _).length_eq, List.filter_filter, Strays.count]
  congr 2
  funext x
  rw [← Bool.and_assoc, Bool.and_comm]

section
variable {leg page : Byte} {s : State}

/-- R175: a number that names no leg, or a page that is not one of the four. -/
theorem serveStrayList_badValue (h : 4 ≤ leg.toNat ∨ 3 < page.toNat) :
    serveStrayList [leg, page] s = (s, refuse .badValue) := by
  simp only [serveStrayList, field_first, field_second]
  cases hleg : legOf leg.toNat with
  | none => rfl
  | some g => exact if_pos (h.resolve_left fun hnone => by simp [legOf_eq_none hnone] at hleg)

/-- R175: a page of a leg's strays. -/
theorem serveStrayList_page {g : LegId} (hleg : leg.toNat = g.val) (hpage : page.toNat ≤ 3) :
    let all := s.stray.listOf g
    let shown := (all.drop (16 * page.toNat)).take 16
    serveStrayList [leg, page] s = (s, okReply ([leg] ++ u8 all.length
      ++ u8 (all.filter fun x => x.2.2.state == .confirmed).length ++ le 2 (s.stray.drops.get g) ++ [page]
      ++ u8 shown.length ++ shown.flatMap fun x => x.2.2.layout x.1 x.2.1.val (s.stray.set x.1).bits)) := by
  simp only [serveStrayList, field_first, field_second, hleg, legOf_val, u8_leg hleg, u8_toNat, Strays.count_confirmed]
  exact if_neg (Nat.not_lt.mpr hpage)

end

/-- STRAY_LIST on a ready part, by what the stray table answers (R8). -/
theorem exec_strayList {n : Nat} {leg page tag : Byte} {s : State} {st : Status} {fields : List Byte} (h : Ready s)
    (hs : serveStrayList [leg, page] (s.after n).holding = ((s.after n).holding, ⟨st, fields, false⟩)) :
    exec (.strayList n tag [leg, page]) s = .next ((s.after n).replied 0x28 tag st fields) :=
  requestArrives_unchanged h rfl rfl hs

/-! ### The sizes of records (R202) -/

theorem Element.layout_length (e : Element) : e.layout.length = 21 := by
  simp [Element.layout, u8, yesNo, leOpt]

theorem StrayEntry.layout_length (i w b : Nat) (e : StrayEntry) : (e.layout i w b).length = 24 := by
  simp [StrayEntry.layout, u8]

theorem BurstRecord.layout_length (r : BurstRecord) : r.layout.length = 34 := by
  simp [BurstRecord.layout, u8, leOpt, binSet, leSigned]

theorem Peak.layout_length (p : Peak) : p.layout.length = 11 := by
  simp [Peak.layout, u8, leOpt, leSigned]

theorem Window.layout_length (w : Window) : w.layout.length = 17 := by
  simp [Window.layout, u8]

/-! ### The statement, part by part -/

/-- Settles O43: each request's cases in the order of its checks; a page is a run of its list, and the list of a leg's strays is the
model's own. -/
theorem pagesAreRead : Obligations.PagesAreRead := by
  unfold Obligations.PagesAreRead
  refine ⟨?_, ?_, Element.layout_length, StrayEntry.layout_length, BurstRecord.layout_length, Peak.layout_length,
    Window.layout_length⟩
  · intro n slot page tag s hready u profile peaks
    have refused : ∀ (i : SlotId) st, slot.toNat = i.val → readySlot (s.slot i) = .error st →
        profile = .next (u.replied 0x1B tag st []) ∧ peaks = .next (u.replied 0x1C tag st []) := fun i st hslot h =>
      ⟨exec_profileRead hready (serveProfileRead_refused (s := u.holding) hslot h page),
        exec_peaksRead hready (servePeaksRead_refused (s := u.holding) hslot h)⟩
    refine ⟨fun hnone => ⟨exec_profileRead hready (serveProfileRead_noSlot hnone page),
        exec_peaksRead hready (servePeaksRead_noSlot hnone)⟩,
      fun i hslot => ⟨fun hfree => refused i _ hslot (readySlot_free hfree),
        fun hbusy => refused i _ hslot (readySlot_pending hbusy), ?_⟩⟩
    intro c hc header
    have hprofile := serveProfileRead_ready (s := u.holding) hslot hc page
    have hpeaks := servePeaksRead_ready (s := u.holding) hslot hc
    refine ⟨fun hpast => exec_profileRead hready (hprofile.trans (if_pos hpast)), fun a ha hpage hlength => ?_,
      fun ps hps => ?_⟩
    · rw [if_neg (Nat.not_le.mpr hpage), ha, Option.getD_some, profilePage_eq (hlength ▸ hpage)] at hprofile
      exact exec_profileRead hready hprofile
    · rw [hps] at hpeaks
      exact exec_peaksRead hready hpeaks
  · intro n leg page tag s hready u
    exact ⟨fun hbad => exec_mapRead hready (serveMapRead_badValue hbad),
      fun hbad => exec_strayList hready (serveStrayList_badValue hbad), fun g hleg =>
      ⟨fun hpage => exec_mapRead hready (serveMapRead_page (s := u.holding) hleg hpage), fun hpage =>
        ⟨s.stray.listOf g, s.stray.listOf_nodup g, s.stray.listOf_byDistance g, fun i w e => Strays.mem_listOf,
          exec_strayList hready (serveStrayList_page (s := u.holding) hleg hpage)⟩⟩⟩

end Sys2Proof.Machine
end

section
/-! PROOFS. The octal division and the REFINE operands (R112, R113, R116). -/

namespace Sys2Proof.Machine

open Sys2Proof

/-! ### One digit and the digit steps (R112) -/

/-- The digit chosen by comparisons is the quotient by m, at most 7 (R112). -/
theorem octalDigit_eq_min {m : Nat} (hm : 0 < m) (p : Nat) : octalDigit m p = min 7 (p / m) := by
  have fits : ∀ c, c * m ≤ p ↔ c ≤ p / m := fun c => (Nat.le_div_iff_mul_le hm).symm
  have fitsOnce : m ≤ p ↔ 1 ≤ p / m := by simpa using fits 1
  simp only [octalDigit, fits, fitsOnce]
  generalize p / m = quotient
  split_ifs <;> omega

/-- n digit steps append the n octal digits of the quotient to the quotient so far, and leave the remainder (R112). -/
theorem digitSteps_eq {d : Nat} (hd : 0 < d) (n q p : Nat) (hp : p < d * 8 ^ n) :
    digitSteps d n q p = (q * 8 ^ n + p / d, p % d) := by
  induction n generalizing q p with
  | zero =>
    have hlt : p < d := by simpa using hp
    simp [digitSteps, Nat.div_eq_of_lt hlt, Nat.mod_eq_of_lt hlt]
  | succ n ih =>
    have hm : 0 < d * 8 ^ n := by positivity
    have hdigit : octalDigit (d * 8 ^ n) p = p / (d * 8 ^ n) := by
      have hlt : p / (d * 8 ^ n) < 8 := (Nat.div_lt_iff_lt_mul hm).mpr (by rw [pow_succ] at hp; linarith)
      rw [octalDigit_eq_min hm]
      omega
    have hrest : p - p / (d * 8 ^ n) * (d * 8 ^ n) = p % (d * 8 ^ n) := by rw [Nat.mod_eq_sub_div_mul]
    have hquot : p / (d * 8 ^ n) * 8 ^ n + p % (d * 8 ^ n) / d = p / d := by
      rw [Nat.mod_mul_right_div_self, ← Nat.div_div_eq_div_mul, Nat.div_add_mod']
    rw [digitSteps, hdigit, hrest, ih _ _ (Nat.mod_lt p hm), Nat.mod_mul_right_mod, pow_succ]
    exact Prod.ext (by linarith) rfl

/-! ### The result of a job (R112, R113) -/

/-- A quotient of 2^18 or more is OVERFLOW (R112). -/
theorem Job.result_overflow {j : Job} (h : j.divisor * 262144 ≤ j.loaded) : j.result = none := by
  simp [Job.result, Job.overflows, h]

/-- A quotient below 2^18 comes out with its remainder (R112). -/
theorem Job.result_fits {j : Job} (hd : 0 < j.divisor) (h : j.loaded < j.divisor * 262144) :
    j.result = some (j.loaded / j.divisor, j.loaded % j.divisor) := by
  simp [Job.result, Job.overflows, Nat.not_le.mpr h, digitSteps_eq hd 6 0 j.loaded h]

/-- A result that is not OVERFLOW has 18 bits of quotient and a remainder below the divisor (R112). -/
theorem Job.result_bounds {j : Job} (hd : 0 < j.divisor) {q r : Nat} (h : j.result = some (q, r)) :
    q ≤ 262143 ∧ r < j.divisor := by
  obtain hover | hfits := le_or_gt (j.divisor * 262144) j.loaded
  · rw [Job.result_overflow hover] at h
    cases h
  · rw [Job.result_fits hd hfits] at h
    cases h
    have hq : j.loaded / j.divisor < 262144 := Nat.div_lt_of_lt_mul hfits
    exact ⟨by omega, Nat.mod_lt _ hd⟩

/-! ### REFINE (R116) -/

/-- The operands of bin k by its heights x and y above its neighbours (R116). -/
theorem refineOperands_eq {a : List Nat} {k x y : Nat} (hx : a.getD k 0 = a.getD (k - 1) 0 + x)
    (hy : a.getD k 0 = a.getD (k + 1) 0 + y) : refineOperands a k = (66 * x + 2 * y, 4 * (x + y)) := by
  simp only [refineOperands, Prod.mk.injEq]
  omega

/-- The offset of the REFINE quotient of heights x and y lies within -8..+8, with +8 on a plateau and 0 between equal
flanks (R116). -/
theorem refineOffset_range {x y q : Nat} (hx : 0 < x) (hq : q = (66 * x + 2 * y) / (4 * (x + y))) :
    -8 ≤ offsetOf q ∧ offsetOf q ≤ 8 ∧ (y = 0 → offsetOf q = 8) ∧ (x = y → offsetOf q = 0) := by
  have hle : q ≤ 16 := hq ▸ Nat.le_of_lt_succ ((Nat.div_lt_iff_lt_mul (by omega)).mpr (by omega))
  have hplateau : y = 0 → q = 16 := fun hy => hq.trans (Nat.div_eq_of_lt_le (by omega) (by omega))
  have hflanks : x = y → q = 8 := fun hxy => hq.trans (Nat.div_eq_of_lt_le (by omega) (by omega))
  unfold offsetOf
  omega

/-- Settles O37: a job's result by its digits, and a REFINE job as such a job on operands taken from the bin's heights above its
neighbours. -/
theorem divisionByOctalDigits : Obligations.DivisionByOctalDigits := by
  unfold Obligations.DivisionByOctalDigits
  refine ⟨fun j hd => ⟨Job.result_overflow, Job.result_fits hd, fun q r => Job.result_bounds hd⟩, ?_⟩
  intro a k hleft hright x y
  have hx : 0 < x := Nat.sub_pos_of_lt hleft
  have hops : refineOperands a k = (66 * x + 2 * y, 4 * (x + y)) :=
    refineOperands_eq (Nat.add_sub_of_le hleft.le).symm (Nat.add_sub_of_le hright).symm
  refine ⟨hops, fun o b m => ?_⟩
  rw [hops]
  have hdivisor : 0 < 4 * (x + y) := by omega
  have hfits : 66 * x + 2 * y < 4 * (x + y) * 262144 := by omega
  exact ⟨_, _, Job.result_fits (j := ⟨o, _, _, false, b, m⟩) hdivisor hfits, refineOffset_range hx rfl⟩

end Sys2Proof.Machine
end

section
/-! PROOFS. The edits of the span map: ELEMENT_DROP, MAP_CLEAR and SCORE_CLEAR (R136 to R138, R141). -/

namespace Sys2Proof.Machine

open Sys2Proof

/-! ### Ids and edits (R136) -/

/-- No element has the id exactly when the search for it finds none. -/
theorem find_id_eq_none {es : List Element} {id : Nat} : es.find? (fun e => e.id == id) = none ↔ ∀ e ∈ es, e.id ≠ id := by
  simp

/-- The elements of other ids, in the words of the statements. -/
theorem filter_id_ne (es : List Element) (id : Nat) : (es.filter fun e => e.id != id) = es.filter fun e => e.id ≠ id :=
  List.filter_congr fun e _ => Bool.eq_iff_iff.mpr (by simp)

/-- The elements that an id names, 0 naming all, in the words of the statements (R141). -/
theorem named_iff {id : Nat} {e : Element} : (id == 0 || e.id == id) = true ↔ id = 0 ∨ e.id = id := by simp

/-- An edit raises the revision by one, wrapping (R136). -/
@[simp] theorem editMap_revision (g : LegId) (es : List Element) (s : State) :
    ((editMap g es s).map.get g).revision = ((s.map.get g).revision + 1) % 65536 := by
  simp [editMap, nextRevision]

/-! ### A number that names no leg -/

section
variable {leg : Byte} (h : 4 ≤ leg.toNat) (p : List Byte) (s : State)
include h

/-- R137: no leg. -/
theorem serveElementDrop_noLeg : serveElementDrop (leg :: p) s = (s, refuse .badValue) := by
  simp only [serveElementDrop, field_first, legOf_eq_none h]

/-- R138: no leg. -/
theorem serveMapClear_noLeg : serveMapClear (leg :: p) s = (s, refuse .badValue) := by
  simp only [serveMapClear, field_first, legOf_eq_none h]

/-- R141: no leg. -/
theorem serveScoreClear_noLeg : serveScoreClear (leg :: p) s = (s, refuse .badValue) := by
  simp only [serveScoreClear, field_first, legOf_eq_none h]

end

/-! ### ELEMENT_DROP, MAP_CLEAR and SCORE_CLEAR on a leg -/

section
variable {leg id : Byte} {g : LegId} {s : State} (hleg : leg.toNat = g.val)
include hleg

/-- R137: id 0. -/
theorem serveElementDrop_badValue (hid : id.toNat = 0) : serveElementDrop [leg, id] s = (s, refuse .badValue) := by
  simp only [serveElementDrop, field_first, field_second, hleg, legOf_val]
  exact if_pos hid

/-- R137: an id that no element has. -/
theorem serveElementDrop_notFound (hid : 1 ≤ id.toNat) (hnone : ∀ e ∈ s.elements g, e.id ≠ id.toNat) :
    serveElementDrop [leg, id] s = (s, refuse .notFound) := by
  simp only [serveElementDrop, field_first, field_second, hleg, legOf_val, find_id_eq_none.mpr hnone]
  exact if_neg (Nat.pos_iff_ne_zero.mp hid)

/-- R137: the element with the id leaves the list. -/
theorem serveElementDrop_dropped {e : Element} (hid : 1 ≤ id.toNat)
    (hfound : (s.elements g).find? (fun x => x.id == id.toNat) = some e) :
    serveElementDrop [leg, id] s = (editMap g ((s.elements g).filter fun x => x.id ≠ id.toNat) s,
      okReply (u8 e.kind.code ++ le 2 e.nominal ++ yesNo e.anchor ++ u8 e.state.code ++ u8 e.score
        ++ le 2 (((s.map.get g).revision + 1) % 65536))) := by
  simp only [serveElementDrop, field_first, field_second, hleg, legOf_val, hfound, editMap_revision, filter_id_ne]
  exact if_neg (Nat.pos_iff_ne_zero.mp hid)

/-- R138: the list empties, whatever it held. -/
theorem serveMapClear_cleared : serveMapClear [leg] s =
    (editMap g [] s, okReply (u8 (s.elements g).length ++ le 2 (((s.map.get g).revision + 1) % 65536))) := by
  simp only [serveMapClear, field_first, hleg, legOf_val, editMap_revision]

/-- R141: an id that no element has. -/
theorem serveScoreClear_notFound (hid : 1 ≤ id.toNat) (hnone : ∀ e ∈ s.elements g, e.id ≠ id.toNat) :
    serveScoreClear [leg, id] s = (s, refuse .notFound) := by
  have hzero : id.toNat ≠ 0 := Nat.pos_iff_ne_zero.mp hid
  have hunnamed : ((s.elements g).any fun e => id.toNat == 0 || e.id == id.toNat) = false :=
    List.any_eq_false.mpr fun e he => by simpa [named_iff, hzero] using hnone e he
  simp only [serveScoreClear, field_first, field_second, hleg, legOf_val]
  exact if_pos ⟨hzero, by rw [hunnamed]; rfl⟩

/-- R141: the scores of the elements named become 0; id 0 names all. -/
theorem serveScoreClear_cleared (hnamed : id.toNat = 0 ∨ ∃ e ∈ s.elements g, e.id = id.toNat) :
    let named := (s.elements g).filter fun e => id.toNat = 0 ∨ e.id = id.toNat
    serveScoreClear [leg, id] s = (s.setElements g ((s.elements g).map fun e =>
        if id.toNat = 0 ∨ e.id = id.toNat then { e with score := 0 } else e),
      okReply (u8 named.length ++ le 2 (named.map (·.score)).sum)) := by
  have hfilter : ((s.elements g).filter fun e => id.toNat == 0 || e.id == id.toNat) =
      (s.elements g).filter fun e => id.toNat = 0 ∨ e.id = id.toNat :=
    List.filter_congr fun e _ => Bool.eq_iff_iff.mpr (named_iff.trans decide_eq_true_iff.symm)
  have hany : id.toNat = 0 ∨ ((s.elements g).any fun e => id.toNat == 0 || e.id == id.toNat) = true :=
    hnamed.imp_right fun ⟨e, he, heid⟩ => List.any_eq_true.mpr ⟨e, he, named_iff.mpr (.inr heid)⟩
  simp only [serveScoreClear, field_first, field_second, hleg, legOf_val, hfilter, named_iff]
  exact if_neg fun ⟨hzero, hnot⟩ => by simp [hany.resolve_left hzero] at hnot

end

/-- ELEMENT_DROP on a ready part, by what the map answers (R8). -/
theorem exec_elementDrop {n : Nat} {leg id tag : Byte} {s t : State} {st : Status} {fields : List Byte} (h : Ready s)
    (hs : serveElementDrop [leg, id] (s.after n).holding = (t, ⟨st, fields, false⟩))
    (hmsg : t.msg = (s.after n).holding.msg) (htime : t.time = (s.after n).time) :
    exec (.elementDrop n tag [leg, id]) s = .next ((t.setMsg s.msg).replied 0x21 tag st fields) :=
  requestArrives_served h rfl rfl hs hmsg htime

/-- MAP_CLEAR on a ready part, by what the map answers (R8). -/
theorem exec_mapClear {n : Nat} {leg tag : Byte} {s t : State} {st : Status} {fields : List Byte} (h : Ready s)
    (hs : serveMapClear [leg] (s.after n).holding = (t, ⟨st, fields, false⟩))
    (hmsg : t.msg = (s.after n).holding.msg) (htime : t.time = (s.after n).time) :
    exec (.mapClear n tag [leg]) s = .next ((t.setMsg s.msg).replied 0x22 tag st fields) :=
  requestArrives_served h rfl rfl hs hmsg htime

/-- SCORE_CLEAR on a ready part, by what the map answers (R8). -/
theorem exec_scoreClear {n : Nat} {leg id tag : Byte} {s t : State} {st : Status} {fields : List Byte} (h : Ready s)
    (hs : serveScoreClear [leg, id] (s.after n).holding = (t, ⟨st, fields, false⟩))
    (hmsg : t.msg = (s.after n).holding.msg) (htime : t.time = (s.after n).time) :
    exec (.scoreClear n tag [leg, id]) s = .next ((t.setMsg s.msg).replied 0x24 tag st fields) :=
  requestArrives_served h rfl rfl hs hmsg htime

/-- Settles O45: each request's cases in the order of its checks. -/
theorem elementsAreDroppedAndCleared : Obligations.ElementsAreDroppedAndCleared := by
  unfold Obligations.ElementsAreDroppedAndCleared
  intro n leg id tag s hready u
  refine ⟨fun hnone => ⟨exec_elementDrop hready (serveElementDrop_noLeg hnone ..) rfl rfl,
    exec_mapClear hready (serveMapClear_noLeg hnone ..) rfl rfl,
    exec_scoreClear hready (serveScoreClear_noLeg hnone ..) rfl rfl⟩, fun g hleg => ?_⟩
  refine ⟨fun hzero => exec_elementDrop hready (serveElementDrop_badValue hleg hzero) rfl rfl,
    fun hid hnone => ⟨exec_elementDrop hready (serveElementDrop_notFound (s := u.holding) hleg hid hnone) rfl rfl,
      exec_scoreClear hready (serveScoreClear_notFound (s := u.holding) hleg hid hnone) rfl rfl⟩,
    fun e hid hfound => exec_elementDrop hready (serveElementDrop_dropped (s := u.holding) hleg hid hfound) rfl rfl,
    exec_mapClear hready (serveMapClear_cleared hleg) rfl rfl,
    fun hnamed => exec_scoreClear hready (serveScoreClear_cleared (s := u.holding) hleg hnamed) rfl rfl⟩

end Sys2Proof.Machine
end

section
/-! PROOFS. Clearing entries of the stray table (R174). -/

namespace Sys2Proof.Machine

open Sys2Proof

/-- A number beyond the table reads as a set in its reset state. -/
theorem Strays.set_eq_reset {t : Strays} {i : Nat} (h : t.sets.length ≤ i) : t.set i = .reset := List.getD_eq_default _ _ h

/-- A count of entries, way by way. -/
theorem Strays.count_eq_sum (p : StrayEntry → Bool) (t : Strays) : t.count p = ∑ i ∈ Finset.range 16, ∑ w : Fin 4,
    if ((t.set i).ways.get w).valid && p ((t.set i).ways.get w) then 1 else 0 := by
  have hways : ∀ q : Fin 4 → Bool, allLegs.countP q = ∑ w : Fin 4, if q w then 1 else 0 := by
    intro q
    simp only [allLegs, List.countP_cons, List.countP_nil, Fin.sum_univ_four]
    ring
  rw [Strays.count, Strays.entries, ← List.countP_eq_length_filter, List.countP_flatMap]
  exact congrArg List.sum (List.map_congr_left fun i _ => List.countP_map.trans (hways _))

/-- Clearing invalidates the valid entries that satisfy `p`, and counts them (R174). -/
theorem Strays.clear_cleared (p : StrayEntry → Bool) (t : Strays) : ClearedStrays p t (t.clear p).1 (t.clear p).2 := by
  refine ⟨rfl, fun i _ => ?_, t.count_eq_sum p⟩
  obtain hin | hout := lt_or_ge i t.sets.length
  · have hset := t.mapEntries_set (fun e => if e.valid && p e then e.invalidate else e) i hin
    obtain ⟨-, -, hpair, hlow, hhigh⟩ := hset 0
    exact ⟨hpair, hlow, hhigh, fun w => (hset w).2.1⟩
  · have hout' : (t.clear p).1.sets.length ≤ i := by simpa [Strays.clear, Strays.mapEntries] using hout
    rw [Strays.set_eq_reset hout, Strays.set_eq_reset hout']
    exact ⟨rfl, rfl, rfl, fun w => by fin_cases w <;> rfl⟩

end Sys2Proof.Machine
end

section
/-! PROOFS. ELEMENT_PUT: its operands, its checks in order (R131), the element's place and the anchor (R132 to R134), and the
strays near it (R135). -/

namespace Sys2Proof.Machine

open Sys2Proof

/-! ### The operands (R200, R201) -/

/-- The kind of an element that a byte up to 2 names. -/
theorem elementKindOf_of_le {v : Nat} (h : v ≤ 2) : ∃ k, elementKindOf v = some k ∧ k.code = v := by
  interval_cases v
  · exact ⟨.tap, rfl, rfl⟩
  · exact ⟨.split, rfl, rfl⟩
  · exact ⟨.eol, rfl, rfl⟩

/-- A byte above 2 names no kind. -/
theorem elementKindOf_eq_none {v : Nat} (h : 2 < v) : elementKindOf v = none := by
  match v, h with
  | _ + 3, _ => rfl

/-- A yes/no byte up to 1. -/
theorem yesNoOf_of_le {v : Nat} (h : v ≤ 1) : yesNoOf v = some (decide (v = 1)) := by
  interval_cases v <;> rfl

/-- A byte above 1 is no yes/no. -/
theorem yesNoOf_eq_none {v : Nat} (h : 1 < v) : yesNoOf v = none := by
  match v, h with
  | _ + 2, _ => rfl

/-- End of line is the kind of code 2. -/
theorem ElementKind.code_eq_two {k : ElementKind} : k.code = 2 ↔ k = .eol := by
  cases k <;> decide

/-- The payload of ELEMENT_PUT (R131, R201). -/
def putPayload (leg id kind : Byte) (d : Nat) (flag : Byte) : List Byte := [leg, id, kind] ++ le 2 d ++ [flag]

/-! Its fields, each read where it stands. -/

section
variable (leg id kind flag : Byte) (d : Nat)

@[simp] theorem field_put_leg : field (putPayload leg id kind d flag) 0 1 = leg.toNat := field_first ..

@[simp] theorem field_put_id : field (putPayload leg id kind d flag) 1 1 = id.toNat := field_second ..

@[simp] theorem field_put_kind : field (putPayload leg id kind d flag) 2 1 = kind.toNat := Nat.add_zero _

@[simp] theorem field_put_flag : field (putPayload leg id kind d flag) 5 1 = flag.toNat := Nat.add_zero _

variable {d} in
theorem field_put_distance (h : d < 65536) : field (putPayload leg id kind d flag) 3 2 = d :=
  field_le (before := [leg, id, kind]) rfl rfl h

end

/-! ### The checks (R131) -/

/-- Check 2: the id is new and the list is full. -/
def PutFull (es : List Element) (id : Nat) : Prop := (∀ e ∈ es, e.id ≠ id) ∧ 48 ≤ es.length

/-- The elements that a put of the id is compared with: a replaced element is left out. -/
def otherElements (es : List Element) (id : Nat) : List Element := es.filter fun e => e.id ≠ id

/-- Check 3: another element stands at the distance. -/
def PutTaken (others : List Element) (d : Nat) : Prop := ∃ e ∈ others, e.nominal = d

/-- Check 4: the put would break the order of end and line. -/
def PutBreaks (others : List Element) (kind d : Nat) : Prop :=
  (kind = 2 ∧ ∃ e ∈ others, d ≤ e.nominal ∨ e.kind = .eol) ∨ (kind ≠ 2 ∧ ∃ e ∈ others, e.kind = .eol ∧ e.nominal ≤ d)

/-- The model's test of check 2. -/
theorem putFull_iff {es : List Element} {id : Nat} :
    ((es.find? fun e => e.id == id).isNone && decide (48 ≤ es.length)) = true ↔ PutFull es id := by
  rw [Bool.and_eq_true, Option.isNone_iff_eq_none, find_id_eq_none, decide_eq_true_iff, PutFull]

/-- The model's test of check 3. -/
theorem putTaken_iff {others : List Element} {d : Nat} :
    (others.any fun e => e.nominal == d) = true ↔ PutTaken others d := by
  simp [PutTaken]

/-- The model's test of check 4. -/
theorem breaksLine_iff {k : ElementKind} {d : Nat} {others : List Element} :
    breaksLine k d others = true ↔ PutBreaks others k.code d := by
  cases k <;> simp [breaksLine, PutBreaks, ElementKind.code]

/-! ### The element's place and the anchor (R132 to R134) -/

/-- What becomes of another element's anchor flag at a put with this flag byte (R134). -/
def settled (flag : Nat) : Element → Element := fun e => if flag = 1 then { e with anchor := false } else e

/-- Settling an anchor flag moves no element. -/
theorem settled_nominal (flag : Nat) (e : Element) : (settled flag e).nominal = e.nominal := by
  unfold settled
  split <;> rfl

/-- The record is put among the others with their anchor flags settled. -/
theorem putElement_fresh (i : Nat) (k : ElementKind) (flag d : Nat) (others : List Element) :
    putElement (.fresh i k (decide (flag = 1)) d) others =
      insertElement (.fresh i k (decide (flag = 1)) d) (others.map (settled flag)) := by
  by_cases h : flag = 1
  · subst h
    rfl
  · have hkept : settled flag = id := funext fun _ => if_neg h
    simp [putElement, Element.fresh, h, hkept]

/-- A distance that no element of an ascending list has parts it; a record of that distance goes in at the parting, whatever has
been done to fields other than the distances. -/
theorem insertElement_split {d : Nat} {es : List Element} (hasc : es.Pairwise fun e f => e.nominal < f.nominal)
    (hfree : ¬ PutTaken es d) : ∃ before after, es = before ++ after ∧ (∀ e ∈ before, e.nominal < d) ∧
      (∀ e ∈ after, d < e.nominal) ∧
      ∀ (new : Element) (f : Element → Element), new.nominal = d → (∀ e, (f e).nominal = e.nominal) →
        insertElement new (es.map f) = before.map f ++ new :: after.map f := by
  induction es with
  | nil => exact ⟨[], [], rfl, nofun, nofun, fun _ _ _ _ => rfl⟩
  | cons x xs ih =>
    obtain ⟨hx, hxs⟩ := List.pairwise_cons.mp hasc
    obtain hlt | hgt := Nat.lt_or_gt_of_ne fun h => hfree ⟨x, List.mem_cons_self, h⟩
    · obtain ⟨before, after, rfl, hbefore, hafter, hinsert⟩ := ih hxs fun ⟨e, he, hd⟩ => hfree ⟨e, List.mem_cons_of_mem _ he, hd⟩
      refine ⟨x :: before, after, rfl, List.forall_mem_cons.mpr ⟨hlt, hbefore⟩, hafter, fun new f hnew hf => ?_⟩
      have hpast : ¬ new.nominal ≤ (f x).nominal := by rw [hnew, hf]; exact Nat.not_le.mpr hlt
      simp [insertElement, hpast, ← hinsert new f hnew hf]
    · refine ⟨[], x :: xs, rfl, nofun, List.forall_mem_cons.mpr ⟨hgt, fun e he => hgt.trans (hx e he)⟩,
        fun new f hnew hf => ?_⟩
      exact if_pos (by rw [hnew, hf]; exact hgt.le)

/-! ### The strays near it (R135) -/

/-- The entries of the leg within the match tolerance of a distance; none without settings. -/
def nearStrays (g : LegId) (d : Nat) (settings : Option Settings) : StrayEntry → Bool := fun e =>
  decide (e.leg = g) && (settings.elim false fun t => decide (distanceBetween e.distance d ≤ t.tolerance))

/-- The same entries, by whether the leg has settings. -/
theorem nearStrays_eq (g : LegId) (d : Nat) (settings : Option Settings) : nearStrays g d settings = fun e =>
    match settings with
    | some t => e.leg == g && decide (distanceBetween e.distance d ≤ t.tolerance)
    | none => false := by
  funext e
  cases settings with
  | none => exact Bool.and_false _
  | some t => rfl

/-! ### ELEMENT_PUT (R131 to R136) -/

/-- What the reply tells of a replaced element: its state and score, zeros with none (R133, R202). -/
def replacedFields : Option Element → List Byte
  | none => [0, 0, 0]
  | some e => [3] ++ u8 e.state.code ++ u8 e.score

/-- An accepted put: the list with the record in its place, the strays near it cleared, and the reply (R132 to R136). -/
def acceptPut (g : LegId) (i : Nat) (k : ElementKind) (d flag : Nat) (s : State) : State × Reply :=
  let old := (s.elements g).find? fun e => e.id == i
  let list := insertElement (.fresh i k (decide (flag = 1)) d) ((otherElements (s.elements g) i).map (settled flag))
  let cleared := s.stray.clear (nearStrays g d (s.leg g).settings)
  (editMap g list (s.setStray cleared.1), okReply (u8 (if old = none then 0 else 1) ++ u8 list.length ++ u8 cleared.2
    ++ le 2 (((s.map.get g).revision + 1) % 65536) ++ replacedFields old))

section
variable {leg id kind flag : Byte} {d : Nat} {s : State}

/-- R131, check 1: an operand outside its range. -/
theorem serveElementPut_outOfRange (h : 4 ≤ leg.toNat ∨ id.toNat = 0 ∨ 2 < kind.toNat ∨ 1 < flag.toNat) :
    serveElementPut (putPayload leg id kind d flag) s = (s, refuse .badValue) := by
  unfold serveElementPut
  split
  · next g k a hleg hkind hflag =>
    rw [field_put_leg] at hleg
    rw [field_put_kind] at hkind
    rw [field_put_flag] at hflag
    obtain h | h | h | h := h
    · simp [legOf_eq_none h] at hleg
    · exact if_pos ((field_put_id ..).trans h)
    · simp [elementKindOf_eq_none h] at hkind
    · simp [yesNoOf_eq_none h] at hflag
  · rfl

variable {g : LegId} {k : ElementKind} (hd : d < 65536) (hleg : leg.toNat = g.val) (hid : 1 ≤ id.toNat)
  (hkind : elementKindOf kind.toNat = some k) (hflag : flag.toNat ≤ 1)
include hd hleg hid hkind hflag

/-- R131: with every operand in its range, the other three checks in their order. -/
theorem serveElementPut_inRange : serveElementPut (putPayload leg id kind d flag) s =
    let es := s.elements g
    let others := otherElements es id.toNat
    if (es.find? fun e => e.id == id.toNat).isNone && decide (48 ≤ es.length) then (s, refuse .noRoom)
    else if others.any fun e => e.nominal == d then (s, refuse .duplicate)
    else if breaksLine k d others then (s, refuse .badValue)
    else acceptPut g id.toNat k d flag.toNat s := by
  simp only [serveElementPut, field_put_leg, field_put_id, field_put_kind, field_put_flag, field_put_distance _ _ _ _ hd, hleg,
    legOf_val, hkind, yesNoOf_of_le hflag, filter_id_ne, putElement_fresh, editMap_revision, State.setStray_map,
    if_neg (Nat.pos_iff_ne_zero.mp hid)]
  refine if_congr .rfl rfl (if_congr .rfl rfl (if_congr .rfl rfl ?_))
  rw [acceptPut, nearStrays_eq]
  split
  · next hnew =>
    rw [hnew]
    rfl
  · next e hold =>
    rw [hold]
    rfl

/-- R131, check 2: a new id and a full list. -/
theorem serveElementPut_noRoom (hfull : PutFull (s.elements g) id.toNat) :
    serveElementPut (putPayload leg id kind d flag) s = (s, refuse .noRoom) :=
  (serveElementPut_inRange hd hleg hid hkind hflag).trans <| if_pos (putFull_iff.mpr hfull)

variable (hroom : ¬ PutFull (s.elements g) id.toNat)
include hroom

/-- R131, check 3: the distance of another element. -/
theorem serveElementPut_duplicate (htaken : PutTaken (otherElements (s.elements g) id.toNat) d) :
    serveElementPut (putPayload leg id kind d flag) s = (s, refuse .duplicate) :=
  (serveElementPut_inRange hd hleg hid hkind hflag).trans <| (if_neg (mt putFull_iff.mp hroom)).trans <|
    if_pos (putTaken_iff.mpr htaken)

variable (hfree : ¬ PutTaken (otherElements (s.elements g) id.toNat) d)
include hfree

/-- R131, check 4: a place beyond the end of line, or an end of line that is not the last. -/
theorem serveElementPut_breaks (hbreaks : PutBreaks (otherElements (s.elements g) id.toNat) k.code d) :
    serveElementPut (putPayload leg id kind d flag) s = (s, refuse .badValue) :=
  (serveElementPut_inRange hd hleg hid hkind hflag).trans <| (if_neg (mt putFull_iff.mp hroom)).trans <|
    (if_neg (mt putTaken_iff.mp hfree)).trans <| if_pos (breaksLine_iff.mpr hbreaks)

/-- R131: a put that passes the checks is accepted. -/
theorem serveElementPut_accepted (hkeeps : ¬ PutBreaks (otherElements (s.elements g) id.toNat) k.code d) :
    serveElementPut (putPayload leg id kind d flag) s = acceptPut g id.toNat k d flag.toNat s :=
  (serveElementPut_inRange hd hleg hid hkind hflag).trans <| (if_neg (mt putFull_iff.mp hroom)).trans <|
    (if_neg (mt putTaken_iff.mp hfree)).trans <| if_neg (mt breaksLine_iff.mp hkeeps)

end

/-- ELEMENT_PUT on a ready part, by what the map answers (R8). -/
theorem exec_elementPut {n d : Nat} {leg id kind flag tag : Byte} {s t : State} {st : Status} {fields : List Byte}
    (h : Ready s) (hs : serveElementPut (putPayload leg id kind d flag) (s.after n).holding = (t, ⟨st, fields, false⟩))
    (hmsg : t.msg = (s.after n).holding.msg) (htime : t.time = (s.after n).time) :
    exec (.elementPut n tag ([leg, id, kind] ++ le 2 d ++ [flag])) s = .next ((t.setMsg s.msg).replied 0x20 tag st fields) :=
  requestArrives_served h rfl rfl hs hmsg htime

/-- Settles O44: ELEMENT_PUT's cases in the order of its checks; the list is parted at the distance of the new record. -/
theorem elementPutPlacesItsElement : Obligations.ElementPutPlacesItsElement := by
  unfold Obligations.ElementPutPlacesItsElement
  intro n d leg id kind flag tag s hready hd u c
  refine ⟨fun hrange => exec_elementPut hready (serveElementPut_outOfRange hrange) rfl rfl, ?_⟩
  intro g hleg hid hkind hflag es others full taken breaks
  obtain ⟨k, hk, hcode⟩ := elementKindOf_of_le hkind
  have hbreaks : breaks ↔ PutBreaks others k.code d := by rw [hcode]; rfl
  refine ⟨fun hfull => exec_elementPut hready (serveElementPut_noRoom (s := u.holding) hd hleg hid hk hflag hfull) rfl rfl,
    fun hroom htaken => exec_elementPut hready
      (serveElementPut_duplicate (s := u.holding) hd hleg hid hk hflag hroom htaken) rfl rfl,
    fun hroom hfree hbad => exec_elementPut hready
      (serveElementPut_breaks (s := u.holding) hd hleg hid hk hflag hroom hfree (hbreaks.mp hbad)) rfl rfl,
    fun hroom hfree hkeeps hlist => ?_⟩
  obtain ⟨before, after, hothers, hbefore, hafter, hinsert⟩ :=
    insertElement_split (es := others) (hlist.ascending.filter _) hfree
  have hserve := serveElementPut_accepted (s := u.holding) hd hleg hid hk hflag hroom hfree (mt hbreaks.mpr hkeeps)
  rw [acceptPut, show otherElements (u.holding.elements g) id.toNat = others from rfl,
    hinsert _ (settled flag.toNat) rfl (settled_nominal _)] at hserve
  exact ⟨before, after, .fresh id.toNat k (decide (flag.toNat = 1)) d, _, _, hothers, hbefore, hafter, hcode, rfl,
    Strays.clear_cleared _ s.stray, exec_elementPut hready hserve rfl rfl⟩

end Sys2Proof.Machine
end

section
/-! PROOFS. Matching: the peak nearest a distance, and the elements' turns at the peaks (R146, R147). -/

namespace Sys2Proof.Machine

open Sys2Proof

/-! ### The peak nearest a distance (R123, R146) -/

/-- Peak `p` goes before `q` at a target distance: nearer, or as near and of larger amplitude, or of smaller k besides. -/
def GoesBefore (target : Nat) (dist : Peak → Nat) (p q : Peak) : Prop :=
  distanceBetween (dist p) target < distanceBetween (dist q) target ∨
    (distanceBetween (dist p) target = distanceBetween (dist q) target ∧
      (q.amplitude < p.amplitude ∨ (q.amplitude = p.amplitude ∧ p.k ≤ q.k)))

section

variable {target reach : Nat} {dist : Peak → Nat} {p q r : Peak} {ps : List Peak}

theorem GoesBefore.refl (p : Peak) : GoesBefore target dist p p := .inr ⟨rfl, .inr ⟨rfl, le_rfl⟩⟩

theorem GoesBefore.trans (hpq : GoesBefore target dist p q) (hqr : GoesBefore target dist q r) :
    GoesBefore target dist p r := by
  unfold GoesBefore at *
  omega

/-- A peak that the search takes in place of another goes before it. -/
theorem goesBefore_of_nearer (h : nearer target p (dist p) q (dist q) = true) : GoesBefore target dist p q := by
  simp only [nearer, Bool.or_eq_true, Bool.and_eq_true, decide_eq_true_eq, beq_iff_eq] at h
  unfold GoesBefore
  omega

/-- The peak that the search keeps goes before one offered later, whose k is no smaller. -/
theorem goesBefore_of_not_nearer (h : ¬ nearer target p (dist p) q (dist q) = true) (hk : q.k ≤ p.k) :
    GoesBefore target dist q p := by
  simp only [nearer, Bool.or_eq_true, Bool.and_eq_true, decide_eq_true_eq, beq_iff_eq] at h
  unfold GoesBefore
  omega

/-- The peak offered last is judged against the nearest of the peaks before it. -/
theorem nearestPeak_concat (ps : List Peak) (p : Peak) : nearestPeak target reach dist (ps ++ [p]) =
    if distanceBetween (dist p) target ≤ reach then
      match nearestPeak target reach dist ps with
      | none => some p
      | some b => if nearer target p (dist p) b (dist b) then some p else some b
    else nearestPeak target reach dist ps :=
  List.foldl_concat ..

/-- What a search near a distance answers: nothing when no peak is within reach, or the first of those that are. -/
def FindsNearest (target reach : Nat) (dist : Peak → Nat) (ps : List Peak) : Option Peak → Prop
  | none => ∀ q ∈ ps, reach < distanceBetween (dist q) target
  | some p => (p ∈ ps ∧ distanceBetween (dist p) target ≤ reach) ∧
      ∀ q ∈ ps, distanceBetween (dist q) target ≤ reach → GoesBefore target dist p q

/-- R146: of peaks in ascending k the search takes the nearest within reach, ties by larger amplitude and then smaller k. -/
theorem nearestPeak_findsNearest (hps : ps.Pairwise fun p q => p.k < q.k) :
    FindsNearest target reach dist ps (nearestPeak target reach dist ps) := by
  induction ps using List.reverseRecOn with
  | nil => simp [nearestPeak, FindsNearest]
  | append_singleton ps p ih =>
    obtain ⟨hinit, -, hlast⟩ := List.pairwise_append.mp hps
    specialize ih hinit
    rw [nearestPeak_concat]
    generalize nearestPeak target reach dist ps = best at ih ⊢
    obtain hnear | hfar := le_or_gt (distanceBetween (dist p) target) reach
    · rw [if_pos hnear]
      cases best with
      | none =>
        refine ⟨⟨by simp, hnear⟩, List.forall_mem_append.mpr ⟨fun q hq hreach => ?_, ?_⟩⟩
        · exact absurd hreach (Nat.not_le.mpr (ih q hq))
        · exact List.forall_mem_singleton.mpr fun _ => .refl p
      | some b =>
        obtain ⟨⟨hb, hbreach⟩, hbest⟩ := ih
        dsimp only
        split
        case isTrue hnearer =>
          have hpb : GoesBefore target dist p b := goesBefore_of_nearer hnearer
          refine ⟨⟨by simp, hnear⟩, List.forall_mem_append.mpr ⟨fun q hq hreach => hpb.trans (hbest q hq hreach), ?_⟩⟩
          exact List.forall_mem_singleton.mpr fun _ => .refl p
        case isFalse hstays =>
          have hbp : GoesBefore target dist b p := goesBefore_of_not_nearer hstays (hlast b hb p (by simp)).le
          exact ⟨⟨List.mem_append_left _ hb, hbreach⟩,
            List.forall_mem_append.mpr ⟨hbest, List.forall_mem_singleton.mpr fun _ => hbp⟩⟩
    · rw [if_neg (Nat.not_le.mpr hfar)]
      cases best with
      | none => exact List.forall_mem_append.mpr ⟨ih, List.forall_mem_singleton.mpr hfar⟩
      | some b =>
        obtain ⟨⟨hb, hbreach⟩, hbest⟩ := ih
        exact ⟨⟨List.mem_append_left _ hb, hbreach⟩, List.forall_mem_append.mpr
          ⟨hbest, List.forall_mem_singleton.mpr fun hreach => absurd hreach (Nat.not_le.mpr hfar)⟩⟩

end

/-! ### The peaks taken so far (R146, R147) -/

/-- The k of the peaks that the turns in `ms` have taken. -/
def takenBins (ms : List (Element × Option Peak)) : List Nat := (ms.filterMap (·.2)).map (·.k)

/-- The peaks that no turn in `ms` has taken. -/
def untaken (ms : List (Element × Option Peak)) (ps : List Peak) : List Peak :=
  ps.filter fun p => !(takenBins ms).contains p.k

/-- The peak an element takes at its turn, of those that are left. -/
def Element.takes (tolerance : Nat) (e : Element) (ps : List Peak) : Option Peak :=
  nearestPeak e.nominal tolerance (fun p => p.distance.getD 0) ps

section

variable {tolerance : Nat} {e : Element} {es : List Element} {p : Peak} {ps : List Peak}
  {m : Option Peak} {ms before after : List (Element × Option Peak)}

@[simp] theorem untaken_nil : untaken [] ps = ps := by simp [untaken, takenBins]

theorem takenBins_append : takenBins (before ++ after) = takenBins before ++ takenBins after := by simp [takenBins]

/-- The peaks that two runs of turns leave are those the second leaves of what the first left. -/
theorem untaken_append : untaken (before ++ after) ps = untaken after (untaken before ps) := by
  rw [untaken, untaken, untaken, List.filter_filter]
  exact List.filter_congr fun x _ => by simp [takenBins_append, Bool.and_comm]

theorem untaken_cons {b : Element × Option Peak} : untaken (b :: after) ps = untaken after (untaken [b] ps) :=
  untaken_append (before := [b])

/-- What is left after a run of turns is still in ascending k. -/
theorem untaken_ascending (hps : ps.Pairwise fun p q => p.k < q.k) : (untaken ms ps).Pairwise fun p q => p.k < q.k :=
  hps.filter _

/-! ### The turns (R146, R147) -/

/-- The first element takes its peak, and the others take their turns at what it leaves. -/
theorem matchElements_cons : matchElements tolerance (e :: es) ps =
    ((e, e.takes tolerance ps) :: (matchElements tolerance es (untaken [(e, e.takes tolerance ps)] ps)).1,
      (matchElements tolerance es (untaken [(e, e.takes tolerance ps)] ps)).2) := by
  cases h : e.takes tolerance ps with
  | none =>
    unfold Element.takes at h
    simp [matchElements, h, untaken, takenBins]
  | some p =>
    have hleft : untaken [(e, some p)] ps = ps.filter fun x => x.k != p.k :=
      List.filter_congr fun x _ => by simp [takenBins, bne, Bool.beq_eq_decide_eq]
    unfold Element.takes at h
    simp only [matchElements, h, hleft]

/-- Every element has its turn, in list order. -/
theorem matchElements_elements (tolerance : Nat) (es : List Element) (ps : List Peak) :
    (matchElements tolerance es ps).1.map (·.1) = es := by
  induction es generalizing ps with
  | nil => rfl
  | cons e es ih => simp [matchElements_cons, ih]

/-- R147: the peaks left over are those no turn took. -/
theorem matchElements_left (tolerance : Nat) (es : List Element) (ps : List Peak) :
    (matchElements tolerance es ps).2 = untaken (matchElements tolerance es ps).1 ps := by
  induction es generalizing ps with
  | nil => simp [matchElements]
  | cons e es ih =>
    rw [matchElements_cons, ih]
    exact untaken_cons.symm

/-- R146: each turn takes from the peaks that the turns before it left. -/
theorem matchElements_turn (h : (matchElements tolerance es ps).1 = before ++ (e, m) :: after) :
    m = e.takes tolerance (untaken before ps) := by
  induction es generalizing ps before with
  | nil => simp [matchElements] at h
  | cons x es ih =>
    rw [matchElements_cons] at h
    cases before with
    | nil =>
      obtain ⟨⟨rfl, rfl⟩, -⟩ := by simpa using h
      rw [untaken_nil]
    | cons b before =>
      obtain ⟨rfl, hrest⟩ := List.cons.inj h
      rw [untaken_cons]
      exact ih hrest

/-! ### Peaks in ascending k -/

/-- R146: what an element takes at its turn is the nearest of the peaks within its tolerance. -/
theorem Element.takes_findsNearest (hps : ps.Pairwise fun p q => p.k < q.k) :
    FindsNearest e.nominal tolerance (fun p => p.distance.getD 0) ps (e.takes tolerance ps) :=
  nearestPeak_findsNearest hps

/-- A peak that is taken is one of those offered. -/
theorem Element.takes_mem (hps : ps.Pairwise fun p q => p.k < q.k) (h : e.takes tolerance ps = some p) : p ∈ ps := by
  have hfinds := e.takes_findsNearest (tolerance := tolerance) hps
  rw [h] at hfinds
  exact hfinds.1.1

/-- The turns take only peaks they are offered. -/
theorem offered_of_mem_takenBins (hps : ps.Pairwise fun p q => p.k < q.k) {k : Nat}
    (hk : k ∈ takenBins (matchElements tolerance es ps).1) : ∃ p ∈ ps, p.k = k := by
  obtain ⟨p, ⟨e, hturn⟩, rfl⟩ : ∃ p, (∃ e, (e, some p) ∈ (matchElements tolerance es ps).1) ∧ p.k = k := by
    simpa [takenBins] using hk
  obtain ⟨before, after, hsplit⟩ := List.append_of_mem hturn
  have hmem : p ∈ untaken before ps := Element.takes_mem (untaken_ascending hps) (matchElements_turn hsplit).symm
  exact ⟨p, List.mem_of_mem_filter hmem, rfl⟩

/-- No peak is taken twice. -/
theorem takenBins_nodup (hps : ps.Pairwise fun p q => p.k < q.k) : (takenBins (matchElements tolerance es ps).1).Nodup := by
  induction es generalizing ps with
  | nil => simp [matchElements, takenBins]
  | cons e es ih =>
    rw [matchElements_cons, ← List.singleton_append, takenBins_append]
    refine List.nodup_append'.mpr ⟨?_, ih (untaken_ascending hps), fun k hfirst hrest => ?_⟩
    · cases e.takes tolerance ps <;> simp [takenBins]
    · obtain ⟨p, hp, rfl⟩ := offered_of_mem_takenBins (untaken_ascending hps) hrest
      have hopen := (List.mem_filter.mp hp).2
      simp [hfirst] at hopen

end

/-- Settles O48: each turn is the search of `nearestPeak` among the peaks the earlier turns left. -/
theorem elementsTakeTheirNearestPeaks : Obligations.ElementsTakeTheirNearestPeaks := by
  unfold Obligations.ElementsTakeTheirNearestPeaks
  intro tolerance es ps hps ms off
  refine ⟨matchElements_elements tolerance es ps, takenBins_nodup hps, matchElements_left tolerance es ps, ?_⟩
  intro before e m after hsplit candidates
  have hfinds : FindsNearest e.nominal tolerance (fun p => p.distance.getD 0) (untaken before ps) m :=
    matchElements_turn hsplit ▸ e.takes_findsNearest (untaken_ascending hps)
  have hcandidate (q : Peak) : q ∈ candidates ↔ q ∈ untaken before ps ∧ off e q ≤ tolerance := by
    simp [candidates, untaken, takenBins, and_assoc]
  refine ⟨?_, ?_⟩
  · rintro rfl
    refine List.eq_nil_iff_forall_not_mem.mpr fun q hq => ?_
    obtain ⟨hleft, hreach⟩ := (hcandidate q).mp hq
    exact absurd hreach (Nat.not_le.mpr (hfinds q hleft))
  · rintro p rfl
    obtain ⟨hp, hfirst⟩ := hfinds
    refine ⟨(hcandidate p).mpr hp, fun q hq => ?_⟩
    obtain ⟨hleft, hreach⟩ := (hcandidate q).mp hq
    exact hfirst q hleft hreach

end Sys2Proof.Machine
end

section
/-! PROOFS. The condition of an element and the probe level of a leg after a DONE sweep (R70, R71, R148 to R154). -/

namespace Sys2Proof.Machine

open Sys2Proof

/-! ### Condition (R148 to R154) -/

section

variable {b c : Nat} {time limit : Nat} {p : Peak} {e : Element}

/-- R148, R150: a BASELINE sweep takes the amplitude for the baseline. -/
theorem Element.matched_baselineSweep : e.matched true time p = { e with
    measured := p.distance, amplitude := some p.amplitude, lastSeen := some time, misses := 0,
    baseline := some p.amplitude, state := .nominal } := rfl

/-- R148, R154: an element without a baseline becomes UNBASED. -/
theorem Element.matched_unbased (hb : e.baseline = none) : e.matched false time p = { e with
    measured := p.distance, amplitude := some p.amplitude, lastSeen := some time, misses := 0, state := .unbased } := by
  simp [Element.matched, hb]

/-- R148, R151 to R153: an element with a baseline is classified. -/
theorem Element.matched_classified (hb : e.baseline = some b) : e.matched false time p = { e with
    measured := p.distance, amplitude := some p.amplitude, lastSeen := some time, misses := 0,
    state := classify b p.amplitude e.state } := by
  simp [Element.matched, hb]

/-- R149: a miss is counted up to 15, and makes the element MISSING from the limit on. -/
theorem Element.missed_eq : e.missed limit = { e with
    misses := min 15 (e.misses + 1), state := if limit ≤ min 15 (e.misses + 1) then .missing else e.state } := rfl

/-- Half and twice the baseline, as the tables write them in sixteenths. -/
theorem halfOrTwice_iff : 32 * b ≤ 16 * c ∨ 16 * c ≤ 8 * b ↔ 2 * b ≤ c ∨ 2 * c ≤ b := by omega

/-- R151. -/
theorem classify_nominal : classify b c .nominal = if 2 * b ≤ c ∨ 2 * c ≤ b then .faulty
    else if 23 * b ≤ 16 * c ∨ 16 * c ≤ 11 * b then .watch else .nominal := by
  simp only [classify, halfOrTwice_iff]

/-- R152. -/
theorem classify_watch : classify b c .watch = if 2 * b ≤ c ∨ 2 * c ≤ b then .faulty
    else if 13 * b < 16 * c ∧ 16 * c < 20 * b then .nominal else .watch := by
  simp only [classify, halfOrTwice_iff]

/-- R153. -/
theorem classify_faulty : classify b c .faulty = if 13 * b < 16 * c ∧ 16 * c < 20 * b then .nominal
    else if 10 * b < 16 * c ∧ 16 * c < 28 * b then .watch else .faulty := rfl

end

/-- The bands of 9.6 for a baseline of 1,000, from NOMINAL. -/
theorem bands_nominal (c : Nat) : (classify 1000 c .nominal = .nominal ↔ 688 ≤ c ∧ c ≤ 1437) ∧
    (classify 1000 c .nominal = .faulty ↔ c ≤ 500 ∨ 2000 ≤ c) := by
  rw [classify_nominal]
  split_ifs <;> simp <;> omega

/-- The bands of 9.6 for a baseline of 1,000, from WATCH. -/
theorem bands_watch (c : Nat) : (classify 1000 c .watch = .nominal ↔ 813 ≤ c ∧ c ≤ 1249) ∧
    (classify 1000 c .watch = .faulty ↔ c ≤ 500 ∨ 2000 ≤ c) := by
  rw [classify_watch]
  split_ifs <;> simp <;> omega

/-- The bands of 9.6 for a baseline of 1,000, from FAULTY. -/
theorem bands_faulty (c : Nat) : (classify 1000 c .faulty = .nominal ↔ 813 ≤ c ∧ c ≤ 1249) ∧
    (classify 1000 c .faulty = .faulty ↔ c ≤ 625 ∨ 1750 ≤ c) := by
  rw [classify_faulty]
  split_ifs <;> simp <;> omega

/-! ### Probe-level control (R70, R71) -/

section

variable {t : Settings} {used faults level a : Nat}

/-- A weak anchor is one more fault only at the highest level. -/
theorem doneSweep_weak (ha : a < t.aLo) : levelAfterDone t (.matched a) level = min 63 (level + t.upStep) ∧
    faultsAfterDone t (.matched a) used faults = if used = 63 then min 15 (faults + 1) else 0 := by
  simp [levelAfterDone, faultsAfterDone, levelUp, satSucc, ha]

/-- An anchor between the two amplitudes holds the level. -/
theorem doneSweep_held (hlo : t.aLo ≤ a) (hhi : a ≤ t.aHi) : levelAfterDone t (.matched a) level = level ∧
    faultsAfterDone t (.matched a) used faults = 0 := by
  simp [levelAfterDone, faultsAfterDone, Nat.not_lt.mpr hlo, Nat.not_lt.mpr hhi]

/-- A strong anchor takes the level a step down. -/
theorem doneSweep_strong (hlo : t.aLo ≤ a) (ha : t.aHi < a) :
    levelAfterDone t (.matched a) level = level - t.downStep ∧ faultsAfterDone t (.matched a) used faults = 0 := by
  simp [levelAfterDone, faultsAfterDone, levelDown, Nat.not_lt.mpr hlo, ha]

end

/-- Settles O49: the cases of R148 to R154, the bands they give for a baseline of 1,000, and the anchor's cases of R70 and R71. -/
theorem elementsAndLevelsAreJudged : Obligations.ElementsAndLevelsAreJudged := by
  unfold Obligations.ElementsAndLevelsAreJudged
  refine ⟨fun time p e => ⟨Element.matched_baselineSweep, Element.matched_unbased, fun b => Element.matched_classified⟩,
    fun limit e => Element.missed_eq, fun b c => ⟨classify_nominal, rfl, classify_watch, classify_faulty⟩,
    fun c => ?_, fun t used faults level a hle => ?_⟩
  · obtain ⟨hnominal, hfaulty⟩ := bands_nominal c
    obtain ⟨hwatch, hwatchFaulty⟩ := bands_watch c
    exact ⟨hnominal, hfaulty, hwatch, hwatchFaulty, bands_faulty c⟩
  · exact ⟨⟨rfl, rfl⟩, ⟨rfl, rfl⟩, doneSweep_weak, doneSweep_held, fun ha => doneSweep_strong (hle.trans ha.le) ha⟩

end Sys2Proof.Machine
end

section
/-! PROOFS. A feed of the stray table: the way it takes, what it writes there, and the drop (R166 to R172); and ageing (R173). -/

namespace Sys2Proof.Machine

open Sys2Proof

/-! ### The way a search takes (R167, R170) -/

/-- The four numbers parted at one of them. -/
theorem allLegs_split (w : Fin 4) : allLegs = allLegs.filter (· < w) ++ w :: allLegs.filter (w < ·) := by
  revert w
  decide

section
variable {v : StraySet} {p : StrayEntry → Bool} {w : Fin 4}

/-- The search finds the lowest way that satisfies `p`. -/
theorem StraySet.findWay_eq_some (hw : p (v.ways.get w) = true) (hlower : ∀ x < w, p (v.ways.get x) = false) :
    v.findWay p = some w :=
  List.find?_eq_some_iff_append.mpr
    ⟨hw, _, _, allLegs_split w, fun x hx => by simp [hlower x (by simpa using (List.mem_filter.mp hx).2)]⟩

/-- The search finds nothing when no way satisfies `p`. -/
theorem StraySet.findWay_eq_none (h : ∀ w, p (v.ways.get w) = false) : v.findWay p = none :=
  List.find?_eq_none.mpr fun w _ => by simp [h w]

end

/-! ### The victim (R171) -/

section
variable {v : StraySet} {w : Fin 4}

/-- The model's order of the ways is that of the table. -/
theorem StraySet.victimOrder_eq_table (v : StraySet) : v.victimOrder = victimTable v.pairBit v.lowBit v.highBit := by
  obtain ⟨ways, pair, low, high⟩ := v
  cases pair <;> cases low <;> cases high <;> rfl

/-- The victim is the first CANDIDATE in the order of the table. -/
theorem StraySet.victim_eq_some {before after : List (Fin 4)}
    (horder : victimTable v.pairBit v.lowBit v.highBit = before ++ w :: after)
    (hbefore : ∀ x ∈ before, (v.ways.get x).state = .confirmed) (hw : (v.ways.get w).state = .candidate) :
    v.victim = some w :=
  List.find?_eq_some_iff_append.mpr
    ⟨by simp [hw], before, after, v.victimOrder_eq_table.trans horder, fun x hx => by simp [hbefore x hx]⟩

/-- A set of CONFIRMED entries has no victim. -/
theorem StraySet.victim_eq_none (h : ∀ w, (v.ways.get w).state = .confirmed) : v.victim = none :=
  List.find?_eq_none.mpr fun w _ => by simp [h w]

/-- A miss fills the lowest way that is not valid (R170). -/
theorem StraySet.fillWay_invalid (hw : (v.ways.get w).valid = false) (hlower : ∀ x < w, (v.ways.get x).valid = true) :
    v.fillWay = some w := by
  simp only [StraySet.fillWay,
    StraySet.findWay_eq_some (p := fun e => !e.valid) (by rw [hw]; rfl) fun x hx => by rw [hlower x hx]; rfl]

/-- In a set of valid entries a miss takes the victim (R171). -/
theorem StraySet.fillWay_full (h : ∀ w, (v.ways.get w).valid = true) : v.fillWay = v.victim := by
  simp only [StraySet.fillWay, StraySet.findWay_eq_none (p := fun e => !e.valid) fun w => by rw [h w]; rfl]

end

/-! ### What a hit and a fill write (R166, R168 to R170) -/

/-- The replacement bits after a use, by the table of R166. -/
theorem StraySet.use_bits (w : Fin 4) (v : StraySet) :
    ((v.use w).pairBit, (v.use w).lowBit, (v.use w).highBit) = bitsAfterUse v w := by
  fin_cases w <;> rfl

/-- A judgement for confirmation changes the state alone (R169). -/
theorem StrayEntry.judge_eq (c : Nat) (e : StrayEntry) :
    let now := decide (e.state = .candidate ∧ c ≤ e.sightings)
    e.judge c = ({ e with state := if now then .confirmed else e.state }, now) := by
  obtain ⟨hstate, hcount, hjudge⟩ | ⟨hnot, hjudge⟩ := e.judge_cases c
  · simp [hjudge, hstate, hcount]
  · simp [hjudge, hnot]

/-- An entry placed in a set of the table. -/
theorem Strays.place_placed {t : Strays} {i : Nat} (hi : i < t.sets.length) (w : Fin 4) (c : Nat) (e : StrayEntry) :
    PlacedStray t i w c e (t.place i w c e) := by
  simp only [Strays.place, StrayEntry.judge_eq]
  refine ⟨(t.setSet_frame ..).1, (t.setSet_frame ..).2, fun j hj => t.set_setSet_ne i j _ hj, ?_, ?_, rfl⟩
  · rw [t.set_setSet i _ hi, StraySet.use_ways]
  · rw [t.set_setSet i _ hi, StraySet.use_bits]
    fin_cases w <;> rfl

/-! ### The feed (R167 to R172) -/

section
variable {t : Strays} {g : LegId} {d a time c : Nat} {w : Fin 4}

/-- A feed of a tag that a way holds hits that way (R168). -/
theorem Strays.feed_hit (h : (t.set (d / 32 % 16)).findWay (StrayEntry.hasTag g (d / 32)) = some w) :
    t.feed g d a time c = t.place (d / 32 % 16) w c (((t.set (d / 32 % 16)).ways.get w).hit d a time) := by
  simp only [Strays.feed, cellOf, setOf, h]

variable (hmiss : ∀ w, ((t.set (d / 32 % 16)).ways.get w).hasTag g (d / 32) = false)
include hmiss

/-- A miss writes a new entry into the way it fills (R170). -/
theorem Strays.feed_fill (h : (t.set (d / 32 % 16)).fillWay = some w) :
    t.feed g d a time c = t.place (d / 32 % 16) w c (.fresh g d a time) := by
  simp only [Strays.feed, cellOf, setOf, StraySet.findWay_eq_none hmiss, h]

/-- A miss with no way to fill is dropped and counted (R172). -/
theorem Strays.feed_drop (h : (t.set (d / 32 % 16)).fillWay = none) :
    t.feed g d a time c = ({ t with drops := t.drops.set g (min 65535 (t.drops.get g + 1)) }, none) := by
  simp only [Strays.feed, cellOf, setOf, StraySet.findWay_eq_none hmiss, h, satSucc]

end

/-- Settles O47: each outcome of a feed by the way its search takes, what is written there by `Strays.place_placed`; and the
ageing by `ageStrays_aged`. -/
theorem strayFeedsHitFillOrDrop : Obligations.StrayFeedsHitFillOrDrop := by
  unfold Obligations.StrayFeedsHitFillOrDrop
  refine ⟨?_, fun g fedCells s => ⟨_, rfl, ageStrays_aged g fedCells s⟩⟩
  intro t g d a time cc hsets cell i v fed fresh
  have hi : i < t.sets.length := hsets ▸ Nat.mod_lt cell (by decide)
  refine ⟨fun w htag hlower => ?_, fun hmiss => ?_⟩
  · have hhit : fed = t.place i w cc ((v.ways.get w).hit d a time) :=
      Strays.feed_hit (StraySet.findWay_eq_some htag hlower)
    rw [hhit]
    exact Strays.place_placed hi w cc _
  have hfill : ∀ w, v.fillWay = some w → PlacedStray t i w cc fresh fed := by
    intro w hw
    have hplaced : fed = t.place i w cc fresh := Strays.feed_fill hmiss hw
    rw [hplaced]
    exact Strays.place_placed hi w cc fresh
  refine ⟨fun w hw hlower => hfill w (StraySet.fillWay_invalid hw hlower), fun hfull => ⟨?_, fun hall => ?_⟩⟩
  · intro before after w horder hbefore hw
    exact hfill w ((StraySet.fillWay_full hfull).trans (StraySet.victim_eq_some horder hbefore hw))
  · exact Strays.feed_drop hmiss ((StraySet.fillWay_full hfull).trans (StraySet.victim_eq_none hall))

end Sys2Proof.Machine
end

section
/-! PROOFS. STRAY_CLEAR: its operands, its checks in order, and the entries it invalidates (R174, R176). -/

namespace Sys2Proof.Machine

open Sys2Proof

/-! ### The operands (R176, R201) -/

/-- The payload of STRAY_CLEAR. -/
def clearPayload (leg scope : Byte) (cell : Nat) (option : Byte) : List Byte := [leg, scope] ++ le 2 cell ++ [option]

section
variable (leg scope option : Byte) (cell : Nat)

@[simp] theorem field_clear_leg : field (clearPayload leg scope cell option) 0 1 = leg.toNat := field_first ..

@[simp] theorem field_clear_scope : field (clearPayload leg scope cell option) 1 1 = scope.toNat := field_second ..

@[simp] theorem field_clear_option : field (clearPayload leg scope cell option) 4 1 = option.toNat := Nat.add_zero _

variable {cell} in
theorem field_clear_cell (h : cell < 65536) : field (clearPayload leg scope cell option) 2 2 = cell :=
  field_le (before := [leg, scope]) rfl rfl h

end

/-- An operand besides the leg outside its range. -/
def ClearOutOfRange (scope cell option : Nat) : Prop := 1 < scope ∨ (scope = 0 ∧ 2047 < cell) ∨ 1 < option

/-! ### The entries named -/

/-- Whether a named entry goes: a CANDIDATE always, a CONFIRMED one only when the option includes it. -/
def clearable (option : Nat) : StrayEntry → Bool := fun e => decide (e.state = .candidate ∨ option = 1)

/-- The model's test of the same. -/
theorem clearable_eq (option : Nat) (e : StrayEntry) : (e.state == .candidate || option == 1) = clearable option e := by
  simp [clearable, Bool.decide_or, beq_eq_decide]

/-- The entries with a tag (R164). -/
theorem StrayEntry.hasTag_iff {g : LegId} {cell : Nat} {e : StrayEntry} :
    e.hasTag g cell = true ↔ e.valid = true ∧ e.leg = g ∧ e.cell = cell := by
  simp [StrayEntry.hasTag, and_assoc]

/-- What is cleared depends on the valid entries alone. -/
theorem ClearedStrays.congr {p q : StrayEntry → Bool} {old new : Strays} {count : Nat}
    (h : ClearedStrays p old new count) (hpq : ∀ e : StrayEntry, (e.valid && p e) = (e.valid && q e)) :
    ClearedStrays q old new count := by
  simpa only [ClearedStrays, hpq] using h

section
variable {s : State} {g : LegId} {cell : Nat} {w : Fin 4} (hinv : StrayInv s)
  (hw : ((s.stray.set (cell % 16)).ways.get w).hasTag g cell = true)
include hinv hw

/-- No other way holds an entry with the tag (R164). -/
theorem StrayInv.hasTag_other {i : Nat} {x : Fin 4} (hi : i < 16) (hne : ¬ (i = cell % 16 ∧ x = w)) :
    ((s.stray.set i).ways.get x).hasTag g cell = false := by
  refine Bool.eq_false_iff.mpr fun hx => hne ?_
  obtain ⟨hvalid, hleg, hcell⟩ := StrayEntry.hasTag_iff.mp hx
  obtain ⟨hvalid', hleg', hcell'⟩ := StrayEntry.hasTag_iff.mp hw
  obtain rfl : i = cell % 16 := hcell ▸ (hinv.entries i hi x hvalid).place.symm
  exact ⟨rfl, hinv.tags _ hi x w hvalid hvalid' (hleg.trans hleg'.symm) (hcell.trans hcell'.symm)⟩

/-- The search for a tag finds the entry that has it. -/
theorem StrayInv.find_tagged : s.stray.find g cell = some ((s.stray.set (cell % 16)).ways.get w) := by
  have hfirst : (s.stray.set (cell % 16)).findWay (StrayEntry.hasTag g cell) = some w :=
    StraySet.findWay_eq_some hw fun x hx => hinv.hasTag_other hw (Nat.mod_lt cell (by decide)) fun h => hx.ne h.2
  simp only [Strays.find, setOf, hfirst, Option.map_some]

/-- The entries with the tag that satisfy `q` are one or none. -/
theorem StrayInv.count_tagged (q : StrayEntry → Bool) : s.stray.count (fun x => x.hasTag g cell && q x) =
    if q ((s.stray.set (cell % 16)).ways.get w) then 1 else 0 := by
  have hi : cell % 16 < 16 := Nat.mod_lt cell (by decide)
  rw [Strays.count_eq_sum, Finset.sum_eq_single_of_mem (cell % 16) (Finset.mem_range.mpr hi),
    Finset.sum_eq_single_of_mem w (Finset.mem_univ w)]
  · simp [hw, (StrayEntry.hasTag_iff.mp hw).1]
  · intro x _ hne
    simp [hinv.hasTag_other hw hi fun h => hne h.2]
  · intro i hmem hne
    refine Finset.sum_eq_zero fun x _ => ?_
    simp [hinv.hasTag_other (x := x) hw (Finset.mem_range.mp hmem) fun h => hne h.1]

/-- Clearing the entry with the tag, named as the statements name it. -/
theorem StrayInv.cleared_tagged (q : StrayEntry → Bool) :
    ClearedStrays (fun x => decide (x.leg = g) && decide (x.cell = cell) && q x) s.stray
      (s.stray.clear fun x => x.hasTag g cell && q x).1 (if q ((s.stray.set (cell % 16)).ways.get w) then 1 else 0) := by
  rw [← hinv.count_tagged hw q]
  refine (s.stray.clear_cleared _).congr fun e => ?_
  cases hvalid : e.valid <;> simp [StrayEntry.hasTag, hvalid, beq_eq_decide]

end

/-! ### STRAY_CLEAR (R176) -/

section
variable {leg scope option : Byte} {cell : Nat} {s : State} (hcell : cell < 65536)
include hcell

/-- R176: an operand outside its range. -/
theorem serveStrayClear_badValue (h : 4 ≤ leg.toNat ∨ ClearOutOfRange scope.toNat cell option.toNat) :
    serveStrayClear (clearPayload leg scope cell option) s = (s, refuse .badValue) := by
  simp only [serveStrayClear, field_clear_leg, field_clear_scope, field_clear_option, field_clear_cell _ _ _ hcell]
  cases hleg : legOf leg.toNat with
  | none => rfl
  | some g => exact if_pos (h.resolve_left fun hnone => by simp [legOf_eq_none hnone] at hleg)

variable {g : LegId} (hleg : leg.toNat = g.val) (hrange : ¬ ClearOutOfRange scope.toNat cell option.toNat)
include hleg hrange

/-- R176, scope ALL: the leg's entries that go. -/
theorem serveStrayClear_leg (hscope : scope.toNat = 1) :
    let cleared := s.stray.clear fun x => decide (x.leg = g) && clearable option.toNat x
    serveStrayClear (clearPayload leg scope cell option) s =
      (s.setStray cleared.1, okReply (u8 cleared.2 ++ [0, 0, 0])) := by
  simp only [serveStrayClear, field_clear_leg, field_clear_scope, field_clear_option, field_clear_cell _ _ _ hcell, hleg,
    legOf_val, clearable_eq]
  exact (if_neg hrange).trans (if_neg (by rw [hscope]; decide))

/-- R176, scope ONE_CELL: no entry has the tag. -/
theorem serveStrayClear_notFound (hscope : scope.toNat = 0)
    (hnone : ∀ w, ((s.stray.set (cell % 16)).ways.get w).hasTag g cell = false) :
    serveStrayClear (clearPayload leg scope cell option) s = (s, refuse .notFound) := by
  have hfind : s.stray.find g cell = none := by
    simp only [Strays.find, setOf, StraySet.findWay_eq_none hnone, Option.map_none]
  simp only [serveStrayClear, field_clear_leg, field_clear_scope, field_clear_option, field_clear_cell _ _ _ hcell, hleg,
    legOf_val, hfind]
  exact (if_neg hrange).trans (if_pos hscope)

/-- R176, scope ONE_CELL: the entry with the tag, which goes or is kept. -/
theorem serveStrayClear_cell (hscope : scope.toNat = 0) {w : Fin 4} (hinv : StrayInv s)
    (hw : ((s.stray.set (cell % 16)).ways.get w).hasTag g cell = true) :
    let e := (s.stray.set (cell % 16)).ways.get w
    serveStrayClear (clearPayload leg scope cell option) s =
      (s.setStray (s.stray.clear fun x => x.hasTag g cell && clearable option.toNat x).1,
        okReply (u8 (if clearable option.toNat e then 1 else 0) ++ [3] ++ u8 e.state.code
          ++ yesNo (clearable option.toNat e))) := by
  simp only [serveStrayClear, field_clear_leg, field_clear_scope, field_clear_option, field_clear_cell _ _ _ hcell, hleg,
    legOf_val, hinv.find_tagged hw, clearable_eq, ← hinv.count_tagged hw (clearable option.toNat)]
  exact (if_neg hrange).trans (if_pos hscope)

end

/-- STRAY_CLEAR on a ready part, by what the stray table answers (R8). -/
theorem exec_strayClear {n cell : Nat} {leg scope option tag : Byte} {s t : State} {st : Status} {fields : List Byte}
    (h : Ready s) (hs : serveStrayClear (clearPayload leg scope cell option) (s.after n).holding = (t, ⟨st, fields, false⟩))
    (hmsg : t.msg = (s.after n).holding.msg) (htime : t.time = (s.after n).time) :
    exec (.strayClear n tag ([leg, scope] ++ le 2 cell ++ [option])) s =
      .next ((t.setMsg s.msg).replied 0x29 tag st fields) :=
  requestArrives_served h rfl rfl hs hmsg htime

/-- Settles O46: STRAY_CLEAR's cases in the order of its checks; what goes is `Strays.clear_cleared`, for one cell
`StrayInv.cleared_tagged`. -/
theorem strayClearInvalidates : Obligations.StrayClearInvalidates := by
  unfold Obligations.StrayClearInvalidates
  intro n cell leg scope option tag s hready hcell u c bad
  refine ⟨fun hbad => exec_strayClear hready (serveStrayClear_badValue hcell hbad) rfl rfl, ?_⟩
  intro g hleg hrange goes
  refine ⟨fun hscope => ⟨_, _, s.stray.clear_cleared _,
      exec_strayClear hready (serveStrayClear_leg (s := u.holding) hcell hleg hrange hscope) rfl rfl⟩,
    fun hscope hnone => exec_strayClear hready
      (serveStrayClear_notFound (s := u.holding) hcell hleg hrange hscope hnone) rfl rfl,
    ?_⟩
  intro w hscope hinv htag e
  have hheld : StrayInv u.holding := ⟨hinv.sets, hinv.entries, hinv.tags, hinv.drops⟩
  exact ⟨_, hinv.cleared_tagged htag goes, exec_strayClear hready
    (serveStrayClear_cell (s := u.holding) hcell hleg hrange hscope hheld htag) rfl rfl⟩

end Sys2Proof.Machine
end

section
/-! PROOFS. The requests of the ingress monitor that change it: INGRESS_SET (R181), SURVEY_OPEN and SURVEY_CLOSE (R193, R194), and
LOG_TAKE (R191). -/

namespace Sys2Proof.Machine

open Sys2Proof

/-! ### Signed fields and the operands of INGRESS_SET (R181, R200, R201) -/

/-- A two's complement number that fits its field is read as it was written. -/
theorem fieldSigned_leSigned {p before after : List Byte} {i n : Nat} {v : Int} (hp : p = before ++ leSigned n v ++ after)
    (hi : before.length = i) (hlo : -(256 ^ n : Nat) ≤ 2 * v) (hhi : 2 * v < (256 ^ n : Nat)) : fieldSigned p i n = v := by
  have hpos : 0 < 256 ^ n := by positivity
  have hlt : v % (256 ^ n : Nat) < (256 ^ n : Nat) := Int.emod_lt_of_pos _ (by exact_mod_cast hpos)
  have hfield : field p i n = (v % (256 ^ n : Nat)).toNat := field_le hp hi (by omega)
  simp only [fieldSigned, hfield]
  generalize 256 ^ n = m at *
  obtain hv | hv := le_or_gt 0 v
  · have hmod : v % m = v := Int.emod_eq_of_lt hv (by omega)
    rw [hmod, if_pos (by omega), Int.toNat_of_nonneg hv]
  · have hmod : v % m = v + m := by rw [← Int.add_emod_right, Int.emod_eq_of_lt (by omega) (by omega)]
    rw [hmod, if_neg (by omega), Int.toNat_of_nonneg (by omega), Int.add_sub_cancel]

/-- The mode that a byte up to 1 names. -/
theorem ingressModeOf_of_le {v : Nat} (h : v ≤ 1) : ingressModeOf v = some (if v = 0 then .absolute else .relative) := by
  interval_cases v <;> rfl

/-- A byte above 1 names no mode. -/
theorem ingressModeOf_eq_none {v : Nat} (h : 1 < v) : ingressModeOf v = none := by
  match v, h with
  | _ + 2, _ => rfl

/-- The payload of INGRESS_SET. -/
def watchPayload (leg mode : Byte) (onset : Int) (margin hysteresis pairing : Byte) : List Byte :=
  [leg, mode] ++ leSigned 2 onset ++ [margin, hysteresis, pairing]

section
variable (leg mode margin hysteresis pairing : Byte) (onset : Int)

@[simp] theorem field_watch_leg : field (watchPayload leg mode onset margin hysteresis pairing) 0 1 = leg.toNat :=
  field_first ..

@[simp] theorem field_watch_mode : field (watchPayload leg mode onset margin hysteresis pairing) 1 1 = mode.toNat :=
  field_second ..

@[simp] theorem field_watch_margin : field (watchPayload leg mode onset margin hysteresis pairing) 4 1 = margin.toNat :=
  Nat.add_zero _

@[simp] theorem field_watch_hysteresis :
    field (watchPayload leg mode onset margin hysteresis pairing) 5 1 = hysteresis.toNat := Nat.add_zero _

@[simp] theorem field_watch_pairing : field (watchPayload leg mode onset margin hysteresis pairing) 6 1 = pairing.toNat :=
  Nat.add_zero _

variable {onset} in
theorem field_watch_onset (hlo : -32768 ≤ onset) (hhi : onset ≤ 32767) :
    fieldSigned (watchPayload leg mode onset margin hysteresis pairing) 2 2 = onset :=
  fieldSigned_leSigned (before := [leg, mode]) rfl rfl (by omega) (by omega)

end

/-- An operand besides the leg outside its range (R181). -/
def WatchOutOfRange (mode : Nat) (onset : Int) (margin hysteresis pairing : Nat) : Prop :=
  1 < mode ∨ onset < -240 ∨ 240 < onset ∨ 120 < margin ∨ 60 < hysteresis ∨ 1 < pairing

/-! ### INGRESS_SET (R181) -/

section
variable {leg mode margin hysteresis pairing : Byte} {onset : Int} {s : State} (hlo : -32768 ≤ onset) (hhi : onset ≤ 32767)
include hlo hhi

/-- R181: an operand outside its range. -/
theorem serveIngressSet_badValue
    (h : 4 ≤ leg.toNat ∨ WatchOutOfRange mode.toNat onset margin.toNat hysteresis.toNat pairing.toNat) :
    serveIngressSet (watchPayload leg mode onset margin hysteresis pairing) s = (s, refuse .badValue) := by
  simp only [serveIngressSet, field_watch_leg, field_watch_mode, field_watch_margin, field_watch_hysteresis,
    field_watch_pairing, field_watch_onset _ _ _ _ _ hlo hhi]
  split
  · next g m a hleg hmode hpairing =>
    obtain h | h | h | h | h | h | h := h
    · simp [legOf_eq_none h] at hleg
    · simp [ingressModeOf_eq_none h] at hmode
    · exact if_pos (.inl h)
    · exact if_pos (.inr (.inl h))
    · exact if_pos (.inr (.inr (.inl h)))
    · exact if_pos (.inr (.inr (.inr h)))
    · simp [yesNoOf_eq_none h] at hpairing
  · rfl

/-- R181: the settings are replaced, and the reply tells the old ones. -/
theorem serveIngressSet_accepted {g : LegId} (hleg : leg.toNat = g.val)
    (hrange : ¬ WatchOutOfRange mode.toNat onset margin.toNat hysteresis.toNat pairing.toNat) :
    serveIngressSet (watchPayload leg mode onset margin hysteresis pairing) s =
      (s.setIngLeg g { s.ingLeg g with settings := ⟨if mode.toNat = 0 then .absolute else .relative, onset, margin.toNat,
          hysteresis.toNat, pairing.toNat = 1⟩ }, okReply (s.ingLeg g).settings.layout) := by
  simp only [WatchOutOfRange, not_or, not_lt] at hrange
  obtain ⟨hmode, hlow, hhigh, hmargin, hhysteresis, hpairing⟩ := hrange
  simp only [serveIngressSet, field_watch_leg, field_watch_mode, field_watch_margin, field_watch_hysteresis,
    field_watch_pairing, field_watch_onset _ _ _ _ _ hlo hhi, hleg, legOf_val, ingressModeOf_of_le hmode,
    yesNoOf_of_le hpairing]
  exact if_neg (by omega)

end

/-- INGRESS_SET on a ready part, by what the ingress monitor answers (R8). -/
theorem exec_ingressSet {n : Nat} {leg mode margin hysteresis pairing tag : Byte} {onset : Int} {s t : State} {st : Status}
    {fields : List Byte} (h : Ready s)
    (hs : serveIngressSet (watchPayload leg mode onset margin hysteresis pairing) (s.after n).holding =
      (t, ⟨st, fields, false⟩))
    (hmsg : t.msg = (s.after n).holding.msg) (htime : t.time = (s.after n).time) :
    exec (.ingressSet n tag ([leg, mode] ++ leSigned 2 onset ++ [margin, hysteresis, pairing])) s =
      .next ((t.setMsg s.msg).replied 0x2C tag st fields) :=
  requestArrives_served h rfl rfl hs hmsg htime

/-! ### The latched result (R194, R202) -/

/-- A bin that took no reading has neither mean nor maximum (R194). -/
theorem SurveyBin.latch_empty {x : SurveyBin} (h : x.count = 0) : x.latch = none := if_pos h

/-- A bin that took readings has their mean, rounded half up, and their maximum (R194). -/
theorem SurveyBin.latch_mean {x : SurveyBin} {m : Int} (h : 0 < x.count) (hm : x.maximum = some m) :
    ∃ mean, x.latch = some (mean, m) ∧ 2 * x.count * mean ≤ 2 * x.sum + x.count ∧
      2 * x.sum + x.count < 2 * x.count * (mean + 1) := by
  have hpos : 0 < 2 * (x.count : Int) := by omega
  refine ⟨(2 * x.sum + x.count) / (2 * x.count), ?_, Int.mul_ediv_self_le hpos.ne', ?_⟩
  · rw [SurveyBin.latch, if_neg h.ne', hm, Option.getD_some]
  · rw [mul_add, mul_one]
    exact Int.lt_mul_ediv_self_add hpos

/-- What the result holds at a bin of the survey. -/
theorem Survey.latch_bin {v : Survey} {b : Nat} {x : SurveyBin} (hx : v.bins[b]? = some x) (full : Bool) (time : Nat) :
    (v.latch full time).bins[b]? = some x.latch := by simp [Survey.latch, hx]

/-- The mean and maximum of a bin, zeros when it has none (R202). -/
theorem SurveyResult.layout_eq (r : SurveyResult) : r.layout = le 6 r.openTime ++ le 6 r.closeTime ++ le 4 r.scans
    ++ u8 (bitsOf [r.short, r.full]) ++ binSet ((List.range 64).filter fun b => (r.bins.getD b none).isSome)
    ++ (List.range 64).flatMap fun b => leSigned 2 ((r.bins.getD b none).elim 0 (·.1))
      ++ leSigned 2 ((r.bins.getD b none).elim 0 (·.2)) := by
  unfold SurveyResult.layout
  congr 2
  funext b
  cases r.bins.getD b none <;> rfl

/-! ### SURVEY_OPEN and SURVEY_CLOSE (R193, R194) -/

section
variable {leg : Byte} {s : State}

/-- R193: no leg. -/
theorem serveSurveyOpen_noLeg (h : 4 ≤ leg.toNat) : serveSurveyOpen [leg] s = (s, refuse .badValue) := by
  simp only [serveSurveyOpen, field_first, legOf_eq_none h]

/-- R194: no leg. -/
theorem serveSurveyClose_noLeg (h : 4 ≤ leg.toNat) : serveSurveyClose [leg] s = (s, refuse .badValue) := by
  simp only [serveSurveyClose, field_first, legOf_eq_none h]

variable {g : LegId} (hleg : leg.toNat = g.val)
include hleg

/-- R193: an OFF leg. -/
theorem serveSurveyOpen_legState (hoff : (s.leg g).state = .off) : serveSurveyOpen [leg] s = (s, refuse .legState) := by
  simp only [serveSurveyOpen, field_first, hleg, legOf_val]
  exact if_pos hoff

/-- R193: a survey is open already. -/
theorem serveSurveyOpen_busy (hon : (s.leg g).state ≠ .off) (hopen : (s.ingLeg g).survey ≠ none) :
    serveSurveyOpen [leg] s = (s, refuse .busy) := by
  simp only [serveSurveyOpen, field_first, hleg, legOf_val]
  exact (if_neg hon).trans (if_pos (Option.isSome_iff_ne_none.mpr hopen))

/-- R193: a survey opens empty. -/
theorem serveSurveyOpen_opened (hon : (s.leg g).state ≠ .off) (hnone : (s.ingLeg g).survey = none) :
    serveSurveyOpen [leg] s =
      (s.setIngLeg g { s.ingLeg g with survey := some (.fresh s.time.timebase) }, okReply []) := by
  simp only [serveSurveyOpen, field_first, hleg, legOf_val]
  exact (if_neg hon).trans (if_neg (by simp [hnone]))

/-- R194: no survey is open. -/
theorem serveSurveyClose_notFound (hnone : (s.ingLeg g).survey = none) :
    serveSurveyClose [leg] s = (s, refuse .notFound) := by
  simp only [serveSurveyClose, field_first, hleg, legOf_val, hnone]

/-- R194: the survey closes and its result is latched and told. -/
theorem serveSurveyClose_closed {v : Survey} (hopen : (s.ingLeg g).survey = some v) :
    serveSurveyClose [leg] s =
      (s.setIngLeg g { s.ingLeg g with survey := none, result := some (v.latch false s.time.timebase) },
        okReply (v.latch false s.time.timebase).layout) := by
  simp only [serveSurveyClose, field_first, hleg, legOf_val, hopen]

end

/-- SURVEY_OPEN on a ready part, by what the ingress monitor answers (R8). -/
theorem exec_surveyOpen {n : Nat} {leg tag : Byte} {s t : State} {st : Status} {fields : List Byte} (h : Ready s)
    (hs : serveSurveyOpen [leg] (s.after n).holding = (t, ⟨st, fields, false⟩))
    (hmsg : t.msg = (s.after n).holding.msg) (htime : t.time = (s.after n).time) :
    exec (.surveyOpen n tag [leg]) s = .next ((t.setMsg s.msg).replied 0x2D tag st fields) :=
  requestArrives_served h rfl rfl hs hmsg htime

/-- SURVEY_CLOSE on a ready part, by what the ingress monitor answers (R8). -/
theorem exec_surveyClose {n : Nat} {leg tag : Byte} {s t : State} {st : Status} {fields : List Byte} (h : Ready s)
    (hs : serveSurveyClose [leg] (s.after n).holding = (t, ⟨st, fields, false⟩))
    (hmsg : t.msg = (s.after n).holding.msg) (htime : t.time = (s.after n).time) :
    exec (.surveyClose n tag [leg]) s = .next ((t.setMsg s.msg).replied 0x2E tag st fields) :=
  requestArrives_served h rfl rfl hs hmsg htime

/-! ### LOG_TAKE (R191) -/

section
variable {count : Byte} {s : State}

/-- R191: a count that is not 1 to 6. -/
theorem serveLogTake_badValue (h : count.toNat < 1 ∨ 6 < count.toNat) :
    serveLogTake [count] s = (s, refuse .badValue) := by
  simp only [serveLogTake, field_first]
  exact if_pos h

/-- R191: the oldest records leave the log and are told, oldest first. -/
theorem serveLogTake_taken (hlo : 1 ≤ count.toNat) (hhi : count.toNat ≤ 6) :
    let taken := s.ing.log.take count.toNat
    let rest := s.ing.log.drop count.toNat
    serveLogTake [count] s = (s.setIng { s.ing with log := rest },
      okReply (u8 taken.length ++ u8 rest.length ++ le 2 s.ing.discards ++ taken.flatMap BurstRecord.layout)) := by
  simp only [serveLogTake, field_first]
  exact if_neg (by omega)

end

/-- LOG_TAKE on a ready part, by what the ingress monitor answers (R8). -/
theorem exec_logTake {n : Nat} {count tag : Byte} {s t : State} {st : Status} {fields : List Byte} (h : Ready s)
    (hs : serveLogTake [count] (s.after n).holding = (t, ⟨st, fields, false⟩))
    (hmsg : t.msg = (s.after n).holding.msg) (htime : t.time = (s.after n).time) :
    exec (.logTake n tag [count]) s = .next ((t.setMsg s.msg).replied 0x30 tag st fields) :=
  requestArrives_served h rfl rfl hs hmsg htime

/-- Settles O51: each request's cases in the order of its checks; the latched bins are `SurveyBin.latch_mean`, and the log is parted
at the count. -/
theorem watchIsSetAndSurveyed : Obligations.WatchIsSetAndSurveyed := by
  unfold Obligations.WatchIsSetAndSurveyed
  intro n leg tag s hready u
  refine ⟨fun mode margin hysteresis pairing onset hlo hhi => ⟨?_, ?_⟩, fun hnone => ⟨?_, ?_⟩, fun g hleg => ?_,
    fun count => ⟨fun hbad => exec_logTake hready (serveLogTake_badValue hbad) rfl rfl, fun hlo hhi => ?_⟩⟩
  · exact fun hbad => exec_ingressSet hready (serveIngressSet_badValue hlo hhi hbad) rfl rfl
  · exact fun g hleg hrange => exec_ingressSet hready
      (serveIngressSet_accepted (s := u.holding) hlo hhi hleg hrange) rfl rfl
  · exact exec_surveyOpen hready (serveSurveyOpen_noLeg hnone) rfl rfl
  · exact exec_surveyClose hready (serveSurveyClose_noLeg hnone) rfl rfl
  · refine ⟨fun hoff => exec_surveyOpen hready (serveSurveyOpen_legState (s := u.holding) hleg hoff) rfl rfl,
      fun hon hopen => exec_surveyOpen hready (serveSurveyOpen_busy (s := u.holding) hleg hon hopen) rfl rfl,
      fun hon hnone => exec_surveyOpen hready (serveSurveyOpen_opened (s := u.holding) hleg hon hnone) rfl rfl,
      fun hnone => exec_surveyClose hready (serveSurveyClose_notFound (s := u.holding) hleg hnone) rfl rfl,
      fun v hopen => ?_⟩
    have hserve := serveSurveyClose_closed (s := u.holding) hleg hopen
    rw [SurveyResult.layout_eq] at hserve
    refine ⟨v.latch false u.time.timebase, rfl, rfl, rfl, rfl, rfl, List.length_map .., fun b x hx hzero => ?_,
      fun b x m hx hcount hmax => ?_, exec_surveyClose hready hserve rfl rfl⟩
    · rw [Survey.latch_bin hx, SurveyBin.latch_empty hzero]
    · rw [Survey.latch_bin hx]
      simpa only [Option.some.injEq] using SurveyBin.latch_mean hcount hmax
  · exact ⟨s.ing.log.take count.toNat, s.ing.log.drop count.toNat, (List.take_append_drop ..).symm, List.length_take,
      exec_logTake hready (serveLogTake_taken (s := u.holding) hlo hhi) rfl rfl⟩

end Sys2Proof.Machine
end

section
/-! PROOFS. What each command does to a running part, said once, and how a property is kept by every step. -/

namespace Sys2Proof.Machine

open Sys2Proof

/-! ### What the events do to a running part -/

/-- WINDOW_OPEN of the window that is next to open (R26). -/
def windowOpened (w : Window) (s : State) : State := openWindowAt w.id (s.passTo (s.time.reachTimebase w.start))

/-- WINDOW_CLOSE of the OPEN window, as far as the table and the transmit gate go (R27, R79). -/
def windowLeft (w : Window) (s : State) : State :=
  let s1 := s.passTo (s.time.reachTimebase w.stop)
  judgeGate (s1.setTable (closedTable w.stop (s.win.table.filter fun x => x.id != w.id)))

/-- WINDOW_CLOSE of the OPEN window (R27). -/
def windowShut (w : Window) (s : State) : State :=
  informClosing (windowClosed w (s.time.reachTimebase w.stop).timebase false) (windowLeft w s)

/-- BURST_PHASE of the acquisition in flight (R78). -/
def burstBegun (xs : List Sample) (a : InFlight) (s : State) : State :=
  let t := s.legSettings a.leg
  let s1 := s.atClock a.burstStart
  let s2 := (s1.setProbe { s1.probe with
    phase := .burst, gate := gateHolds s1 a, code := codeStart t.codeLength }).after 0
  s2.setCap { s2.cap with sampling := some ⟨a.burstStart, t.chipDivider, acquisitionSamples t, xs⟩ }

/-- LISTEN_PHASE of the acquisition in flight (R78). -/
def listenBegun (xs : List Sample) (a : InFlight) (s : State) : State :=
  let t := s.legSettings a.leg
  let s1 := (s.told xs).atClock (a.burstStart + 2 * t.codeLength * t.chipDivider)
  s1.setProbe { s1.probe with phase := .listen, gate := false }

/-- ACQUISITION_END, up to the choice that follows: the half FULL, or taken by the correlator, and nothing in flight (R60). -/
def acquisitionStopped (xs : List Sample) (a : InFlight) (s : State) : State :=
  let tAcq := ((s.findSweep a.sweepId).map (·.tAcq)).getD 0
  let s1 := (s.told xs).atClock (a.startClock + tAcq * cyclesPerMicro)
  let s2 := s1.setCap (s1.cap.finish s1.time.clock false)
  correlatorTake (probeIdle (s2.setSeq { s2.seq with inFlight := none }))

/-- SNAPSHOT_SETTLE_END of the snapshot that fills (R82). -/
def snapshotBegun (xs : List Sample) (s : State) : State :=
  let t := s.legSettings (s.cap.coupler.getD 0)
  let s1 := s.atClock (s.cap.snapStart + 400)
  s1.setCap { s1.cap with sampling := some ⟨s.cap.snapStart + 400, t.chipDivider, 2 * t.profileBins, xs⟩ }

/-- SNAPSHOT_COMPLETE, up to the choice that follows: the half FULL, or taken by the correlator (R82). -/
def snapshotStopped (xs : List Sample) (s : State) : State :=
  let t := s.legSettings (s.cap.coupler.getD 0)
  let s1 := (s.told xs).atClock (s.cap.snapStart + snapshotMicros t * cyclesPerMicro)
  correlatorTake (s1.setCap (s1.cap.finish s1.time.clock false))

/-- The result of an acquisition job, as far as its sweep goes (R91). -/
def acquisitionAdded (n : Nat) (j : CorJob) (id l k : Nat) (s : State) : State :=
  let s1 := s.atEndOfWork n j.takenAt (l * k / 10)
  match s1.findSweep id with
  | some w => addCapture w (s.cap.half j.half) l k s1
  | none => s1

/-- The result of a snapshot job, as far as the lag slot goes (R93). -/
def snapshotSearched (n : Nat) (j : CorJob) (g : LegId) (k : Nat) (s : State) : State :=
  let s1 := s.atEndOfWork n j.takenAt (k * k / 10)
  if s1.prof.lag.state = .correlating ∧ s1.prof.lag.leg = some g then
    searchLag g (s1.setLag { s1.prof.lag with
      state := .refining, profile := some ((List.range k).map (autoCorrelation k (s.cap.half j.half).signed)) })
  else s1

/-- DIVISION_COMPLETE, up to the divider's next job: the result handed to its owner by an IDLE divider (R111). -/
def divisionHanded (r : Running) (s : State) : State :=
  let s1 := s.atClock (r.startClock + r.job.cycles)
  handResult r.job (s1.setDiv { s1.div with running := none })

/-- DIVISION_COMPLETE of the running job (R111). -/
def divisionDone (r : Running) (s : State) : State :=
  let s2 := divisionHanded r s
  s2.setDiv (s2.div.pump s2.time.clock)

/-- INGRESS_SCAN at its instant, before it does any work: the next one is due, and the mark of log 16 is set again (R180). -/
def scanDue (g : LegId) (s : State) : State :=
  let l := s.ingLeg g
  (s.atClock l.nextScan).setIngLeg g { l with nextScan := l.nextScan + 200000, acquired := acquiringOn s g }

/-- INGRESS_SCAN of a leg (R180). -/
def scanned (g : LegId) (levels : List Int) (s : State) : State :=
  let r := s.leg g
  if r.state = .off then scanDue g s
  else if 0 < r.settle then (scanDue g s).setLeg g { r with settle := r.settle - 1 }
  else readingScan g ((s.ingLeg g).acquired || acquiringOn s g) levels (scanDue g s)

/-- TEMPERATURE_CONVERSION (R120). -/
def converted (sensor : Int) (s : State) : State :=
  let s1 := s.atClock s.arith.nextConversion
  s1.setArith { s1.arith with
    temperature := clampInt (-40) 85 sensor, nextConversion := s1.arith.nextConversion + 200000000 }

/-- An outcome that a running part reaches leaves every property that the reached state has, and that a held part had. -/
theorem live_keeps {P : State → Prop} {s t u : State} (h : s.live u = .next t) (hs : P s) (hu : P u) : P t := by
  unfold State.live at h
  split at h
  all_goals exact Host.Outcome.next.inj h ▸ ‹_›

/-! ### The requests that change nothing -/

section
variable (p : List Byte) (s : State)

theorem serveLegGet_state : (serveLegGet p s).1 = s := by unfold serveLegGet; split <;> rfl
theorem serveProfileRead_state : (serveProfileRead p s).1 = s := by
  unfold serveProfileRead
  split
  · rfl
  · split
    · rfl
    · dsimp only; split <;> rfl
theorem servePeaksRead_state : (servePeaksRead p s).1 = s := by
  unfold servePeaksRead
  split
  · rfl
  · split <;> rfl
theorem serveMapRead_state : (serveMapRead p s).1 = s := by
  unfold serveMapRead
  dsimp only
  split
  · rfl
  · split <;> rfl
theorem serveStrayList_state : (serveStrayList p s).1 = s := by
  unfold serveStrayList
  split
  · rfl
  · dsimp only; split <;> rfl
theorem serveSurveyRead_state : (serveSurveyRead p s).1 = s := by
  unfold serveSurveyRead
  split
  · rfl
  · split <;> rfl
theorem serveWatchGet_state : (serveWatchGet p s).1 = s := by unfold serveWatchGet; split <;> rfl

end

/-! ### The requests that edit one block -/

/-- Edits of the ingress monitor that touch neither a detector nor a record, and add nothing to the log (R181, R191, R193,
R194). -/
structure QuietEdit (old new : Ingress) : Prop where
  detectors : ∀ g, (new.legs.get g).detectors = (old.legs.get g).detectors
  log       : new.log.length ≤ old.log.length
  discards  : new.discards = old.discards

/-- A leg's record rewritten without its detectors. -/
theorem QuietEdit.leg (ing : Ingress) (g : LegId) {l : IngressLeg} (h : l.detectors = (ing.legs.get g).detectors) :
    QuietEdit ing { ing with legs := ing.legs.set g l } where
  detectors := fun i => by
    by_cases hi : i = g
    · rw [hi, Quad.get_set_same, h]
    · rw [Quad.get_set_other _ _ hi]
  log := le_rfl
  discards := rfl

/-- The edits of an element list that keep the rest of it in order: elements leave, or their scores change (R137, R138, R141). -/
def ListEdit (old new : List Element) : Prop :=
  new.Sublist old ∨ ∃ f : Element → Element, new = old.map f ∧
    ∀ e, (f e).id = e.id ∧ (f e).kind = e.kind ∧ (f e).anchor = e.anchor ∧ (f e).nominal = e.nominal

section
variable (p : List Byte) (s : State)

theorem serveIngressSet_cases : (serveIngressSet p s).1 = s ∨
    ∃ v, QuietEdit s.ing v ∧ (serveIngressSet p s).1 = s.setIng v := by
  unfold serveIngressSet
  dsimp only
  split
  · split
    · exact .inl rfl
    · refine .inr ⟨_, ?_, rfl⟩; exact .leg s.ing _ rfl
  · exact .inl rfl

theorem serveSurveyOpen_cases : (serveSurveyOpen p s).1 = s ∨
    ∃ v, QuietEdit s.ing v ∧ (serveSurveyOpen p s).1 = s.setIng v := by
  unfold serveSurveyOpen
  split
  · exact .inl rfl
  · split
    · exact .inl rfl
    · split
      · exact .inl rfl
      · refine .inr ⟨_, ?_, rfl⟩; exact .leg s.ing _ rfl

theorem serveSurveyClose_cases : (serveSurveyClose p s).1 = s ∨
    ∃ v, QuietEdit s.ing v ∧ (serveSurveyClose p s).1 = s.setIng v := by
  unfold serveSurveyClose
  split
  · exact .inl rfl
  · split
    · exact .inl rfl
    · refine .inr ⟨_, ?_, rfl⟩; exact .leg s.ing _ rfl

theorem serveLogTake_cases : (serveLogTake p s).1 = s ∨
    ∃ v, QuietEdit s.ing v ∧ (serveLogTake p s).1 = s.setIng v := by
  unfold serveLogTake
  dsimp only
  split
  · exact .inl rfl
  · refine .inr ⟨_, ?_, rfl⟩; exact ⟨fun _ => rfl, by simp, rfl⟩

theorem serveElementDrop_cases : (serveElementDrop p s).1 = s ∨
    ∃ g es, ListEdit (s.elements g) es ∧ (serveElementDrop p s).1 = editMap g es s := by
  unfold serveElementDrop
  dsimp only
  split
  · exact .inl rfl
  · split
    · exact .inl rfl
    · split
      · exact .inl rfl
      · exact .inr ⟨_, _, .inl List.filter_sublist, rfl⟩

theorem serveMapClear_cases : (serveMapClear p s).1 = s ∨
    ∃ g es, ListEdit (s.elements g) es ∧ (serveMapClear p s).1 = editMap g es s := by
  unfold serveMapClear
  split
  · exact .inl rfl
  · exact .inr ⟨_, _, .inl (List.nil_sublist _), rfl⟩

theorem serveScoreClear_cases : (serveScoreClear p s).1 = s ∨
    ∃ g es, ListEdit (s.elements g) es ∧ (serveScoreClear p s).1 = s.setElements g es := by
  unfold serveScoreClear
  dsimp only
  split
  · exact .inl rfl
  · split
    · exact .inl rfl
    · exact .inr ⟨_, _, .inr ⟨_, rfl, fun e => by split <;> simp⟩, rfl⟩

theorem serveStrayClear_cases : (serveStrayClear p s).1 = s ∨
    ∃ q, (serveStrayClear p s).1 = s.setStray (s.stray.clear q).1 := by
  unfold serveStrayClear
  dsimp only
  split
  · exact .inl rfl
  · split
    · exact .inl rfl
    · split
      · split
        · exact .inl rfl
        · exact .inr ⟨_, rfl⟩
      · exact .inr ⟨_, rfl⟩

end

/-! ### A property kept by the blocks -/

/-- A property that each block's commands keep, whoever serves them: the requests by what they do beyond a refusal, the events by
what they do to a running part. -/
structure BlocksKeep (P : State → Prop) : Prop where
  draws            : ∀ {s : State} (n : Nat), P s → P (s.setDraws n)
  passes           : ∀ {s : State} (t : Time), P s → P (s.passTo t)
  restart          : ∀ {s : State}, P s → P (s.setMsg { s.msg with dispatching := false })
  timeSet          : ∀ {s : State} (p : List Byte), P s → P (serveTimeSet p s).1
  windowGrant      : ∀ {s : State} (p : List Byte), P s → P (serveWindowGrant p s).1
  windowRevoke     : ∀ {s : State} (p : List Byte), P s → P (serveWindowRevoke p s).1
  legSet           : ∀ {s : State} (p : List Byte), P s → P (serveLegSet p s).1
  legEnable        : ∀ {s : State} (p : List Byte), P s → P (serveLegEnable p s).1
  legDisable       : ∀ {s : State} (p : List Byte), P s → P (serveLegDisable p s).1
  classSet         : ∀ {s : State} (p : List Byte), p.length = 3 + field p 1 1 → P s → P (serveClassSet p s).1
  sweepReq         : ∀ {s : State} (p : List Byte), P s → P (serveSweepReq p s).1
  sweepCancel      : ∀ {s : State} (p : List Byte), P s → P (serveSweepCancel p s).1
  elementPut       : ∀ {s : State} (p : List Byte), P s → P (serveElementPut p s).1
  elementEdit      : ∀ {s : State} (g : LegId) (es : List Element), ListEdit (s.elements g) es → P s → P (editMap g es s)
  elementScores    : ∀ {s : State} (g : LegId) (es : List Element), ListEdit (s.elements g) es → P s → P (s.setElements g es)
  strayClear       : ∀ {s : State} (q : StrayEntry → Bool), P s → P (s.setStray (s.stray.clear q).1)
  ingressEdit      : ∀ {s : State} (v : Ingress), QuietEdit s.ing v → P s → P (s.setIng v)
  windowOpens      : ∀ {s : State} {w : Window}, nextToOpen s = some w → P s → P (windowOpened w s)
  windowShuts      : ∀ {s : State} {w : Window}, s.openWindow = some w → P s → P (windowShut w s)
  burst            : ∀ {s : State} {a : InFlight} (xs : List Sample), s.seq.inFlight = some a → P s → P (burstBegun xs a s)
  listen           : ∀ {s : State} {a : InFlight} (xs : List Sample), s.seq.inFlight = some a → P s → P (listenBegun xs a s)
  acquisitionEnds  : ∀ {s : State} {a : InFlight} (xs : List Sample), s.seq.inFlight = some a → P s →
    P (choose (acquisitionStopped xs a s))
  snapshotBegins   : ∀ {s : State} (xs : List Sample), P s → P (snapshotBegun xs s)
  snapshotEnds     : ∀ {s : State} (xs : List Sample), P s → P (choose (snapshotStopped xs s))
  acquisitionAdds  : ∀ {s : State} (n : Nat) (j : CorJob) (id l k : Nat), P s →
    P (afterJob (endJob j.half (acquisitionAdded n j id l k s)))
  snapshotSearches : ∀ {s : State} (n : Nat) (j : CorJob) (g : LegId) (k : Nat), P s →
    P (afterJob (endJob j.half (snapshotSearched n j g k s)))
  analysisEnds     : ∀ {s : State} {w : Sweep} {id : Nat} (n start : Nat) (acc : List Nat), s.findSweep id = some w → P s →
    P (completeAnalysis w acc (s.atEndOfWork n start 4000))
  divisionEnds     : ∀ {s : State} {r : Running}, s.div.running = some r → P s → P (divisionDone r s)
  scans            : ∀ {s : State} (g : LegId) (levels : List Int), P s → P (scanned g levels s)
  converts         : ∀ {s : State} (sensor : Int), P s → P (converted sensor s)

/-- What the blocks keep, the service of any request keeps (R8). -/
theorem BlocksKeep.serveKind {P : State → Prop} (k : BlocksKeep P) {kind : Byte} {p : List Byte}
    (hp : lengthAllowed kind p = true) {s : State} (h : P s) : P (serveKind kind p s).1 := by
  unfold Machine.serveKind
  split
  · exact h
  · exact k.restart h
  · exact k.timeSet p h
  · exact h
  · exact k.windowGrant p h
  · exact k.windowRevoke p h
  · exact h
  · exact k.legSet p h
  · exact k.legEnable p h
  · exact k.legDisable p h
  · rwa [serveLegGet_state]
  · next hkind =>
    refine k.classSet p ?_ h
    simp only [lengthAllowed, hkind, Bool.and_eq_true, decide_eq_true_eq, beq_iff_eq] at hp
    exact hp.2
  · exact h
  · exact k.sweepReq p h
  · exact k.sweepCancel p h
  · exact h
  · rwa [serveProfileRead_state]
  · rwa [servePeaksRead_state]
  · exact k.elementPut p h
  · rcases serveElementDrop_cases p s with e | ⟨g, es, he, e⟩ <;> rw [e]
    exacts [h, k.elementEdit g es he h]
  · rcases serveMapClear_cases p s with e | ⟨g, es, he, e⟩ <;> rw [e]
    exacts [h, k.elementEdit g es he h]
  · rwa [serveMapRead_state]
  · rcases serveScoreClear_cases p s with e | ⟨g, es, he, e⟩ <;> rw [e]
    exacts [h, k.elementScores g es he h]
  · rwa [serveStrayList_state]
  · rcases serveStrayClear_cases p s with e | ⟨q, e⟩ <;> rw [e]
    exacts [h, k.strayClear q h]
  · rcases serveIngressSet_cases p s with e | ⟨v, hv, e⟩ <;> rw [e]
    exacts [h, k.ingressEdit v hv h]
  · rcases serveSurveyOpen_cases p s with e | ⟨v, hv, e⟩ <;> rw [e]
    exacts [h, k.ingressEdit v hv h]
  · rcases serveSurveyClose_cases p s with e | ⟨v, hv, e⟩ <;> rw [e]
    exacts [h, k.ingressEdit v hv h]
  · rwa [serveSurveyRead_state]
  · rcases serveLogTake_cases p s with e | ⟨v, hv, e⟩ <;> rw [e]
    exacts [h, k.ingressEdit v hv h]
  · rwa [serveWatchGet_state]
  · exact h

/-- What the blocks keep, the checks and the service of a request keep (R8). -/
theorem BlocksKeep.serve {P : State → Prop} (k : BlocksKeep P) (f : Frame) {s : State} (h : P s) : P (serve f s).1 := by
  unfold Machine.serve
  split
  · exact h
  · split
    · exact h
    · next hp => exact k.serveKind (by simpa using hp) h

/-- The commands that are events of a block, and not of the message line. -/
def isBlockEvent : Instr → Bool
  | .windowOpen | .windowClose | .burstPhase _ | .listenPhase _ | .acquisitionEnd _ | .snapshotSettleEnd _
  | .snapshotComplete _ | .acquisitionJobComplete _ | .snapshotJobComplete _ | .analysisComplete .. | .divisionComplete
  | .ingressScan .. | .temperatureConversion _ => true
  | _ => false

/-- What the blocks keep, their events keep. -/
theorem BlocksKeep.event {P : State → Prop} (k : BlocksKeep P) {c : Instr} (hc : isBlockEvent c = true) {s t : State} (h : P s)
    (e : exec c s = .next t) : P t := by
  cases c with
  | windowOpen =>
    refine live_keeps e h ?_
    split
    · exact k.windowOpens ‹_› h
    · exact h
  | windowClose =>
    refine live_keeps e h ?_
    split
    · exact h
    · exact k.windowShuts ‹_› h
  | burstPhase xs =>
    refine live_keeps e h ?_
    split
    · exact k.burst xs ‹_› h
    · exact h
  | listenPhase xs =>
    refine live_keeps e h ?_
    split
    · exact k.listen xs ‹_› h
    · exact h
  | acquisitionEnd xs =>
    refine live_keeps e h ?_
    split
    · exact k.acquisitionEnds xs ‹_› h
    · exact h
  | snapshotSettleEnd xs =>
    refine live_keeps e h ?_
    split
    · exact k.snapshotBegins xs h
    · exact h
  | snapshotComplete xs =>
    refine live_keeps e h ?_
    split
    · exact k.snapshotEnds xs h
    · exact h
  | acquisitionJobComplete n =>
    refine live_keeps e h ?_
    split
    · exact h
    · dsimp only
      split
      · exact k.acquisitionAdds n _ _ _ _ h
      · exact h
  | snapshotJobComplete n =>
    refine live_keeps e h ?_
    split
    · exact h
    · dsimp only
      split
      · exact k.snapshotSearches n _ _ _ h
      · exact h
  | analysisComplete n slot =>
    refine live_keeps e h ?_
    split
    · split
      · exact k.analysisEnds n _ _ ‹_› h
      · exact h
    · exact h
  | divisionComplete =>
    refine live_keeps e h ?_
    split
    · exact h
    · exact k.divisionEnds ‹_› h
  | ingressScan g levels => exact live_keeps e h (k.scans g levels h)
  | temperatureConversion sensor => exact live_keeps e h (k.converts sensor h)
  | _ => cases hc

/-! ### The commands of the message line -/

/-- A request command brings its frame (R7, log 1). -/
theorem exec_request {c : Instr} {f : Frame} (h : c.frame = some f) (s : State) : exec c s = requestArrives c.after f s := by
  cases c <;> simp only [Instr.frame, Option.some.injEq, reduceCtorEq] at h
  all_goals subst h; rfl

/-- Whatever is no request and no event of a block is an event of the message line, or POWER_UP. -/
theorem lineCommand_cases (c : Instr) (hc : isBlockEvent c = false) : (∃ f, c.frame = some f) ∨ (∃ n b, c = .byteArrival n b) ∨
    c = .frameDelayExpiry ∨ c = .frameSent ∨ c = .powerUp := by
  cases c <;> simp_all [isBlockEvent, Instr.frame]

/-- What is kept by the dispatch of each request is kept by the dispatch of several (R8). -/
theorem dispatchFor_keeps {P : State → Prop} (msg : ∀ {s : State} (m : Message), P s → P (s.setMsg m))
    (one : ∀ {s : State} (f : Frame), P s → P (dispatch f s)) (n : Nat) {s : State} (h : P s) : P (dispatchFor n s) := by
  induction n generalizing s with
  | zero => exact h
  | succ n ih =>
    unfold dispatchFor
    split
    · exact h
    · split
      · exact ih (one _ (msg _ h))
      · exact h

section
variable {P : State → Prop} (k : BlocksKeep P) (msg : ∀ {s : State} (m : Message), P s → P (s.setMsg m))
include k msg

theorem BlocksKeep.dispatch {s : State} (f : Frame) (h : P s) : P (dispatch f s) := by
  have held := msg { (Machine.serve f (s.setMsg { s.msg with hold := true })).1.msg with hold := false }
    (k.serve f (msg { s.msg with hold := true } h))
  unfold Machine.dispatch placeReply
  dsimp only
  split
  · exact msg _ held
  · split
    · exact msg _ (k.draws _ held)
    · exact msg _ (msg _ (k.draws _ held))

theorem BlocksKeep.offerRequest {s : State} (f : Frame) (h : P s) : P (offerRequest f s) := by
  unfold Machine.offerRequest countFrameError
  split
  · exact msg _ h
  · exact dispatchFor_keeps msg (k.dispatch msg) _ (msg _ h)

theorem BlocksKeep.takeInput {s : State} (input : List TimedByte) (h : P s) : P (takeInput input s) := by
  unfold Machine.takeInput
  dsimp only
  generalize (scanInput _ _ _).taken = taken
  have h' := msg { s.msg with assembler := .holding (scanInput input.length s.time.clock input).held } h
  revert h'
  generalize s.setMsg _ = u
  intro h'
  induction taken generalizing u with
  | nil => exact h'
  | cons o taken ih =>
    refine ih _ ?_
    cases o with
    | none => exact msg _ h'
    | some f => exact k.offerRequest msg f h'

/-- What the blocks keep, with any message controller, and what both resets leave, every step keeps. -/
theorem BlocksKeep.step (pending : ∀ {s : State} (v : List Instr), P s → P (s.setPending v))
    (reset : ∀ {s : State}, P s → P s.afterReset) {s t : State} (h : P s) (e : step s = .next t) : P t := by
  unfold Machine.step at e
  split at e
  · rw [← Host.Outcome.next.inj e]
    unfold idleCycle
    split
    · exact h
    · exact k.passes _ h
  · next c rest _ =>
    have h := pending rest h
    revert h e
    generalize s.setPending rest = s
    intro e h
    cases hc : isBlockEvent c with
    | true => exact k.event hc h e
    | false =>
      rcases lineCommand_cases c hc with ⟨f, hf⟩ | ⟨n, b, rfl⟩ | rfl | rfl | rfl
      · rw [exec_request hf] at e
        exact live_keeps e h (k.offerRequest msg f (k.passes _ h))
      · exact live_keeps e h (k.takeInput msg _ (k.passes _ h))
      · refine live_keeps e h ?_
        split
        · exact h
        · exact k.takeInput msg _ (msg _ (k.passes _ h))
      · refine live_keeps e h ?_
        split
        · exact h
        · dsimp only
          split
          · exact msg _ (reset (k.passes _ h))
          · exact dispatchFor_keeps msg (k.dispatch msg) _ (msg _ (k.passes _ h))
      · rw [← Host.Outcome.next.inj e]
        exact msg _ (reset h)

end

end Sys2Proof.Machine
end

section
/-! PROOFS. The blocks that each request and each event leaves alone. -/

namespace Sys2Proof.Machine

open Sys2Proof

/-! ### The blocks that act together, one action at a time (log 7) -/

/-- What holds of the actions of a closing window: the report, the choice, and the detectors forced leg by leg. -/
theorem closingBlocks_forall {Q : (State → State) → Prop} {r : Report} {s : State} (hpost : Q (post r)) (hchoose : Q choose)
    (hquiet : ∀ g, Q (forceQuiet g)) : ∀ b ∈ [post r] :: [choose] :: quietBlocks s, ∀ f ∈ b, Q f := by
  intro b hb f hf
  simp only [quietBlocks, List.mem_cons, List.mem_map] at hb
  rcases hb with rfl | rfl | ⟨g, -, rfl⟩
  all_goals rw [List.mem_singleton] at hf; subst hf
  exacts [hpost, hchoose, hquiet g]

/-- What holds of the sequencer's and the monitor's actions at a LEG_DISABLE. -/
theorem disableBlocks_forall {Q : (State → State) → Prop} {ids : List Nat} {g : LegId}
    (hend : ∀ id ∈ ids, Q (endSweep id .legOff 0 0)) (hchoose : Q choose) (hing : Q (disableIngress g)) :
    ∀ b ∈ [ids.map (fun id => endSweep id .legOff 0 0) ++ [choose], [disableIngress g]], ∀ f ∈ b, Q f := by
  intro b hb f hf
  simp only [List.mem_cons, List.not_mem_nil, or_false] at hb
  rcases hb with rfl | rfl <;> simp only [List.mem_append, List.mem_map, List.mem_singleton] at hf
  · rcases hf with ⟨id, hid, rfl⟩ | rfl
    exacts [hend id hid, hchoose]
  · exact hf ▸ hing

/-- What holds of the sequencer's and the monitor's actions at a CLASS_SET. -/
theorem classBlocks_forall {Q : (State → State) → Prop} {s : State}
    (hend : ∀ id ∈ sweepIdsOf (fun w => w.state != .analysing && !s.admissible w.leg) s, Q (endSweep id .excluded 0 0))
    (hjudge : Q judgeClasses) (hchoose : Q choose) (hquiet : ∀ g, Q (forceQuiet g)) :
    ∀ b ∈ classActions s :: quietBlocks s, ∀ f ∈ b, Q f := by
  intro b hb f hf
  simp only [quietBlocks, List.mem_cons, List.mem_map] at hb
  rcases hb with rfl | ⟨g, -, rfl⟩
  · simp only [classActions, List.mem_append, List.mem_map, List.mem_cons, List.not_mem_nil, or_false] at hf
    rcases hf with ⟨id, hid, rfl⟩ | rfl | rfl
    exacts [hend id hid, hjudge, hchoose]
  · rw [List.mem_singleton] at hf
    exact hf ▸ hquiet g

/-- The blocks of LEG_DISABLE at work, in the free order of log 7 when the monitor has something to report or to give back. -/
def disableWork (g : LegId) (s : State) : State :=
  let ends := (sweepIdsOf (fun w => w.leg == g) s).map fun id => endSweep id .legOff 0 0
  if disableBusy g s then together [ends ++ [choose], [disableIngress g]] s
  else together [ends ++ [choose]] (disableIngress g s)

/-- What each action of a LEG_DISABLE keeps, their work keeps. -/
theorem disableBlocks_keeps {P : State → Prop} {g : LegId} (draws : ∀ t n, P t → P (t.setDraws n))
    (ends : ∀ t id, P t → P (endSweep id .legOff 0 0 t)) (hchoose : ∀ t, P t → P (choose t))
    (ing : ∀ t, P t → P (disableIngress g t)) (s : State) (h : P s) : P (disableWork g s) := by
  unfold disableWork
  have all := disableBlocks_forall (Q := fun f => ∀ t, P t → P (f t)) (ids := sweepIdsOf (fun w => w.leg == g) s)
    (fun id _ t => ends t id) hchoose ing
  dsimp only
  split
  · exact together_keeps draws _ _ all h
  · exact together_keeps draws _ _ (fun b hb => all b (by
      rw [List.mem_singleton] at hb
      exact hb ▸ List.mem_cons_self)) (ing _ h)

/-- What each action of a CLASS_SET keeps, their work keeps. -/
theorem classBlocks_keeps {P : State → Prop} (draws : ∀ t n, P t → P (t.setDraws n))
    (ends : ∀ t id, P t → P (endSweep id .excluded 0 0 t)) (judge : ∀ t, P t → P (judgeClasses t))
    (hchoose : ∀ t, P t → P (choose t)) (quiet : ∀ t g, P t → P (forceQuiet g t)) (s : State) (h : P s) :
    P (together (classActions s :: quietBlocks s) s) :=
  together_keeps draws _ _ (classBlocks_forall (fun id _ t => ends t id) judge hchoose fun g t => quiet t g) h

/-! ### The frames -/

/-- The blocks that the news of a closing window leaves alone. -/
@[simp] theorem informClosing_frame (r : Report) (s : State) :
    (informClosing r s).pending = s.pending ∧ (informClosing r s).inReset = s.inReset ∧ (informClosing r s).time = s.time ∧
    (informClosing r s).plan = s.plan ∧ (informClosing r s).legs = s.legs ∧ (informClosing r s).cor = s.cor ∧
    (informClosing r s).div = s.div ∧ (informClosing r s).arith = s.arith ∧ (informClosing r s).map = s.map ∧
    (informClosing r s).stray = s.stray := by
  unfold informClosing
  split
  · simp
  · refine together_keeps (P := fun t => t.pending = s.pending ∧ t.inReset = s.inReset ∧ t.time = s.time ∧ t.plan = s.plan ∧
      t.legs = s.legs ∧ t.cor = s.cor ∧ t.div = s.div ∧ t.arith = s.arith ∧ t.map = s.map ∧ t.stray = s.stray)
      (fun t n h => by simpa using h) _ _ (closingBlocks_forall (fun t h => by simpa using h) (fun t h => by simpa using h)
        fun g t h => by simpa using h) (by simp)

/-- The blocks that TIME_SET leaves alone. -/
@[simp] theorem serveTimeSet_frame (p : List Byte) (s : State) :
    ((serveTimeSet p s).1).pending = s.pending ∧ ((serveTimeSet p s).1).draws = s.draws ∧
    ((serveTimeSet p s).1).inReset = s.inReset ∧ ((serveTimeSet p s).1).plan = s.plan ∧
    ((serveTimeSet p s).1).legs = s.legs ∧ ((serveTimeSet p s).1).cor = s.cor ∧ ((serveTimeSet p s).1).div = s.div ∧
    ((serveTimeSet p s).1).arith = s.arith ∧ ((serveTimeSet p s).1).map = s.map ∧
    ((serveTimeSet p s).1).stray = s.stray := by
  unfold serveTimeSet
  dsimp only
  split <;> simp

/-- The blocks that WINDOW_GRANT leaves alone. -/
@[simp] theorem serveWindowGrant_frame (p : List Byte) (s : State) :
    ((serveWindowGrant p s).1).pending = s.pending ∧ ((serveWindowGrant p s).1).draws = s.draws ∧
    ((serveWindowGrant p s).1).inReset = s.inReset ∧ ((serveWindowGrant p s).1).time = s.time ∧
    ((serveWindowGrant p s).1).msg = s.msg ∧ ((serveWindowGrant p s).1).plan = s.plan ∧
    ((serveWindowGrant p s).1).legs = s.legs ∧ ((serveWindowGrant p s).1).cor = s.cor ∧
    ((serveWindowGrant p s).1).div = s.div ∧ ((serveWindowGrant p s).1).arith = s.arith ∧
    ((serveWindowGrant p s).1).map = s.map ∧ ((serveWindowGrant p s).1).stray = s.stray := by
  unfold serveWindowGrant
  dsimp only
  (repeat' split) <;> simp

/-- The blocks that WINDOW_REVOKE leaves alone. -/
@[simp] theorem serveWindowRevoke_frame (p : List Byte) (s : State) :
    ((serveWindowRevoke p s).1).pending = s.pending ∧ ((serveWindowRevoke p s).1).inReset = s.inReset ∧
    ((serveWindowRevoke p s).1).time = s.time ∧ ((serveWindowRevoke p s).1).plan = s.plan ∧
    ((serveWindowRevoke p s).1).legs = s.legs ∧ ((serveWindowRevoke p s).1).div = s.div ∧
    ((serveWindowRevoke p s).1).arith = s.arith ∧ ((serveWindowRevoke p s).1).map = s.map ∧
    ((serveWindowRevoke p s).1).stray = s.stray := by
  unfold serveWindowRevoke
  split
  · simp
  · dsimp only
    split <;> simp

/-- The blocks that LEG_SET leaves alone. -/
@[simp] theorem serveLegSet_frame (p : List Byte) (s : State) :
    ((serveLegSet p s).1).pending = s.pending ∧ ((serveLegSet p s).1).draws = s.draws ∧
    ((serveLegSet p s).1).inReset = s.inReset ∧ ((serveLegSet p s).1).time = s.time ∧ ((serveLegSet p s).1).msg = s.msg ∧
    ((serveLegSet p s).1).win = s.win ∧ ((serveLegSet p s).1).plan = s.plan ∧ ((serveLegSet p s).1).seq = s.seq ∧
    ((serveLegSet p s).1).probe = s.probe ∧ ((serveLegSet p s).1).cap = s.cap ∧ ((serveLegSet p s).1).cor = s.cor ∧
    ((serveLegSet p s).1).prof = s.prof ∧ ((serveLegSet p s).1).div = s.div ∧ ((serveLegSet p s).1).map = s.map ∧
    ((serveLegSet p s).1).stray = s.stray ∧ ((serveLegSet p s).1).ing = s.ing := by
  unfold serveLegSet
  split
  · simp
  · dsimp only
    (repeat' split) <;> simp

/-- The blocks that LEG_ENABLE leaves alone. -/
@[simp] theorem serveLegEnable_frame (p : List Byte) (s : State) :
    ((serveLegEnable p s).1).pending = s.pending ∧ ((serveLegEnable p s).1).draws = s.draws ∧
    ((serveLegEnable p s).1).inReset = s.inReset ∧ ((serveLegEnable p s).1).time = s.time ∧
    ((serveLegEnable p s).1).msg = s.msg ∧ ((serveLegEnable p s).1).plan = s.plan ∧ ((serveLegEnable p s).1).cor = s.cor ∧
    ((serveLegEnable p s).1).div = s.div ∧ ((serveLegEnable p s).1).arith = s.arith ∧ ((serveLegEnable p s).1).map = s.map ∧
    ((serveLegEnable p s).1).stray = s.stray := by
  unfold serveLegEnable
  split
  · simp
  · dsimp only
    split <;> simp

/-- The blocks that LEG_DISABLE leaves alone. -/
@[simp] theorem serveLegDisable_frame (p : List Byte) (s : State) :
    ((serveLegDisable p s).1).pending = s.pending ∧ ((serveLegDisable p s).1).inReset = s.inReset ∧
    ((serveLegDisable p s).1).time = s.time ∧ ((serveLegDisable p s).1).plan = s.plan ∧
    ((serveLegDisable p s).1).arith = s.arith ∧ ((serveLegDisable p s).1).map = s.map ∧
    ((serveLegDisable p s).1).stray = s.stray := by
  unfold serveLegDisable
  split
  · simp
  · next g _ =>
    dsimp only
    split
    · simp
    · generalize hu : withdrawSnapshot g (s.setLeg g _) = u
      have kept : u.pending = s.pending ∧ u.inReset = s.inReset ∧ u.time = s.time ∧ u.plan = s.plan ∧ u.arith = s.arith ∧
          u.map = s.map ∧ u.stray = s.stray := by subst hu; simp
      refine disableBlocks_keeps (P := fun t => t.pending = s.pending ∧ t.inReset = s.inReset ∧ t.time = s.time ∧
        t.plan = s.plan ∧ t.arith = s.arith ∧ t.map = s.map ∧ t.stray = s.stray) (fun t n h => by simpa using h)
        (fun t id h => by simpa using h) (fun t h => by simpa using h) (fun t h => by simpa using h) _ kept

/-- The blocks that CLASS_SET leaves alone. -/
@[simp] theorem serveClassSet_frame (p : List Byte) (s : State) :
    ((serveClassSet p s).1).pending = s.pending ∧ ((serveClassSet p s).1).inReset = s.inReset ∧
    ((serveClassSet p s).1).time = s.time ∧ ((serveClassSet p s).1).legs = s.legs ∧
    ((serveClassSet p s).1).arith = s.arith ∧ ((serveClassSet p s).1).map = s.map ∧
    ((serveClassSet p s).1).stray = s.stray := by
  unfold serveClassSet
  dsimp only
  split
  · simp
  · refine classBlocks_keeps (P := fun t => t.pending = s.pending ∧ t.inReset = s.inReset ∧ t.time = s.time ∧
      t.legs = s.legs ∧ t.arith = s.arith ∧ t.map = s.map ∧ t.stray = s.stray) (fun t n h => by simpa using h)
      (fun t id h => by simpa using h) (fun t h => by simpa using h) (fun t h => by simpa using h)
      (fun t g h => by simpa using h) _ (by simp)

/-- The blocks that SWEEP_REQ leaves alone. -/
@[simp] theorem serveSweepReq_frame (p : List Byte) (s : State) :
    ((serveSweepReq p s).1).pending = s.pending ∧ ((serveSweepReq p s).1).draws = s.draws ∧
    ((serveSweepReq p s).1).inReset = s.inReset ∧ ((serveSweepReq p s).1).time = s.time ∧
    ((serveSweepReq p s).1).msg = s.msg ∧ ((serveSweepReq p s).1).plan = s.plan ∧ ((serveSweepReq p s).1).legs = s.legs ∧
    ((serveSweepReq p s).1).cor = s.cor ∧ ((serveSweepReq p s).1).div = s.div ∧ ((serveSweepReq p s).1).arith = s.arith ∧
    ((serveSweepReq p s).1).map = s.map ∧ ((serveSweepReq p s).1).stray = s.stray := by
  unfold serveSweepReq
  dsimp only
  (repeat' split) <;> simp

/-- The blocks that SWEEP_CANCEL leaves alone. -/
@[simp] theorem serveSweepCancel_frame (p : List Byte) (s : State) :
    ((serveSweepCancel p s).1).pending = s.pending ∧ ((serveSweepCancel p s).1).draws = s.draws ∧
    ((serveSweepCancel p s).1).inReset = s.inReset ∧ ((serveSweepCancel p s).1).time = s.time ∧
    ((serveSweepCancel p s).1).plan = s.plan ∧ ((serveSweepCancel p s).1).legs = s.legs ∧
    ((serveSweepCancel p s).1).arith = s.arith ∧ ((serveSweepCancel p s).1).map = s.map ∧
    ((serveSweepCancel p s).1).stray = s.stray := by
  unfold serveSweepCancel
  split <;> simp

/-- The blocks that ELEMENT_PUT leaves alone. -/
@[simp] theorem serveElementPut_frame (p : List Byte) (s : State) :
    ((serveElementPut p s).1).pending = s.pending ∧ ((serveElementPut p s).1).draws = s.draws ∧
    ((serveElementPut p s).1).inReset = s.inReset ∧ ((serveElementPut p s).1).time = s.time ∧
    ((serveElementPut p s).1).msg = s.msg ∧ ((serveElementPut p s).1).win = s.win ∧
    ((serveElementPut p s).1).plan = s.plan ∧ ((serveElementPut p s).1).legs = s.legs ∧
    ((serveElementPut p s).1).seq = s.seq ∧ ((serveElementPut p s).1).probe = s.probe ∧
    ((serveElementPut p s).1).cap = s.cap ∧ ((serveElementPut p s).1).cor = s.cor ∧
    ((serveElementPut p s).1).prof = s.prof ∧ ((serveElementPut p s).1).div = s.div ∧
    ((serveElementPut p s).1).arith = s.arith ∧ ((serveElementPut p s).1).ing = s.ing := by
  unfold serveElementPut editMap
  dsimp only
  (repeat' split) <;> simp

/-- The blocks that an acquisition's result leaves alone. -/
@[simp] theorem acquisitionAdded_frame (n : Nat) (j : CorJob) (id l k : Nat) (s : State) :
    (acquisitionAdded n j id l k s).pending = s.pending ∧ (acquisitionAdded n j id l k s).draws = s.draws ∧
    (acquisitionAdded n j id l k s).inReset = s.inReset ∧ (acquisitionAdded n j id l k s).msg = s.msg ∧
    (acquisitionAdded n j id l k s).win = s.win ∧ (acquisitionAdded n j id l k s).plan = s.plan ∧
    (acquisitionAdded n j id l k s).legs = s.legs ∧ (acquisitionAdded n j id l k s).cor = s.cor ∧
    (acquisitionAdded n j id l k s).div = s.div ∧ (acquisitionAdded n j id l k s).arith = s.arith ∧
    (acquisitionAdded n j id l k s).map = s.map ∧ (acquisitionAdded n j id l k s).stray = s.stray ∧
    (acquisitionAdded n j id l k s).ing = s.ing := by
  unfold acquisitionAdded
  dsimp only
  split <;> simp

/-- The blocks that a snapshot's result leaves alone. -/
@[simp] theorem snapshotSearched_frame (n : Nat) (j : CorJob) (g : LegId) (k : Nat) (s : State) :
    (snapshotSearched n j g k s).pending = s.pending ∧ (snapshotSearched n j g k s).draws = s.draws ∧
    (snapshotSearched n j g k s).inReset = s.inReset ∧ (snapshotSearched n j g k s).win = s.win ∧
    (snapshotSearched n j g k s).plan = s.plan ∧ (snapshotSearched n j g k s).legs = s.legs ∧
    (snapshotSearched n j g k s).seq = s.seq ∧ (snapshotSearched n j g k s).cor = s.cor ∧
    (snapshotSearched n j g k s).arith = s.arith ∧ (snapshotSearched n j g k s).map = s.map ∧
    (snapshotSearched n j g k s).stray = s.stray := by
  unfold snapshotSearched
  dsimp only
  split <;> simp

end Sys2Proof.Machine
end

section
/-! PROOFS. Every step keeps the element lists and the stray table (R129, R164, R165). -/

namespace Sys2Proof.Machine

open Sys2Proof

/-! ### The element lists, by what R129 speaks of -/

/-- What R129 speaks of in an element: its id, kind, anchor flag and nominal distance. -/
def Element.key (e : Element) : Nat × ElementKind × Bool × Nat := (e.id, e.kind, e.anchor, e.nominal)

/-- R129 in the keys alone. -/
theorem listInv_iff_keys {es : List Element} : ListInv es ↔ (es.map Element.key).length ≤ 48 ∧
    (es.map Element.key).Pairwise (fun x y => x.2.2.2 < y.2.2.2) ∧ (∀ x ∈ es.map Element.key, x.2.2.2 ≤ 65535) ∧
    ((es.map Element.key).map (·.1)).Nodup ∧ (∀ x ∈ es.map Element.key, 1 ≤ x.1 ∧ x.1 ≤ 255) ∧
    (es.map Element.key).Pairwise (fun x _ => x.2.1 ≠ .eol) ∧ ((es.map Element.key).filter (·.2.2.1)).length ≤ 1 := by
  have hids : (es.map Element.key).map (·.1) = es.map (·.id) := List.map_map
  have hanchor : ((es.map Element.key).filter (·.2.2.1)).length = (es.filter (·.anchor)).length := by
    rw [List.filter_map, List.length_map]; rfl
  rw [hids, hanchor, List.length_map, List.pairwise_map, List.pairwise_map, List.forall_mem_map, List.forall_mem_map]
  exact ⟨fun ⟨a, b, c, d, e, f, g⟩ => ⟨a, b, c, d, e, f, g⟩, fun ⟨a, b, c, d, e, f, g⟩ => ⟨a, b, c, d, e, f, g⟩⟩

theorem ListInv.of_keys {es fs : List Element} (h : ListInv es) (hk : fs.map Element.key = es.map Element.key) :
    ListInv fs := by
  rw [listInv_iff_keys] at h ⊢
  rwa [hk]

theorem ListInv.sublist {es fs : List Element} (h : ListInv es) (hs : fs.Sublist es) : ListInv fs where
  room      := hs.length_le.trans h.room
  ascending := h.ascending.sublist hs
  distances := fun e he => h.distances e (hs.subset he)
  ids       := h.ids.sublist (hs.map _)
  idRange   := fun e he => h.idRange e (hs.subset he)
  eolLast   := h.eolLast.sublist hs
  oneAnchor := (hs.filter _).length_le.trans h.oneAnchor

theorem ListInv.edit {es fs : List Element} (h : ListInv es) (he : ListEdit es fs) : ListInv fs := by
  rcases he with hs | ⟨f, rfl, hf⟩
  · exact h.sublist hs
  · refine h.of_keys ?_
    rw [List.map_map]
    refine List.map_congr_left fun e _ => ?_
    obtain ⟨hid, hkind, hanchor, hnominal⟩ := hf e
    simp only [Function.comp, Element.key, hid, hkind, hanchor, hnominal]

/-- A new element between those before it and those after it (R129). -/
theorem ListInv.middle {before after : List Element} {new : Element} (h : ListInv (before ++ after))
    (hroom : (before ++ after).length < 48) (hid : 1 ≤ new.id ∧ new.id ≤ 255) (hnew : ∀ e ∈ before ++ after, e.id ≠ new.id)
    (hd : new.nominal ≤ 65535) (hbefore : ∀ e ∈ before, e.nominal < new.nominal ∧ e.kind ≠ .eol)
    (hafter : ∀ e ∈ after, new.nominal < e.nominal ∧ new.kind ≠ .eol)
    (hanchor : new.anchor = true → ∀ e ∈ before ++ after, e.anchor = false) : ListInv (before ++ new :: after) where
  room := by
    simp only [List.length_append, List.length_cons] at hroom ⊢
    omega
  ascending := by
    have hasc := h.ascending
    rw [List.pairwise_append] at hasc
    rw [List.pairwise_append, List.pairwise_cons]
    refine ⟨hasc.1, ⟨fun e he => (hafter e he).1, hasc.2.1⟩, fun e he f hf => ?_⟩
    rcases List.mem_cons.mp hf with rfl | hf
    · exact (hbefore e he).1
    · exact hasc.2.2 e he f hf
  distances e he := by
    rcases List.mem_cons.mp (List.perm_middle.mem_iff.mp he) with rfl | he
    exacts [hd, h.distances e he]
  ids := by
    rw [List.map_append, List.map_cons, List.nodup_middle, List.nodup_cons, ← List.map_append, List.mem_map]
    exact ⟨fun ⟨e, he, hid'⟩ => hnew e he hid', h.ids⟩
  idRange e he := by
    rcases List.mem_cons.mp (List.perm_middle.mem_iff.mp he) with rfl | he
    exacts [hid, h.idRange e he]
  eolLast := by
    have heol := h.eolLast
    rw [List.pairwise_append] at heol
    rw [List.pairwise_append, List.pairwise_cons]
    exact ⟨heol.1, ⟨fun e he => (hafter e he).2, heol.2.1⟩, fun e he _ _ => (hbefore e he).2⟩
  oneAnchor := by
    rw [(List.perm_middle.filter _).length_eq, List.filter_cons]
    split
    · next ha =>
      rw [List.filter_eq_nil_iff.mpr fun e he => by simp [hanchor ha e he]]
      exact le_rfl
    · exact h.oneAnchor

/-- A list whose elements have lost the anchor flag, if they are to (R134). -/
theorem listInv_settled {es : List Element} (h : ListInv es) (flag : Nat) : ListInv (es.map (settled flag)) := by
  have hkeep : ∀ e : Element, (settled flag e).id = e.id ∧ (settled flag e).kind = e.kind ∧
      (settled flag e).nominal = e.nominal ∧ ((settled flag e).anchor = true → e.anchor = true) := fun e => by
    unfold settled
    split <;> simp
  refine ⟨by simpa using h.room, ?_, ?_, ?_, ?_, ?_, ?_⟩
  · simpa [List.pairwise_map, hkeep] using h.ascending
  · simpa [hkeep] using h.distances
  · simpa [List.map_map, Function.comp_def, hkeep] using h.ids
  · simpa [hkeep] using h.idRange
  · simpa [List.pairwise_map, hkeep] using h.eolLast
  · rw [List.filter_map, List.length_map]
    refine le_trans (List.Sublist.length_le ?_) h.oneAnchor
    exact List.monotone_filter_right _ fun e he => (hkeep e).2.2.2 he

/-- A new element in its place, the end of line last, with the anchor flag cleared in the others when it is the anchor's (R131 to
R134). -/
theorem ListInv.put {others : List Element} (h : ListInv others) {id d flag : Nat} {kind : ElementKind}
    (hroom : others.length < 48) (hid : 1 ≤ id ∧ id ≤ 255) (hnew : ∀ e ∈ others, e.id ≠ id) (hd : d ≤ 65535)
    (hfree : ¬ PutTaken others d) (hline : ¬ PutBreaks others kind.code d) :
    ListInv (putElement (.fresh id kind (decide (flag = 1)) d) others) := by
  obtain ⟨before, after, rfl, hbefore, hafter, hins⟩ := insertElement_split h.ascending hfree
  rw [putElement_fresh, hins _ (settled flag) rfl (settled_nominal flag)]
  have hkeep : ∀ e : Element, (settled flag e).id = e.id ∧ (settled flag e).kind = e.kind ∧
      (flag = 1 → (settled flag e).anchor = false) := fun e => by unfold settled; split <;> simp_all
  simp only [PutBreaks, ElementKind.code_eq_two, not_or, not_and, not_exists] at hline
  have hinv := listInv_settled h flag
  rw [List.map_append] at hinv
  refine hinv.middle (by simpa using hroom) hid ?_ hd ?_ ?_ ?_
  · rw [← List.map_append, List.forall_mem_map]
    exact fun e he => (hkeep e).1 ▸ hnew e he
  · simp only [List.forall_mem_map, settled_nominal, hkeep]
    refine fun e he => ⟨hbefore e he, fun heol => ?_⟩
    by_cases hk : kind = .eol
    · exact (hline.1 hk e (List.mem_append_left _ he)).2 heol
    · exact hline.2 (ElementKind.code_eq_two.not.mpr hk) e (List.mem_append_left _ he) heol (hbefore e he).le
  · simp only [List.forall_mem_map, settled_nominal]
    refine fun e he => ⟨hafter e he, fun heol => ?_⟩
    exact (hline.1 heol e (List.mem_append_right _ he)).1 (hafter e he).le
  · intro hflag
    simp only [← List.map_append, List.forall_mem_map]
    exact fun e _ => (hkeep e).2.2 (of_decide_eq_true hflag)

/-! ### The map -/

/-- The element lists of every leg are the same in what R129 speaks of. -/
structure SameElements (s t : State) : Prop where
  keys : ∀ g, (t.elements g).map Element.key = (s.elements g).map Element.key

theorem MapInv.of_same {s t : State} (h : MapInv s) (hk : SameElements s t) : MapInv t := fun g => (h g).of_keys (hk.keys g)

theorem MapInv.of_map {s t : State} (h : MapInv s) (hm : t.map = s.map) : MapInv t :=
  h.of_same ⟨fun g => by rw [State.elements, hm, State.elements]⟩

@[simp] theorem State.setElements_elements (s : State) (g i : LegId) (es : List Element) :
    (s.setElements g es).elements i = if i = g then es else s.elements i := by
  unfold State.setElements State.elements
  split
  · next h => subst h; simp
  · next h => simp [Quad.get_set_other _ _ h]

@[simp] theorem editMap_elements (s : State) (g i : LegId) (es : List Element) :
    (editMap g es s).elements i = if i = g then es else s.elements i := by
  unfold editMap State.elements
  split
  · next h => subst h; simp
  · next h => simp [Quad.get_set_other _ _ h]

/-- A leg's list replaced by one that is one. -/
theorem MapInv.replace {s t : State} {g : LegId} {es : List Element} (h : MapInv s) (hes : ListInv es)
    (ht : ∀ i, t.elements i = if i = g then es else s.elements i) : MapInv t := fun i => by
  rw [ht]
  split
  exacts [hes, h i]

theorem Element.matched_key (b : Bool) (time : Nat) (p : Peak) (e : Element) : (e.matched b time p).key = e.key := by
  unfold Element.matched
  dsimp only
  split
  · rfl
  · split <;> rfl

theorem reconcileElement_key (t : Settings) (b : Bool) (time : Nat) (m : Element × Option Peak) :
    (reconcileElement t b time m).key = m.1.key := by
  unfold reconcileElement
  split
  · exact Element.matched_key ..
  · rfl

theorem SameElements.refl (s : State) : SameElements s s := ⟨fun _ => rfl⟩

theorem SameElements.of_map {s t : State} (h : t.map = s.map) : SameElements s t :=
  ⟨fun g => by rw [State.elements, h, State.elements]⟩

theorem SameElements.trans {s t u : State} (h : SameElements s t) (h' : SameElements t u) : SameElements s u :=
  ⟨fun g => (h'.keys g).trans (h.keys g)⟩

/-- The elements with their peaks and the peaks left over, in the reconciliation of a sweep (R146). -/
def matching (w : Sweep) (s : State) : List (Element × Option Peak) × List Peak :=
  matchElements (s.legSettings w.leg).tolerance (s.elements w.leg) (peaksOf (measurePeaks w s) w.slot)

/-- Reconciliation of a sweep up to its strays: its peaks measured, its elements judged (R144, steps 1 to 3). -/
def reconciledElements (w : Sweep) (s : State) : State := updateElements w (matching w s).1 (measurePeaks w s)

/-- Reconciliation of a sweep up to its end (R144, steps 1 to 6). -/
def reconciledLevel (w : Sweep) (s : State) : State :=
  levelDone w.leg (anchorMatch (matching w s).1) (w.levelUsed.getD 0)
    (ageStrays w.leg ((matching w s).2.map fun p => cellOf (p.distance.getD 0))
      (feedStrays w.leg (matching w s).2 (reconciledElements w s)))

/-- Reconciliation of a sweep of the queue: its steps, the sweep's end, and the leg fault that may follow (R144, R160). -/
theorem reconcile_eq {id : Nat} {s : State} {w : Sweep} (h : s.findSweep id = some w) : reconcile id s =
    let ended := endSweep id .done ((matching w s).1.filter fun m => m.2.isSome).length (matching w s).2.length
      (reconciledLevel w s)
    if faultsNow (reconciledLevel w s) w.leg then faultLeg w.leg id ended else ended := by
  unfold reconcile
  rw [h]
  rfl

/-- A sweep that is not in the queue is not reconciled. -/
theorem reconcile_gone {id : Nat} {s : State} (h : s.findSweep id = none) : reconcile id s = s := by
  unfold reconcile
  rw [h]

theorem matching_elements (w : Sweep) (s : State) : (matching w s).1.map (·.1) = s.elements w.leg :=
  matchElements_elements ..

/-- The map after the elements of a sweep's leg are judged (R148, R149). -/
theorem reconciledElements_map (w : Sweep) (s : State) : (reconciledElements w s).map = s.map.set w.leg
    { s.map.get w.leg with elements := (matching w s).1.map (reconcileElement (s.legSettings w.leg) w.options.baseline
      s.time.timebase) } := by
  unfold reconciledElements updateElements
  dsimp only
  rw [(postAll_frame _ _).2.2.2.2.2.2.2.2.2.2.2.2.2.2.1]
  rfl

/-- Reconciliation touches the map where the elements of its sweep's leg are judged. -/
theorem reconcile_map {id : Nat} {s : State} {w : Sweep} (h : s.findSweep id = some w) :
    (reconcile id s).map = (reconciledElements w s).map := by
  rw [reconcile_eq h]
  dsimp only
  split <;> simp [reconciledLevel]

/-- Reconciliation rewrites the elements of its sweep's leg without what R129 speaks of. -/
theorem reconcile_sameElements (id : Nat) (s : State) : SameElements s (reconcile id s) := by
  cases h : s.findSweep id with
  | none =>
    rw [reconcile_gone h]
    exact .refl s
  | some w =>
    refine ⟨fun g => ?_⟩
    rw [State.elements, reconcile_map h, reconciledElements_map]
    by_cases hg : g = w.leg
    · rw [hg, Quad.get_set_same, ← matching_elements, List.map_map, List.map_map]
      exact List.map_congr_left fun m _ => reconcileElement_key _ _ _ m
    · rw [Quad.get_set_other _ _ hg, State.elements]

theorem calFailed_sameElements (id : Nat) (s : State) : SameElements s (calFailed id s) :=
  .trans (.of_map (by simp)) (reconcile_sameElements id _)

theorem afterRefinement_sameElements (w : Sweep) (s : State) : SameElements s (afterRefinement w s) := by
  unfold afterRefinement anchorSearch
  split
  · split
    · exact .refl s
    · split
      · exact calFailed_sameElements ..
      · split
        · exact calFailed_sameElements ..
        · exact .of_map (by simp)
  · exact reconcile_sameElements ..

theorem completeAnalysis_sameElements (w : Sweep) (acc : List Nat) (s : State) :
    SameElements s (completeAnalysis w acc s) := by
  unfold completeAnalysis
  dsimp only
  split
  · exact .of_map (by simp)
  · split
    · exact .trans (.of_map (by simp)) (afterRefinement_sameElements w _)
    · exact .of_map (by simp)

theorem pairingResult_sameElements (g : LegId) (q : Nat) (s : State) : SameElements s (pairingResult g q s) := by
  unfold pairingResult
  split
  · exact .refl s
  · split
    · exact .of_map (by simp)
    · dsimp only
      split
      · exact .of_map (by simp)
      · split
        · exact .of_map (by simp)
        · next e _ =>
          refine .trans (t := chargeScore g e.id s) ⟨fun i => ?_⟩ (.of_map (by simp))
          rw [chargeScore, State.setElements_elements]
          split
          · next h =>
            rw [h, List.map_map]
            refine List.map_congr_left fun e _ => ?_
            simp only [Function.comp]
            split <;> rfl
          · rfl

theorem handResult_sameElements (j : Job) (s : State) : SameElements s (handResult j s) := by
  unfold handResult
  split
  · split
    · dsimp only
      split
      · exact .trans (.of_map (by simp)) (afterRefinement_sameElements ..)
      · exact .of_map (by simp)
    · exact .refl s
  · split
    · split
      · exact pairingResult_sameElements ..
      · exact .refl s
    · exact .refl s
  · unfold judgeCal
    split
    · exact .refl s
    · split
      · split
        · exact .trans (.of_map (by simp)) (reconcile_sameElements ..)
        · exact calFailed_sameElements ..
      · exact calFailed_sameElements ..

theorem field_one_le (p : List Byte) (i : Nat) : field p i 1 ≤ 255 := by
  unfold field
  cases h : (p.drop i).take 1 with
  | nil => simp [unle]
  | cons b bs =>
    have hlen : ((p.drop i).take 1).length ≤ 1 := List.length_take_le ..
    rw [h] at hlen
    cases bs with
    | nil => simp only [unle]; have := b.isLt; omega
    | cons => simp at hlen

theorem field_two_le (p : List Byte) (i : Nat) : field p i 2 ≤ 65535 := by
  unfold field
  have hlen : ((p.drop i).take 2).length ≤ 2 := List.length_take_le ..
  match h : (p.drop i).take 2 with
  | [] => simp [unle]
  | [a] => simp only [unle]; have := a.isLt; omega
  | [a, b] => simp only [unle]; have := a.isLt; have := b.isLt; omega
  | _ :: _ :: _ :: _ => rw [h] at hlen; simp at hlen

/-- ELEMENT_PUT: nothing, or a record in the place of any of its id, and the leg's near strays cleared (R131 to R135). -/
theorem serveElementPut_cases (p : List Byte) (s : State) : (serveElementPut p s).1 = s ∨
    ∃ g id kind anchor d q, (1 ≤ id ∧ id ≤ 255) ∧ d ≤ 65535 ∧ ¬ PutFull (s.elements g) id ∧
      ¬ PutTaken (otherElements (s.elements g) id) d ∧
      ¬ PutBreaks (otherElements (s.elements g) id) (ElementKind.code kind) d ∧
      (serveElementPut p s).1 = editMap g (putElement (.fresh id kind anchor d) (otherElements (s.elements g) id))
        (s.setStray (s.stray.clear q).1) := by
  unfold serveElementPut
  dsimp only
  split
  · next g kind anchor _ _ _ =>
    split
    · exact .inl rfl
    · next hid =>
      split
      · exact .inl rfl
      · next hroom =>
        rw [filter_id_ne]
        split
        · exact .inl rfl
        · next hfree =>
          split
          · exact .inl rfl
          · next hline =>
            refine .inr ⟨g, field p 1 1, kind, anchor, field p 3 2, nearStrays g (field p 3 2) (s.leg g).settings, ⟨Nat.one_le_iff_ne_zero.mpr hid, field_one_le p 1⟩,
              field_two_le p 3, putFull_iff.not.mp hroom, putTaken_iff.not.mp hfree, breaksLine_iff.not.mp hline, ?_⟩
            rw [nearStrays_eq]
            split <;> rfl
  · exact .inl rfl

theorem serveElementPut_mapInv {s : State} (p : List Byte) (h : MapInv s) : MapInv (serveElementPut p s).1 := by
  rcases serveElementPut_cases p s with e | ⟨g, id, kind, anchor, d, q, hid, hd, hfull, hfree, hline, e⟩
  · rwa [e]
  · rw [e]
    have hanchor : anchor = decide ((if anchor then 1 else 0 : Nat) = 1) := by cases anchor <;> rfl
    refine h.replace ?_ fun i => editMap_elements _ g i _
    rw [hanchor]
    refine ((h g).sublist List.filter_sublist).put ?_ hid (fun e he => of_decide_eq_true (List.mem_filter.mp he).2) hd hfree
      hline
    by_contra hlen
    rw [not_lt] at hlen
    have hall := (List.filter_sublist (p := fun e : Element => decide (e.id ≠ id)) (l := s.elements g)).eq_of_length_le
      ((h g).room.trans hlen)
    refine hfull ⟨fun e he => ?_, ?_⟩
    · rw [← hall] at he
      exact of_decide_eq_true (List.mem_filter.mp he).2
    · exact hlen.trans List.filter_sublist.length_le

/-- Every block's commands keep the element lists. -/
theorem mapInv_blocks : BlocksKeep MapInv := by
  constructor
  case elementPut => exact fun p h => serveElementPut_mapInv p h
  case elementEdit => exact fun g es he h => h.replace ((h g).edit he) fun i => editMap_elements _ g i es
  case elementScores => exact fun g es he h => h.replace ((h g).edit he) fun i => State.setElements_elements _ g i es
  case analysisEnds =>
    exact fun n start acc _ h => h.of_same (.trans (.of_map (by simp)) (completeAnalysis_sameElements _ acc _))
  case divisionEnds =>
    intro s r _ h
    refine h.of_same (.trans (t := divisionHanded r s) ?_ (.of_map (by simp [divisionDone])))
    exact .trans (.of_map (by simp)) (handResult_sameElements _ _)
  case scans =>
    intro s g levels h
    unfold scanned
    dsimp only
    split
    · exact h.of_map (by simp [scanDue])
    · split <;> exact h.of_map (by simp [scanDue])
  all_goals
    intros
    exact MapInv.of_map ‹_› (by simp [windowOpened, windowShut, windowLeft, burstBegun, listenBegun, acquisitionStopped,
      snapshotBegun, snapshotStopped, converted])

/-- Every list is one after a reset (R142). -/
theorem mapInv_reset (s : State) : MapInv s.afterReset := fun g => by
  have : s.afterReset.elements g = [] := by
    show (State.reset.map.get g).elements = []
    exact congrArg LegMap.elements (Quad.get_all _ g)
  rw [this]
  exact ⟨Nat.zero_le _, .nil, nofun, .nil, nofun, .nil, Nat.zero_le _⟩

theorem step_keeps_mapInv {s t : State} (h : MapInv s) (e : step s = .next t) : MapInv t :=
  mapInv_blocks.step (fun _ h => h) (fun _ h => h) (fun _ => mapInv_reset _) h e

end Sys2Proof.Machine
end

section
/-! PROOFS. Every step keeps the stray table (R164 to R178). -/

namespace Sys2Proof.Machine

open Sys2Proof

/-- The stray table's own invariant, which the table alone decides (R164, R165). -/
structure StraysInv (t : Strays) : Prop where
  sets    : t.sets.length = 16
  entries : ∀ i < 16, ∀ w, ((t.set i).ways.get w).valid = true → EntryInv i ((t.set i).ways.get w)
  tags    : ∀ i < 16, ∀ v w, ((t.set i).ways.get v).valid = true → ((t.set i).ways.get w).valid = true →
    ((t.set i).ways.get v).leg = ((t.set i).ways.get w).leg → ((t.set i).ways.get v).cell = ((t.set i).ways.get w).cell → v = w
  drops   : ∀ g, t.drops.get g ≤ 65535

theorem strayInv_iff {s : State} : StrayInv s ↔ StraysInv s.stray :=
  ⟨fun h => ⟨h.sets, h.entries, h.tags, h.drops⟩, fun h => ⟨h.sets, h.entries, h.tags, h.drops⟩⟩

/-! ### Entries that leave or grow older (R173, R174) -/

/-- A rewriting of entries that makes none valid, keeps the tag of those that stay, and leaves each as R165 asks. -/
structure KeepsEntries (f : StrayEntry → StrayEntry) : Prop where
  valid : ∀ e, (f e).valid = true → e.valid = true
  leg   : ∀ e, (f e).leg = e.leg
  cell  : ∀ e, (f e).cell = e.cell
  entry : ∀ i e, (f e).valid = true → EntryInv i e → EntryInv i (f e)

theorem StraysInv.mapEntries {t : Strays} (h : StraysInv t) {f : StrayEntry → StrayEntry} (hf : KeepsEntries f) :
    StraysInv (t.mapEntries f) := by
  have hset : ∀ i < 16, ∀ w, ((t.mapEntries f).set i).ways.get w = f ((t.set i).ways.get w) := fun i hi w =>
    (t.mapEntries_set f i (h.sets ▸ hi) w).2.1
  refine ⟨by simpa [Strays.mapEntries] using h.sets, fun i hi w hv => ?_, fun i hi v w hv hw hl hc => ?_, h.drops⟩
  · rw [hset i hi] at hv ⊢
    exact hf.entry i _ hv (h.entries i hi w (hf.valid _ hv))
  · rw [hset i hi] at hv hw hl hc
    rw [hset i hi, hf.leg, hf.leg] at hl
    rw [hset i hi, hf.cell, hf.cell] at hc
    exact h.tags i hi v w (hf.valid _ hv) (hf.valid _ hw) hl hc

theorem keepsEntries_clear (p : StrayEntry → Bool) :
    KeepsEntries fun e => if e.valid && p e then e.invalidate else e := by
  refine ⟨fun e => ?_, fun e => ?_, fun e => ?_, fun i e => ?_⟩ <;> split
  · exact fun h => absurd h Bool.false_ne_true
  · exact id
  · rfl
  · rfl
  · rfl
  · rfl
  · exact fun h => absurd h Bool.false_ne_true
  · exact fun _ => id

theorem keepsEntries_grow (g : LegId) (fed : List Nat) (limit : Nat) : KeepsEntries (StrayEntry.grow g fed limit) := by
  refine ⟨fun e => ?_, fun e => ?_, fun e => ?_, fun i e => ?_⟩ <;> unfold StrayEntry.grow <;> dsimp only <;> split
  · next hc => exact fun _ => by simp_all
  · exact id
  · split <;> rfl
  · rfl
  · split <;> rfl
  · rfl
  · next hc =>
    have hcand : e.state = .candidate := by simp_all
    split
    · exact fun h => absurd h Bool.false_ne_true
    · exact fun _ h => ⟨h.place, h.cell, h.sightings, fun hs => absurd (hcand.symm.trans hs) nofun⟩
  · exact fun _ => id

theorem StraysInv.afterReset {t : Strays} (h : StraysInv t) : StraysInv t.afterReset where
  sets := by simpa [Strays.afterReset, Strays.mapEntries] using h.sets
  entries i hi w hv := by
    rw [(t.afterReset_set i (h.sets ▸ hi) w).2.2.1] at hv
    exact absurd hv Bool.false_ne_true
  tags i hi v w hv := by
    rw [(t.afterReset_set i (h.sets ▸ hi) v).2.2.1] at hv
    exact absurd hv Bool.false_ne_true
  drops g := by
    rw [show t.afterReset.drops = Quad.all 0 from rfl, Quad.get_all]
    exact Nat.zero_le _

/-! ### A feed (R167 to R172) -/

/-- An entry written into a way of its cell's set, where no other way holds its tag. -/
theorem StraysInv.placed {t : Strays} (h : StraysInv t) {i : Nat} (hi : i < 16) (w : Fin 4) (c : Nat) {e : StrayEntry}
    (he : EntryInv i e) (hage : e.age = 0)
    (hother : ∀ v, v ≠ w → ((t.set i).ways.get v).valid = true → ((t.set i).ways.get v).leg = e.leg →
      ((t.set i).ways.get v).cell ≠ e.cell) : StraysInv (t.place i w c e).1 := by
  obtain ⟨hdrops, hlength, hsets, hways, -, -⟩ := t.place_placed (h.sets ▸ hi) w c e
  generalize (t.place i w c e).1 = u at hdrops hlength hsets hways
  refine ⟨hlength.trans h.sets, fun j hj v hv => ?_, fun j hj v x hv hx hl hc => ?_, fun g => hdrops ▸ h.drops g⟩
  · by_cases hji : j = i
    · subst hji
      rw [hways] at hv ⊢
      by_cases hvw : v = w
      · subst hvw
        rw [Quad.get_set_same]
        exact ⟨he.place, he.cell, he.sightings, fun _ => hage⟩
      · rw [Quad.get_set_other _ _ hvw] at hv ⊢
        exact h.entries j hj v hv
    · rw [hsets j hji] at hv ⊢
      exact h.entries j hj v hv
  · by_cases hji : j = i
    · subst hji
      rw [hways] at hv hx hl hc
      by_cases hvw : v = w <;> by_cases hxw : x = w
      · rw [hvw, hxw]
      · subst hvw
        rw [Quad.get_set_same, Quad.get_set_other _ _ hxw] at hl hc
        rw [Quad.get_set_other _ _ hxw] at hx
        exact absurd hc.symm (hother x hxw hx hl.symm)
      · subst hxw
        rw [Quad.get_set_same, Quad.get_set_other _ _ hvw] at hl hc
        rw [Quad.get_set_other _ _ hvw] at hv
        exact absurd hc (hother v hvw hv hl)
      · rw [Quad.get_set_other _ _ hvw, Quad.get_set_other _ _ hxw] at hl hc
        rw [Quad.get_set_other _ _ hvw] at hv
        rw [Quad.get_set_other _ _ hxw] at hx
        exact h.tags j hj v x hv hx hl hc
    · rw [hsets j hji] at hv hx hl hc
      exact h.tags j hj v x hv hx hl hc

theorem StraysInv.feed {t : Strays} (h : StraysInv t) (g : LegId) (d a time c : Nat) :
    StraysInv (t.feed g d a time c).1 := by
  have hi : d / 32 % 16 < 16 := Nat.mod_lt _ (by decide)
  cases hfind : (t.set (d / 32 % 16)).findWay (StrayEntry.hasTag g (d / 32)) with
  | some w =>
    rw [Strays.feed_hit hfind]
    have htag := List.find?_some (p := fun w => ((t.set (d / 32 % 16)).ways.get w).hasTag g (d / 32)) hfind
    obtain ⟨hv, hl, hc⟩ := StrayEntry.hasTag_iff.mp htag
    have he := h.entries _ hi w hv
    refine h.placed hi w c ⟨he.place, hc.symm, ⟨?_, satSucc_le _ _⟩, fun _ => rfl⟩ rfl fun v hvw hvalid hleg hcell =>
      hvw (h.tags _ hi v w hvalid hv hleg hcell)
    simp only [StrayEntry.hit, satSucc]
    omega
  | none =>
    have hmiss : ∀ w, ((t.set (d / 32 % 16)).ways.get w).hasTag g (d / 32) = false := fun w =>
      Bool.eq_false_iff.mpr (List.find?_eq_none.mp hfind w (mem_allLegs w))
    cases hfill : (t.set (d / 32 % 16)).fillWay with
    | some w =>
      rw [Strays.feed_fill hmiss hfill]
      refine h.placed hi w c ⟨rfl, rfl, ⟨le_rfl, Nat.one_le_ofNat⟩, fun _ => rfl⟩ rfl fun v _ hvalid hleg hcell => ?_
      exact absurd (StrayEntry.hasTag_iff.mpr ⟨hvalid, hleg, hcell⟩) (Bool.eq_false_iff.mp (hmiss v))
    | none =>
      rw [Strays.feed_drop hmiss hfill]
      refine ⟨h.sets, h.entries, h.tags, fun i => ?_⟩
      by_cases hig : i = g
      · subst hig
        rw [Quad.get_set_same]
        exact Nat.min_le_left ..
      · rw [Quad.get_set_other _ _ hig]
        exact h.drops i

/-! ### The operations that feed the table -/

theorem StrayInv.of_stray {s t : State} (h : StrayInv s) (ht : t.stray = s.stray) : StrayInv t := by
  rw [strayInv_iff] at h ⊢
  rwa [ht]

theorem feedStray_strayInv {s : State} (g : LegId) (d a : Nat) (h : StrayInv s) : StrayInv (feedStray g d a s) := by
  refine StrayInv.of_stray (s := s.setStray (s.stray.feed g d a s.time.timebase (s.legSettings g).confirmCount).1)
    (strayInv_iff.mpr ((strayInv_iff.mp h).feed ..)) ?_
  unfold feedStray
  dsimp only
  split <;> simp

theorem feedStrays_strayInv {s : State} (g : LegId) (ps : List Peak) (h : StrayInv s) : StrayInv (feedStrays g ps s) := by
  unfold feedStrays
  induction ps generalizing s with
  | nil => exact h
  | cons p ps ih => exact ih (feedStray_strayInv _ _ _ h)

theorem reconcile_strayInv {s : State} (id : Nat) (h : StrayInv s) : StrayInv (reconcile id s) := by
  cases hw : s.findSweep id with
  | none => rwa [reconcile_gone hw]
  | some w =>
    have hfed : StrayInv (feedStrays w.leg (matching w s).2 (reconciledElements w s)) :=
      feedStrays_strayInv _ _ (h.of_stray (by simp [reconciledElements]))
    have hlevel : StrayInv (reconciledLevel w s) := by
      rw [strayInv_iff, reconciledLevel, (levelDone_frame ..).2.2.2.2.2.2.2.2.2.2.2.2.2.2.2.1]
      exact (strayInv_iff.mp hfed).mapEntries (keepsEntries_grow ..)
    rw [reconcile_eq hw]
    dsimp only
    split <;> exact hlevel.of_stray (by simp)

theorem calFailed_strayInv {s : State} (id : Nat) (h : StrayInv s) : StrayInv (calFailed id s) :=
  reconcile_strayInv id (h.of_stray (by simp))

theorem afterRefinement_strayInv {s : State} (w : Sweep) (h : StrayInv s) : StrayInv (afterRefinement w s) := by
  unfold afterRefinement anchorSearch
  split
  · split
    · exact h
    · split
      · exact calFailed_strayInv _ h
      · split
        · exact calFailed_strayInv _ h
        · exact h.of_stray (by simp)
  · exact reconcile_strayInv _ h

theorem completeAnalysis_strayInv {s : State} (w : Sweep) (acc : List Nat) (h : StrayInv s) :
    StrayInv (completeAnalysis w acc s) := by
  unfold completeAnalysis
  dsimp only
  split
  · exact h.of_stray (by simp)
  · split
    · exact afterRefinement_strayInv _ (h.of_stray (by simp))
    · exact h.of_stray (by simp)

theorem handResult_strayInv {s : State} (j : Job) (h : StrayInv s) : StrayInv (handResult j s) := by
  unfold handResult
  split
  · split
    · dsimp only
      split
      · exact afterRefinement_strayInv _ (h.of_stray (by simp))
      · exact h.of_stray (by simp)
    · exact h
  · split
    · split
      · exact h.of_stray (by simp)
      · exact h
    · exact h
  · unfold judgeCal
    split
    · exact h
    · split
      · split
        · exact reconcile_strayInv _ (h.of_stray (by simp))
        · exact calFailed_strayInv _ h
      · exact calFailed_strayInv _ h

/-- Every block's commands keep the stray table. -/
theorem strayInv_blocks : BlocksKeep StrayInv := by
  constructor
  case elementPut =>
    intro s p h
    rcases serveElementPut_cases p s with e | ⟨g, id, kind, anchor, d, q, -, -, -, -, -, e⟩ <;> rw [e]
    · exact h
    · exact strayInv_iff.mpr ((strayInv_iff.mp h).mapEntries (keepsEntries_clear q))
  case strayClear => exact fun q h => strayInv_iff.mpr ((strayInv_iff.mp h).mapEntries (keepsEntries_clear q))
  case analysisEnds => exact fun n start acc _ h => completeAnalysis_strayInv _ _ (h.of_stray (by simp))
  case divisionEnds =>
    intro s r _ h
    have hidle : StrayInv ((s.atClock (r.startClock + r.job.cycles)).setDiv { s.div with running := none }) :=
      h.of_stray (by simp)
    exact (handResult_strayInv r.job hidle).of_stray rfl
  case scans =>
    intro s g levels h
    unfold scanned
    dsimp only
    split
    · exact h.of_stray (by simp [scanDue])
    · split <;> exact h.of_stray (by simp [scanDue])
  all_goals
    intros
    exact StrayInv.of_stray ‹_› (by simp [windowOpened, windowShut, windowLeft, burstBegun, listenBegun, acquisitionStopped,
      snapshotBegun, snapshotStopped, converted, editMap])

theorem step_keeps_strayInv {s t : State} (h : StrayInv s) (e : step s = .next t) : StrayInv t :=
  strayInv_blocks.step (fun _ h => h.of_stray rfl) (fun _ h => h.of_stray rfl) (fun h => strayInv_iff.mpr (strayInv_iff.mp h).afterReset) h e

/-- Settles O59: the two invariants, each kept by every block's commands. -/
theorem stepsKeepTheMapAndTheStrays : Obligations.StepsKeepTheMapAndTheStrays := by
  unfold Obligations.StepsKeepTheMapAndTheStrays
  exact ⟨fun _ _ => step_keeps_mapInv, fun _ _ => step_keeps_strayInv⟩

end Sys2Proof.Machine
end

section
/-! PROOFS. Every step keeps the legs, the plan and the calibrations in their ranges (R34, R41, R119 to R121). -/

namespace Sys2Proof.Machine

open Sys2Proof

/-! ### What the invariant reads -/

theorem LegInv.of_same {s t : State} (h : LegInv s) (hplan : t.plan = s.plan) (hlegs : t.legs = s.legs)
    (harith : t.arith = s.arith) : LegInv t where
  plan        := hplan ▸ h.plan
  level g     := by rw [State.leg, hlegs]; exact h.level g
  faults g    := by rw [State.leg, hlegs]; exact h.faults g
  settle g    := by rw [State.leg, hlegs]; exact h.settle g
  settings g  := by rw [State.leg, hlegs]; exact h.settings g
  hasCal g    := by rw [State.leg, hlegs, harith]; exact h.hasCal g
  speed g     := by rw [harith]; exact h.speed g
  temperature := harith ▸ h.temperature

@[simp] theorem State.setLeg_leg (s : State) (g i : LegId) (r : LegRecord) :
    (s.setLeg g r).leg i = if i = g then r else s.leg i := by
  unfold State.setLeg State.leg
  split
  · next h => subst h; simp
  · next h => simp [Quad.get_set_other _ _ h]

/-- The live fields of a leg within their ranges. -/
structure LegRecord.InRange (r : LegRecord) : Prop where
  level  : r.level ≤ 63
  faults : r.faults ≤ 15
  settle : r.settle ≤ 500

theorem LegInv.inRange {s : State} (h : LegInv s) (g : LegId) : (s.leg g).InRange := ⟨h.level g, h.faults g, h.settle g⟩

/-- A leg's live fields rewritten within their ranges, its settings kept. -/
theorem LegInv.setLeg {s : State} (h : LegInv s) (g : LegId) {r : LegRecord} (hr : r.InRange)
    (hsettings : r.settings = (s.leg g).settings) : LegInv (s.setLeg g r) where
  plan        := h.plan
  level i     := by rw [State.setLeg_leg]; split; exacts [hr.level, h.level i]
  faults i    := by rw [State.setLeg_leg]; split; exacts [hr.faults, h.faults i]
  settle i    := by rw [State.setLeg_leg]; split; exacts [hr.settle, h.settle i]
  settings i  := by
    rw [State.setLeg_leg]
    split
    · rw [hsettings]; exact h.settings g
    · exact h.settings i
  hasCal i    := by
    rw [State.setLeg_leg]
    split
    · next hi => rw [hsettings, hi]; exact h.hasCal g
    · exact h.hasCal i
  speed       := h.speed
  temperature := h.temperature

@[simp] theorem setCal_get (g i : LegId) (c : Cal) (s : State) :
    (setCal g c s).arith.cal.get i = if i = g then some c else s.arith.cal.get i := by
  unfold setCal
  split
  · next h => subst h; simp
  · next h => simp [Quad.get_set_other _ _ h]

@[simp] theorem setCal_leg (g i : LegId) (c : Cal) (s : State) : (setCal g c s).leg i = s.leg i := rfl

/-- Q_cal and T_cal of a leg written within their ranges. -/
theorem LegInv.setCal {s : State} (h : LegInv s) (g : LegId) {q : Nat} (hq : 9593 ≤ q ∧ q ≤ 19187) :
    LegInv (setCal g ⟨q, s.arith.temperature⟩ s) where
  plan        := h.plan
  level       := h.level
  faults      := h.faults
  settle      := h.settle
  settings    := h.settings
  hasCal i hi := by
    rw [setCal_get]
    split
    exacts [rfl, h.hasCal i hi]
  speed i c hc := by
    rw [setCal_get] at hc
    split at hc
    · rw [← Option.some.inj hc]
      exact ⟨hq.1, hq.2, h.temperature⟩
    · exact h.speed i c hc
  temperature := h.temperature

/-- New settings of a leg with the speed they give (R43, R119). -/
theorem LegInv.set {s : State} (h : LegInv s) (g : LegId) {t : Settings} (ht : t.allowed = true) {q : Nat}
    (hq : 9593 ≤ q ∧ q ≤ 19187) :
    LegInv (Machine.setCal g ⟨q, s.arith.temperature⟩ (s.setLeg g { s.leg g with settings := some t })) where
  plan        := h.plan
  level i     := by rw [setCal_leg, State.setLeg_leg]; split; exacts [h.level g, h.level i]
  faults i    := by rw [setCal_leg, State.setLeg_leg]; split; exacts [h.faults g, h.faults i]
  settle i    := by rw [setCal_leg, State.setLeg_leg]; split; exacts [h.settle g, h.settle i]
  settings i v := by
    rw [setCal_leg, State.setLeg_leg]
    split
    · exact fun hv => Option.some.inj hv ▸ ht
    · exact h.settings i v
  hasCal i    := by
    rw [setCal_leg, State.setLeg_leg, setCal_get]
    split
    exacts [fun _ => rfl, h.hasCal i]
  speed i c hc := by
    rw [setCal_get] at hc
    split at hc
    · rw [← Option.some.inj hc]
      exact ⟨hq.1, hq.2, h.temperature⟩
    · exact h.speed i c hc
  temperature := h.temperature

/-! ### Settings and speeds -/

theorem Settings.startLevel_le {t : Settings} (h : t.allowed = true) : t.startLevel ≤ 63 :=
  by
  obtain ⟨-, -, -, -, -, -, hlevel, -⟩ := (Settings.allowed_iff t).mp h
  exact hlevel

/-- Q_nom of an allowed VF_milli lies within the range of Q_cal (R41, R118). -/
theorem qNominal_range {vf : Nat} (hlo : 500 ≤ vf) (hhi : vf ≤ 1000) : 9593 ≤ qNominal vf ∧ qNominal vf ≤ 19187 := by
  unfold qNominal
  omega

theorem LegInv.startLevel {s : State} (h : LegInv s) (g : LegId) : (s.legSettings g).startLevel ≤ 63 := by
  unfold State.legSettings
  cases hset : (s.leg g).settings with
  | none => exact Nat.zero_le _
  | some t => exact Settings.startLevel_le (h.settings g t hset)

theorem serveLegSet_legInv {s : State} (p : List Byte) (h : LegInv s) : LegInv (serveLegSet p s).1 := by
  unfold serveLegSet
  split
  · exact h
  · next g _ =>
    dsimp only
    split
    · exact h
    · split
      · exact h
      · next hallowed =>
        have hallowed : (settingsOf p).allowed = true := by simpa using hallowed
        obtain ⟨-, -, -, -, -, -, -, -, -, -, -, hvf, -⟩ := (Settings.allowed_iff _).mp hallowed
        exact h.set g hallowed (qNominal_range hvf.1 hvf.2)

theorem serveLegEnable_legInv {s : State} (p : List Byte) (h : LegInv s) : LegInv (serveLegEnable p s).1 := by
  unfold serveLegEnable
  split
  · exact h
  · next g _ =>
    dsimp only
    split
    · exact h
    · exact h
    · exact (h.setLeg g (r := { s.leg g with
        state := .enabled, level := (s.legSettings g).startLevel, faults := 0, settle := 500 })
        ⟨h.startLevel g, Nat.zero_le _, le_rfl⟩ rfl).of_same (by simp) (by simp) (by simp)

theorem serveLegDisable_legInv {s : State} (p : List Byte) (h : LegInv s) : LegInv (serveLegDisable p s).1 := by
  unfold serveLegDisable
  split
  · exact h
  · next g _ =>
    dsimp only
    split
    · exact h
    · have hr := h.inRange g
      have hoff := h.setLeg g (r := { s.leg g with state := .off, settle := 0 }) ⟨hr.level, hr.faults, Nat.zero_le _⟩ rfl
      exact disableBlocks_keeps (P := LegInv) (fun _ _ h => h.of_same rfl rfl rfl)
        (fun t id h => h.of_same (by simp) (by simp) (by simp)) (fun t h => h.of_same (by simp) (by simp) (by simp))
        (fun t h => h.of_same (by simp) (by simp) (by simp)) _ (hoff.of_same rfl rfl rfl)

/-! ### The plan -/

theorem writeClasses_length {first : Nat} {cs stored : List BinClass} (hstored : stored.length = 64)
    (h : first + cs.length ≤ 64) : (writeClasses first cs stored).length = 64 := by
  simp only [writeClasses, List.length_append, List.length_take, List.length_drop, hstored]
  omega

theorem serveClassSet_legInv {s : State} (p : List Byte) (hp : p.length = 3 + field p 1 1) (h : LegInv s) :
    LegInv (serveClassSet p s).1 := by
  unfold serveClassSet
  dsimp only
  split
  · exact h
  · next hrange =>
    refine classBlocks_keeps (P := LegInv) (fun _ _ h => h.of_same rfl rfl rfl)
      (fun t id h => h.of_same (by simp) (by simp) (by simp)) (fun t h => h.of_same (by simp) (by simp) (by simp))
      (fun t h => h.of_same (by simp) (by simp) (by simp)) (fun t g h => h.of_same (by simp) (by simp) (by simp)) _ ?_
    have hlen : (classesOf p).length = field p 1 1 := by
      rw [classesOf, List.length_map, List.length_drop]
      omega
    have hplan : LegInv (s.setPlan ⟨writeClasses (field p 0 1) ((classesOf p).map (·.getD .fixed)) s.plan.stored,
        field p 2 1⟩) := by
      refine ⟨⟨writeClasses_length h.plan.1 ?_, ?_⟩, h.level, h.faults, h.settle, h.settings, h.hasCal, h.speed,
        h.temperature⟩
      · rw [List.length_map, hlen]
        omega
      · show field p 2 1 ≤ 64
        omega
    exact hplan.of_same (by simp) (by simp) (by simp)

/-! ### Reconciliation, analysis and calibration -/

theorem levelAfterDone_le (t : Settings) (m : AnchorMatch) {level : Nat} (h : level ≤ 63) :
    levelAfterDone t m level ≤ 63 := by
  have hup : levelUp t level ≤ 63 := Nat.min_le_left ..
  have hdown : levelDown t level ≤ 63 := (Nat.sub_le ..).trans h
  unfold levelAfterDone
  split
  · exact h
  · exact hup
  · split
    · exact hup
    · split
      · exact hdown
      · exact h

theorem faultsAfterDone_le (t : Settings) (m : AnchorMatch) (used faults : Nat) : faultsAfterDone t m used faults ≤ 15 := by
  unfold faultsAfterDone
  split
  · exact Nat.zero_le _
  all_goals
    split
    exacts [satSucc_le _ _, Nat.zero_le _]

/-- A leg fault changes the leg's state alone among the legs (R72). -/
theorem faultLeg_legs (g : LegId) (id : Nat) (s : State) :
    (faultLeg g id s).legs = (s.setLeg g { s.leg g with state := .faulted }).legs := by
  unfold faultLeg
  simp

/-- A leg's record after a reconciliation's level control (R158). -/
def judgedLeg (w : Sweep) (s : State) : LegRecord :=
  { s.leg w.leg with
    level  := levelAfterDone (s.legSettings w.leg) (anchorMatch (matching w s).1) (s.leg w.leg).level
    faults := faultsAfterDone (s.legSettings w.leg) (anchorMatch (matching w s).1) (w.levelUsed.getD 0) (s.leg w.leg).faults }

theorem reconciledLevel_legs (w : Sweep) (s : State) : (reconciledLevel w s).legs = (s.setLeg w.leg (judgedLeg w s)).legs := by
  unfold reconciledLevel levelDone State.setLeg judgedLeg
  simp [reconciledElements, State.leg, State.legSettings]

theorem LegInv.faultLeg {s : State} (h : LegInv s) (g : LegId) (id : Nat) : LegInv (faultLeg g id s) :=
  (h.setLeg g (r := { s.leg g with state := .faulted }) ⟨h.level g, h.faults g, h.settle g⟩ rfl).of_same (by simp) (faultLeg_legs g id s) (by simp)

theorem reconcile_legInv {s : State} (id : Nat) (h : LegInv s) : LegInv (reconcile id s) := by
  cases hw : s.findSweep id with
  | none => rwa [reconcile_gone hw]
  | some w =>
    have hr := h.inRange w.leg
    have hlevel : LegInv (reconciledLevel w s) :=
      (h.setLeg w.leg (r := judgedLeg w s) ⟨levelAfterDone_le _ _ hr.level, faultsAfterDone_le .., hr.settle⟩ rfl).of_same
        (by simp [reconciledLevel, reconciledElements]) (reconciledLevel_legs w s)
        (by simp [reconciledLevel, reconciledElements])
    have hended : ∀ m n, LegInv (endSweep id .done m n (reconciledLevel w s)) := fun m n =>
      hlevel.of_same (by simp) (by simp) (by simp)
    rw [reconcile_eq hw]
    dsimp only
    split
    · exact (hended _ _).faultLeg _ _
    · exact hended _ _

theorem calFailed_legInv {s : State} (id : Nat) (h : LegInv s) : LegInv (calFailed id s) :=
  reconcile_legInv id (h.of_same (by simp) (by simp) (by simp))

theorem afterRefinement_legInv {s : State} (w : Sweep) (h : LegInv s) : LegInv (afterRefinement w s) := by
  unfold afterRefinement anchorSearch
  split
  · split
    · exact h
    · split
      · exact calFailed_legInv _ h
      · split
        · exact calFailed_legInv _ h
        · exact h.of_same (by simp) (by simp) (by simp)
  · exact reconcile_legInv _ h

theorem judgeCal_legInv {s : State} (id anchorId distance : Nat) (result : Option (Nat × Nat)) (h : LegInv s) :
    LegInv (judgeCal id anchorId distance result s) := by
  unfold judgeCal
  split
  · exact h
  · next w _ =>
    split
    · split
      · next hq => exact reconcile_legInv _ ((h.setCal w.leg hq).of_same (by simp) (by simp) (by simp))
      · exact calFailed_legInv _ h
    · exact calFailed_legInv _ h

theorem completeAnalysis_legInv {s : State} (w : Sweep) (acc : List Nat) (h : LegInv s) : LegInv (completeAnalysis w acc s) := by
  unfold completeAnalysis
  dsimp only
  generalize hu : flagSweep w.id _ (mapContent w.slot _ s) = u
  have h : LegInv u := by subst hu; exact h.of_same (by simp) (by simp) (by simp)
  split
  · have hr := h.inRange w.leg
    exact (h.setLeg w.leg (r := { u.leg w.leg with level := levelDown (u.legSettings w.leg) (u.leg w.leg).level })
      ⟨(Nat.sub_le ..).trans hr.level, hr.faults, hr.settle⟩ rfl).of_same (by simp) (by simp [levelClipped]) (by simp)
  · split
    · exact afterRefinement_legInv w h
    · exact h.of_same (by simp) (by simp) (by simp)

theorem handResult_legInv {s : State} (j : Job) (h : LegInv s) : LegInv (handResult j s) := by
  unfold handResult
  split
  · split
    · split
      · exact afterRefinement_legInv _ (h.of_same (by simp) (by simp) (by simp))
      · exact h.of_same (by simp) (by simp) (by simp)
    · exact h
  · split
    · split
      · exact h.of_same (by simp) (by simp) (by simp)
      · exact h
    · exact h
  · exact judgeCal_legInv _ _ _ _ h

theorem divisionDone_legInv {s : State} (r : Running) (h : LegInv s) : LegInv (divisionDone r s) := by
  have handed : LegInv (divisionHanded r s) := handResult_legInv r.job (h.of_same (by simp) (by simp) (by simp))
  exact handed.of_same rfl rfl rfl

theorem scanned_legInv {s : State} (g : LegId) (levels : List Int) (h : LegInv s) : LegInv (scanned g levels s) := by
  have due : LegInv (scanDue g s) := h.of_same (by simp [scanDue]) (by simp [scanDue]) (by simp [scanDue])
  have hleg : (scanDue g s).leg g = s.leg g := by simp [scanDue, State.leg]
  unfold scanned
  dsimp only
  split
  · exact due
  · split
    · have hr := h.inRange g
      exact due.setLeg g ⟨hr.level, hr.faults, (Nat.sub_le ..).trans hr.settle⟩ (by rw [hleg])
    · exact due.of_same (by simp) (by simp) (by simp)

theorem converted_legInv {s : State} (sensor : Int) (h : LegInv s) : LegInv (converted sensor s) where
  plan        := h.plan
  level       := h.level
  faults      := h.faults
  settle      := h.settle
  settings    := h.settings
  hasCal      := h.hasCal
  speed       := h.speed
  temperature := clampInt_range (by decide) sensor

/-! ### Every step -/

theorem legInv_blocks : BlocksKeep LegInv := by
  constructor
  case legSet => exact fun p h => serveLegSet_legInv p h
  case legEnable => exact fun p h => serveLegEnable_legInv p h
  case legDisable => exact fun p h => serveLegDisable_legInv p h
  case classSet => exact fun p hp h => serveClassSet_legInv p hp h
  case analysisEnds =>
    intro s w id n start acc _ h
    exact completeAnalysis_legInv w acc (h.of_same (by simp) (by simp) (by simp))
  case divisionEnds => exact fun _ h => divisionDone_legInv _ h
  case scans => exact fun g levels h => scanned_legInv g levels h
  case converts => exact fun sensor h => converted_legInv sensor h
  all_goals
    intros
    rename_i h
    refine h.of_same ?_ ?_ ?_ <;>
      simp [editMap, windowOpened, windowShut, windowLeft, burstBegun, listenBegun, acquisitionStopped, snapshotBegun, snapshotStopped]

theorem legInv_reset : LegInv State.reset := by
  have hcal : ∀ g, State.reset.arith.cal.get g = none := fun g => Quad.get_all _ g
  refine ⟨by decide, fun g => ?_, fun g => ?_, fun g => ?_, fun g t ht => ?_, fun g hg => ?_, fun g c hc => ?_, by decide⟩
  · simp [reset_leg, LegRecord.reset]
  · simp [reset_leg, LegRecord.reset]
  · simp [reset_leg, LegRecord.reset]
  · simp [reset_leg, LegRecord.reset] at ht
  · simp [reset_leg, LegRecord.reset] at hg
  · simp [hcal] at hc

/-- Settles O56: each request and event keeps the legs, the plan and the calibrations within their ranges. -/
theorem stepsKeepTheLegs : Obligations.StepsKeepTheLegs := by
  unfold Obligations.StepsKeepTheLegs
  intro s t h e
  exact legInv_blocks.step (fun _ h => h.of_same rfl rfl rfl) (fun _ h => h.of_same rfl rfl rfl)
    (fun _ => legInv_reset.of_same rfl rfl rfl) h e

end Sys2Proof.Machine
end

section
/-! PROOFS. Every step keeps the window table (R22, R23, R32). -/

namespace Sys2Proof.Machine

open Sys2Proof

/-! ### The windows granted, without their counts of acquisitions -/

/-- A window without its count of acquisitions made. -/
def Window.bare (w : Window) : Window := { w with made := 0 }

/-- The windows granted: all that R22 speaks of, and all that the legs and the gate read of the table. -/
def State.grants (s : State) : Windows := ⟨s.win.table.map Window.bare, s.win.nextId⟩

@[simp] theorem Window.counted_bare (w : Window) : w.counted.bare = w.bare := by unfold Window.counted; split <;> rfl

theorem grants_of_win {s t : State} (h : t.win = s.win) : t.grants = s.grants := by rw [State.grants, h, State.grants]

@[simp] theorem countAcquisition_grants (s : State) : (countAcquisition s).grants = s.grants := by
  rw [State.grants, countAcquisition_win, List.map_map]
  exact congrArg (Windows.mk · s.win.nextId) (List.map_congr_left fun w _ => w.counted_bare)

@[simp] theorem choose_grants (s : State) : (choose s).grants = s.grants := by
  rcases choose_win s with h | h
  · exact grants_of_win h
  · exact (grants_of_win h).trans (countAcquisition_grants s)

theorem together_grants {blocks : List (List (State → State))} {s : State}
    (h : ∀ b ∈ blocks, ∀ f ∈ b, ∀ t, (f t).grants = t.grants) : (together blocks s).grants = s.grants :=
  together_keeps (P := fun t => t.grants = s.grants) (fun _ _ e => e) blocks s (fun b hb f hf t e => (h b hb f hf t).trans e) rfl

@[simp] theorem endSweep_grants (id : Nat) (o : SweepOutcome) (m n : Nat) (s : State) : (endSweep id o m n s).grants = s.grants := by
  unfold endSweep
  split
  · rfl
  · dsimp only
    split
    · rw [choose_grants]; exact grants_of_win (by simp)
    · exact grants_of_win (by simp)

@[simp] theorem endSweeps_grants (o : SweepOutcome) (ids : List Nat) (s : State) : (endSweeps o ids s).grants = s.grants := by
  unfold endSweeps
  induction ids generalizing s with
  | nil => rfl
  | cons id ids ih => rw [List.foldl_cons, ih, endSweep_grants]

@[simp] theorem faultLeg_grants (g : LegId) (id : Nat) (s : State) : (faultLeg g id s).grants = s.grants := by
  unfold faultLeg
  rw [choose_grants, endSweeps_grants]
  exact grants_of_win (by simp)

@[simp] theorem openRecord_grants (g : LegId) (r : BurstRecord) (s : State) : (openRecord g r s).grants = s.grants := by
  unfold openRecord
  (repeat' split)
  on_goal 4 => rw [choose_grants]
  all_goals exact grants_of_win (by simp)

@[simp] theorem scanRecord_grants (g : LegId) (v : List (Option Int)) (b : List Detector) (s : State) :
    (scanRecord g v b s).grants = s.grants := by
  unfold scanRecord
  dsimp only
  (repeat' split)
  on_goal 3 => rw [openRecord_grants]
  all_goals exact grants_of_win (by simp)

@[simp] theorem readingScan_grants (g : LegId) (held : Bool) (levels : List Int) (s : State) :
    (readingScan g held levels s).grants = s.grants := by
  have hclose : ∀ u : State, (scanClose g u).grants = u.grants := fun u => grants_of_win (by simp)
  unfold readingScan
  rw [hclose, scanRecord_grants]
  exact grants_of_win (by simp)

@[simp] theorem cancelPairing_grants (g : LegId) (s : State) : (cancelPairing g s).grants = s.grants := by
  unfold cancelPairing
  split
  · rfl
  · split
    · dsimp only
      split
      · rw [choose_grants]; exact grants_of_win (by simp)
      · exact grants_of_win (by simp)
    · rfl

@[simp] theorem disableIngress_grants (g : LegId) (s : State) : (disableIngress g s).grants = s.grants := by
  have h : (disableIngress g s).grants = (cancelPairing g (fileRecord g false true s.time.timebase s)).grants :=
    grants_of_win (by simp [disableIngress])
  rw [h, cancelPairing_grants]
  exact grants_of_win (by simp)

@[simp] theorem informClosing_grants (r : Report) (s : State) : (informClosing r s).grants = s.grants := by
  unfold informClosing
  split
  · rw [choose_grants]; exact grants_of_win (by simp)
  · exact together_grants (closingBlocks_forall (Q := fun f => ∀ t, (f t).grants = t.grants)
      (fun t => grants_of_win (by simp)) choose_grants fun g t => grants_of_win (by simp))

@[simp] theorem disableWork_grants (g : LegId) (s : State) : (disableWork g s).grants = s.grants :=
  disableBlocks_keeps (P := fun t => t.grants = s.grants) (fun _ _ h => h) (fun t id h => by rw [endSweep_grants, h])
    (fun t h => by rw [choose_grants, h]) (fun t h => by rw [disableIngress_grants, h]) s rfl

theorem classBlocks_grants (s : State) : (together (classActions s :: quietBlocks s) s).grants = s.grants :=
  classBlocks_keeps (P := fun t => t.grants = s.grants) (fun _ _ h => h) (fun t id h => by rw [endSweep_grants, h])
    (fun t h => h ▸ grants_of_win (by simp)) (fun t h => by rw [choose_grants, h])
    (fun t g h => h ▸ grants_of_win (by simp)) s rfl

@[simp] theorem reconcile_grants (id : Nat) (s : State) : (reconcile id s).grants = s.grants := by
  cases hw : s.findSweep id with
  | none => rw [reconcile_gone hw]
  | some w =>
    have h : (reconciledLevel w s).grants = s.grants := grants_of_win (by simp [reconciledLevel, reconciledElements])
    rw [reconcile_eq hw]
    dsimp only
    split <;> simp [h]

@[simp] theorem calFailed_grants (id : Nat) (s : State) : (calFailed id s).grants = s.grants :=
  (reconcile_grants id _).trans (grants_of_win (by simp))

@[simp] theorem anchorSearch_grants (id : Nat) (s : State) : (anchorSearch id s).grants = s.grants := by
  unfold anchorSearch
  split
  · rfl
  · split
    · exact calFailed_grants id s
    · split
      · exact calFailed_grants id s
      · exact grants_of_win (by simp)

@[simp] theorem afterRefinement_grants (w : Sweep) (s : State) : (afterRefinement w s).grants = s.grants := by
  unfold afterRefinement
  split
  · exact anchorSearch_grants ..
  · exact reconcile_grants ..

@[simp] theorem judgeCal_grants (id a d : Nat) (r : Option (Nat × Nat)) (s : State) : (judgeCal id a d r s).grants = s.grants := by
  unfold judgeCal
  split
  · rfl
  · split
    · split
      · rw [reconcile_grants]; exact grants_of_win (by simp)
      · exact calFailed_grants ..
    · exact calFailed_grants ..

@[simp] theorem completeAnalysis_grants (w : Sweep) (acc : List Nat) (s : State) : (completeAnalysis w acc s).grants = s.grants := by
  unfold completeAnalysis
  dsimp only
  split
  · rw [endSweep_grants]; exact grants_of_win (by simp)
  · split
    · rw [afterRefinement_grants]; exact grants_of_win (by simp)
    · exact grants_of_win (by simp)

@[simp] theorem handResult_grants (j : Job) (s : State) : (handResult j s).grants = s.grants := by
  unfold handResult
  split
  · split
    · split
      · rw [afterRefinement_grants]; exact grants_of_win (by simp)
      · exact grants_of_win (by simp)
    · rfl
  · split
    · split
      · exact grants_of_win (by simp)
      · rfl
    · rfl
  · exact judgeCal_grants ..

@[simp] theorem divisionDone_grants (r : Running) (s : State) : (divisionDone r s).grants = s.grants := by
  have h : (divisionDone r s).grants = (divisionHanded r s).grants := rfl
  rw [h, divisionHanded, handResult_grants]
  exact grants_of_win (by simp)

@[simp] theorem scanned_grants (g : LegId) (levels : List Int) (s : State) : (scanned g levels s).grants = s.grants := by
  have hdue : (scanDue g s).grants = s.grants := grants_of_win (by simp [scanDue])
  unfold scanned
  dsimp only
  split
  · exact hdue
  · split
    · exact (grants_of_win (by simp)).trans hdue
    · rw [readingScan_grants, hdue]

@[simp] theorem serveLegEnable_grants (p : List Byte) (s : State) : (serveLegEnable p s).1.grants = s.grants := by
  unfold serveLegEnable
  split
  · rfl
  · dsimp only
    split
    · rfl
    · rfl
    · exact (choose_grants _).trans (grants_of_win (by simp))

@[simp] theorem serveLegDisable_grants (p : List Byte) (s : State) : (serveLegDisable p s).1.grants = s.grants := by
  unfold serveLegDisable
  split
  · rfl
  · next g _ =>
    dsimp only
    split
    · rfl
    · exact (disableWork_grants g _).trans (grants_of_win (by simp))

@[simp] theorem serveClassSet_grants (p : List Byte) (s : State) : (serveClassSet p s).1.grants = s.grants := by
  unfold serveClassSet
  dsimp only
  split
  · rfl
  · exact (classBlocks_grants _).trans (grants_of_win (by simp))

@[simp] theorem serveSweepReq_grants (p : List Byte) (s : State) : (serveSweepReq p s).1.grants = s.grants := by
  unfold serveSweepReq
  dsimp only
  (repeat' split)
  on_goal 6 => exact (choose_grants _).trans (grants_of_win (by simp))
  all_goals rfl

@[simp] theorem serveSweepCancel_grants (p : List Byte) (s : State) : (serveSweepCancel p s).1.grants = s.grants := by
  unfold serveSweepCancel
  split
  · rfl
  · exact endSweep_grants ..

@[simp] theorem afterJob_grants (s : State) : (afterJob s).grants = s.grants :=
  (choose_grants _).trans (grants_of_win (by simp))

/-! ### The invariant, by the windows granted -/

theorem windowInv_iff_grants (s : State) : WindowInv s ↔ WindowInv (s.setWin s.grants) := by
  have hopen : (s.grants.table.filter fun w => w.state == .opened).length =
      (s.win.table.filter fun w => w.state == .opened).length := by
    rw [State.grants, List.filter_map, List.length_map]; rfl
  have hids : s.grants.table.map (·.id) = s.win.table.map (·.id) := List.map_map
  constructor
  · intro h
    refine ⟨(List.length_map ..).trans_le h.room, ?_, ?_, hids ▸ h.ids, ?_, h.nextId, hopen ▸ h.oneOpen⟩
    · exact List.forall_mem_map.mpr h.spans
    · exact List.pairwise_map.mpr h.ordered
    · exact List.forall_mem_map.mpr h.idRange
  · intro h
    refine ⟨(List.length_map ..).symm.trans_le h.room, ?_, ?_, hids ▸ h.ids, ?_, h.nextId, hopen ▸ h.oneOpen⟩
    · exact List.forall_mem_map.mp h.spans
    · exact List.pairwise_map.mp h.ordered
    · exact List.forall_mem_map.mp h.idRange

theorem WindowInv.of_grants {s t : State} (h : WindowInv s) (e : t.grants = s.grants) : WindowInv t := by
  rw [windowInv_iff_grants] at h ⊢
  exact h.of_win e

/-! ### Windows leave, join and open -/

@[simp] theorem State.setTable_win (s : State) (table : List Window) : (s.setTable table).win = ⟨table, s.win.nextId⟩ := rfl

theorem WindowInv.sublist {s : State} (h : WindowInv s) {table : List Window} (hs : table.Sublist s.win.table) :
    WindowInv (s.setTable table) where
  room    := hs.length_le.trans h.room
  spans   := fun w hw => h.spans w (hs.subset hw)
  ordered := h.ordered.sublist hs
  ids     := h.ids.sublist (hs.map _)
  idRange := fun w hw => h.idRange w (hs.subset hw)
  nextId  := h.nextId
  oneOpen := (hs.filter _).length_le.trans h.oneOpen

/-- The table with the window of an id opened. -/
def openedTable (id : Nat) (table : List Window) : List Window := table.map fun w => if w.id = id then w.opens else w

/-- The window of an id opens while none is OPEN. -/
theorem WindowInv.opened {s : State} (h : WindowInv s) (hnone : s.openWindow = none) (id : Nat) :
    WindowInv (s.setTable (openedTable id s.win.table)) := by
  rw [State.openWindow_eq_none] at hnone
  have hkeep : ∀ w : Window, (if w.id = id then w.opens else w).start = w.start ∧
      (if w.id = id then w.opens else w).stop = w.stop ∧ (if w.id = id then w.opens else w).id = w.id := fun w => by
    split <;> simp [Window.opens]
  refine ⟨(List.length_map ..).trans_le h.room, ?_, ?_, ?_, ?_, h.nextId, ?_⟩
  · simpa [openedTable, hkeep] using h.spans
  · simpa [openedTable, hkeep, List.pairwise_map] using h.ordered
  · simpa [openedTable, hkeep, List.map_map, Function.comp_def] using h.ids
  · simpa [openedTable, hkeep] using h.idRange
  · have hnamed : ∀ w ∈ s.win.table, ((if w.id = id then w.opens else w).state == .opened) = (w.id == id) := fun w hw => by
      split
      · next hid => simp [Window.opens, hid]
      · next hid => simpa [hid] using hnone w hw
    calc ((openedTable id s.win.table).filter fun w => w.state == .opened).length
        = (s.win.table.filter fun w => w.id == id).length := by
          rw [openedTable, List.filter_map, List.length_map]
          exact congrArg List.length (List.filter_congr hnamed)
      _ = (s.win.table.map (·.id)).count id := by
          rw [List.count, List.countP_map, List.countP_eq_length_filter]; rfl
      _ ≤ 1 := List.nodup_iff_count_le_one.mp h.ids id

theorem WindowInv.openWindowAt {s : State} (h : WindowInv s) (hnone : s.openWindow = none) (id : Nat) :
    WindowInv (openWindowAt id s) :=
  (h.opened hnone id).of_grants (choose_grants _)

/-- A window that R24 accepts joins the table (R22, R25). -/
theorem WindowInv.join {s : State} (h : WindowInv s) {w : Window} (hspan : w.start < w.stop)
    (hclash : ∀ x ∈ s.win.table, ¬ (w.start < x.stop ∧ x.start < w.stop)) (hroom : s.win.table.length < 4)
    (hnew : ∀ x ∈ s.win.table, x.id ≠ w.id) (hid : 1 ≤ w.id ∧ w.id ≤ 255) (hpending : w.state = .pending) :
    WindowInv (s.joined w) := by
  obtain ⟨before, rest, htable, hbefore, hrest, hins⟩ := insertWindow_split w s.win.table
  have hperm : (insertWindow w s.win.table).Perm (w :: s.win.table) := by
    rw [hins, htable]; exact List.perm_middle
  have hmem : ∀ x, x ∈ insertWindow w s.win.table ↔ x = w ∨ x ∈ s.win.table := fun x => by
    rw [hperm.mem_iff, List.mem_cons]
  refine ⟨?_, ?_, ?_, ?_, ?_, ?_, ?_⟩
  · exact hperm.length_eq.trans_le (Nat.succ_le_of_lt hroom)
  · intro x hx
    rcases (hmem x).mp hx with rfl | hx
    exacts [hspan, h.spans x hx]
  · have hord := h.ordered
    have hlast : ∀ x ∈ before, x.stop ≤ w.start := fun x hx => by
      have hx' : x ∈ s.win.table := htable ▸ List.mem_append_left _ hx
      have := hclash x hx'
      have := hbefore x hx
      omega
    have hnext : ∀ x ∈ rest, w.stop ≤ x.start := fun x hx => by
      have hx' : x ∈ s.win.table := htable ▸ List.mem_append_right _ hx
      have hlate : w.start < x.stop := by
        cases rest with
        | nil => cases hx
        | cons y ys =>
          have hy : y ∈ s.win.table := htable ▸ List.mem_append_right _ List.mem_cons_self
          have hfirst := hrest y rfl
          rcases List.mem_cons.mp hx with rfl | hx
          · exact hfirst.trans (h.spans x hy)
          · rw [htable, List.pairwise_append, List.pairwise_cons] at hord
            exact (hfirst.trans (h.spans y hy)).trans_le ((hord.2.1.1 x hx).trans (h.spans x hx').le)
      have := hclash x hx'
      omega
    show (insertWindow w s.win.table).Pairwise fun v w => v.stop ≤ w.start
    rw [hins, List.pairwise_append, List.pairwise_cons]
    rw [htable, List.pairwise_append] at hord
    refine ⟨hord.1, ⟨hnext, hord.2.1⟩, fun x hx y hy => ?_⟩
    rcases List.mem_cons.mp hy with rfl | hy
    exacts [hlast x hx, hord.2.2 x hx y hy]
  · show ((insertWindow w s.win.table).map (·.id)).Nodup
    rw [(hperm.map _).nodup_iff, List.map_cons, List.nodup_cons, List.mem_map]
    exact ⟨fun ⟨x, hx, hid⟩ => hnew x hx hid, h.ids⟩
  · intro x hx
    rcases (hmem x).mp hx with rfl | hx
    exacts [hid, h.idRange x hx]
  · show 1 ≤ nextIdAfter w.id ∧ nextIdAfter w.id ≤ 255
    have := hid.1
    have := hid.2
    unfold nextIdAfter
    split
    · decide
    · next hne => simp only [beq_iff_eq] at hne; omega
  · show ((insertWindow w s.win.table).filter fun w => w.state == .opened).length ≤ 1
    rw [(hperm.filter _).length_eq, List.filter_cons_of_neg (by simp [hpending])]
    exact h.oneOpen

/-- An id given lies in 1..255 (R23, R52). -/
theorem allocateId_range {n next : Nat} {used : List Nat} (h1 : 1 ≤ next) (h2 : next ≤ 255) :
    1 ≤ allocateId n next used ∧ allocateId n next used ≤ 255 := by
  obtain ⟨k, -, hk, -⟩ := allocateId_search n next used
  rw [hk, nextIdAfter_iterate h1 h2]
  omega

/-! ### The requests and the events of the window scheduler -/

theorem serveWindowGrant_windowInv {s : State} (p : List Byte) (h : WindowInv s) : WindowInv (serveWindowGrant p s).1 := by
  have hp : CarriesGrant p (field p 0 6) (field p 6 4) (field p 10 1) := ⟨rfl, rfl, rfl⟩
  generalize field p 0 6 = start at hp
  generalize field p 6 4 = length at hp
  generalize field p 10 1 = legs at hp
  by_cases hrange : grantOutOfRange start length legs
  · rwa [serveWindowGrant_badValue hp hrange]
  by_cases htime : start < s.time.timebase
  · rwa [serveWindowGrant_late hp hrange htime]
  have htime := Nat.le_of_not_lt htime
  by_cases hclash : ∃ w ∈ s.win.table, start < w.stop ∧ w.start < start + length
  · rwa [serveWindowGrant_overlap hp hrange htime hclash]
  by_cases hroom : s.win.table.length < 4
  · have hjoin : WindowInv (s.joined (grantedWindow start length legs s)) :=
      h.join (Nat.lt_add_of_pos_right (by unfold grantOutOfRange at hrange; omega))
        (fun x hx hover => hclash ⟨x, hx, hover⟩) hroom (grantedWindow_id_fresh h start length legs)
        (allocateId_range h.nextId.1 h.nextId.2) rfl
    rw [serveWindowGrant_accepted hp hrange htime hclash hroom]
    dsimp only
    split
    · next hnow =>
      refine hjoin.openWindowAt ?_ _
      have hnone := (State.openWindow_eq_none s).mp (Option.isNone_iff_eq_none.mp hnow.2)
      obtain ⟨before, rest, htable, -, -, hins⟩ := insertWindow_split (grantedWindow start length legs s) s.win.table
      refine (State.openWindow_eq_none _).mpr fun x hx => ?_
      have hx : x ∈ insertWindow (grantedWindow start length legs s) s.win.table := hx
      rw [hins, List.perm_middle.mem_iff, ← htable, List.mem_cons] at hx
      rcases hx with rfl | hx
      exacts [nofun, hnone x hx]
    · exact hjoin
  · rwa [serveWindowGrant_noRoom hp hrange htime hclash (Nat.le_of_not_lt hroom)]

theorem serveWindowRevoke_windowInv {s : State} (p : List Byte) (h : WindowInv s) : WindowInv (serveWindowRevoke p s).1 := by
  unfold serveWindowRevoke
  split
  · exact h
  · next w _ =>
    have hleft := h.sublist (List.filter_sublist (p := fun x => x.id != w.id))
    dsimp only
    split
    · exact hleft
    · exact hleft.of_grants ((informClosing_grants _ _).trans (grants_of_win (by simp)))

theorem missWindows_win (before after : Nat) (s : State) :
    (missWindows before after s).win = (s.setTable (s.win.table.filter fun w => decide (after < w.stop))).win := by
  unfold missWindows
  dsimp only
  generalize s.setTable _ = u
  generalize s.win.table.filter _ = missed
  induction missed generalizing u with
  | nil => rfl
  | cons w missed ih => rw [List.foldl_cons, ih]; simp

theorem serveTimeSet_windowInv {s : State} (p : List Byte) (h : WindowInv s) : WindowInv (serveTimeSet p s).1 := by
  unfold serveTimeSet
  dsimp only
  split
  · exact h
  · next hopen =>
    generalize hu : missWindows _ _ _ = u
    have hwin : u.win = (s.setTable (s.win.table.filter fun w => decide (field p 0 6 < w.stop))).win := by
      rw [← hu, missWindows_win]; simp
    have hinv : WindowInv u := (h.sublist List.filter_sublist).of_win hwin
    have hnone : u.openWindow = none := by
      have hnone := (State.openWindow_eq_none s).mp (by simpa using hopen)
      refine (State.openWindow_eq_none u).mpr fun w hw => hnone w ?_
      rw [hwin] at hw
      exact List.mem_of_mem_filter hw
    unfold openStraddling
    split
    · exact hinv.openWindowAt hnone _
    · exact hinv

theorem openWindow_of_nextToOpen {s : State} {w : Window} (h : nextToOpen s = some w) :
    s.openWindow = none ∧ s.win.table.head? = some w := by
  unfold nextToOpen at h
  split at h
  · cases h
  · next hopen => exact ⟨by simpa using hopen, h⟩

theorem windowOpened_windowInv {s : State} {w : Window} (hw : nextToOpen s = some w) (h : WindowInv s) :
    WindowInv (windowOpened w s) :=
  (h.of_win rfl : WindowInv (s.passTo (s.time.reachTimebase w.start))).openWindowAt (openWindow_of_nextToOpen hw).1 w.id

/-- A record found OPEN is the OPEN window. -/
theorem WindowInv.openWindow_unique {s : State} (h : WindowInv s) {w x : Window} (hw : s.openWindow = some w)
    (hx : x ∈ s.win.table) (hxo : x.state = .opened) : x = w := by
  have hmem : ∀ y ∈ s.win.table, y.state = .opened → y ∈ s.win.table.filter fun y => y.state == .opened := fun y hy ho =>
    List.mem_filter.mpr ⟨hy, by simp [ho]⟩
  have hwm := hmem w (List.mem_of_find?_eq_some hw) (by simpa using List.find?_some hw)
  have hxm := hmem x hx hxo
  obtain ⟨y, hy⟩ := List.length_eq_one_iff.mp (Nat.le_antisymm h.oneOpen (List.length_pos_of_mem hwm))
  rw [hy, List.mem_singleton] at hwm hxm
  rw [hwm, hxm]

/-- The table after a close: the adjacent window, if there is one, has opened (R27). -/
theorem closedTable_eq {table : List Window} (hids : (table.map (·.id)).Nodup) (stop : Nat) :
    closedTable stop table = table ∨ ∃ id, closedTable stop table = openedTable id table := by
  unfold closedTable
  split
  · next w rest =>
    split
    · refine .inr ⟨w.id, ?_⟩
      rw [List.map_cons, List.nodup_cons, List.mem_map] at hids
      rw [openedTable, List.map_cons, if_pos rfl]
      refine congrArg _ ((List.map_congr_left fun x hx => if_neg fun hid => hids.1 ⟨x, hx, hid⟩).trans rest.map_id).symm
    · exact .inl rfl
  · exact .inl rfl

theorem windowShut_windowInv {s : State} {w : Window} (hw : s.openWindow = some w) (h : WindowInv s) :
    WindowInv (windowShut w s) := by
  have hleft := h.sublist (List.filter_sublist (p := fun x => x.id != w.id))
  have hnone : (s.setTable (s.win.table.filter fun x => x.id != w.id)).openWindow = none := by
    refine (State.openWindow_eq_none _).mpr fun x hx ho => ?_
    obtain ⟨hx, hid⟩ := List.mem_filter.mp hx
    rw [h.openWindow_unique hw hx ho] at hid
    simp at hid
  have hshut : (windowShut w s).grants =
      (s.setTable (closedTable w.stop (s.win.table.filter fun x => x.id != w.id))).grants :=
    (informClosing_grants _ _).trans (grants_of_win (by simp [windowLeft]))
  refine WindowInv.of_grants ?_ hshut
  rcases closedTable_eq hleft.ids w.stop with e | ⟨id, e⟩
  · simp only [State.setTable_win] at e
    rw [e]
    exact hleft
  · simp only [State.setTable_win] at e
    rw [e]
    exact hleft.opened hnone id

/-! ### Every step -/

theorem windowInv_blocks : BlocksKeep WindowInv := by
  constructor
  case timeSet => exact fun p h => serveTimeSet_windowInv p h
  case windowGrant => exact fun p h => serveWindowGrant_windowInv p h
  case windowRevoke => exact fun p h => serveWindowRevoke_windowInv p h
  case windowOpens => exact fun hw h => windowOpened_windowInv hw h
  case windowShuts => exact fun hw h => windowShut_windowInv hw h
  case legEnable => exact fun p h => h.of_grants (serveLegEnable_grants p _)
  case legDisable => exact fun p h => h.of_grants (serveLegDisable_grants p _)
  case classSet => exact fun p _ h => h.of_grants (serveClassSet_grants p _)
  case sweepReq => exact fun p h => h.of_grants (serveSweepReq_grants p _)
  case sweepCancel => exact fun p h => h.of_grants (serveSweepCancel_grants p _)
  case acquisitionEnds => exact fun _ _ h => h.of_grants ((choose_grants _).trans (grants_of_win (by simp [acquisitionStopped])))
  case snapshotEnds => exact fun _ h => h.of_grants ((choose_grants _).trans (grants_of_win (by simp [snapshotStopped])))
  case acquisitionAdds => exact fun _ _ _ _ _ h => h.of_grants ((afterJob_grants _).trans (grants_of_win (by simp)))
  case snapshotSearches => exact fun _ _ _ _ h => h.of_grants ((afterJob_grants _).trans (grants_of_win (by simp)))
  case analysisEnds => exact fun _ _ _ _ h => h.of_grants ((completeAnalysis_grants _ _ _).trans (grants_of_win (by simp)))
  case divisionEnds => exact fun _ h => h.of_grants (divisionDone_grants _ _)
  case scans => exact fun g levels h => h.of_grants (scanned_grants g levels _)
  all_goals
    intros
    rename_i h
    refine h.of_win ?_
    simp [editMap, burstBegun, listenBegun, snapshotBegun, converted]

theorem windowInv_reset : WindowInv State.reset := by constructor <;> decide

/-- Settles O55: each request and event keeps the window table as R22 says. -/
theorem stepsKeepTheWindows : Obligations.StepsKeepTheWindows := by
  unfold Obligations.StepsKeepTheWindows
  intro s t h e
  exact windowInv_blocks.step (fun _ h => h.of_win rfl) (fun _ h => h.of_win rfl) (fun _ => windowInv_reset.of_win rfl) h e

end Sys2Proof.Machine
end

section
/-! PROOFS. The records of the sweep queue and the jobs of the divider, and how every step keeps both queues (R51, R52, R110,
R111). -/

namespace Sys2Proof.Machine

open Sys2Proof

/-! ### The records, without what a choice of an acquisition may change -/

/-- What a choice leaves of a record (R57). -/
def Sweep.kept (w : Sweep) : Sweep :=
  { w with started := 0, levelUsed := none, state := if w.state = .analysing then .analysing else .queued }

/-- The sweep queue and its next id, without what a choice of an acquisition may change (R52, R57). -/
def State.roster (s : State) : Sequencer := ⟨keptRecords s.seq.queue, s.seq.nextId, none⟩

/-- The records of a sequencer without those of an id. -/
def Sequencer.without (id : Nat) (q : Sequencer) : Sequencer := { q with queue := q.queue.filter fun w => w.id != id }

theorem keptRecords_eq (ws : List Sweep) : keptRecords ws = ws.map Sweep.kept := rfl

theorem keptRecords_filter (p : Sweep → Bool) (hp : ∀ w, p w.kept = p w) (ws : List Sweep) :
    keptRecords (ws.filter p) = (keptRecords ws).filter p := by
  rw [keptRecords_eq, keptRecords_eq, List.filter_map]
  exact congrArg _ (List.filter_congr fun w _ => (hp w).symm)

theorem roster_of_seq {s t : State} (h : t.seq = s.seq) : t.roster = s.roster := by rw [State.roster, h, State.roster]

/-- A record rewritten in what a choice may change. -/
theorem updateSweep_roster {id : Nat} {f : Sweep → Sweep} (s : State) (hf : ∀ w, (f w).kept = w.kept) :
    (s.updateSweep id f).roster = s.roster := by
  unfold State.roster State.updateSweep
  simp only [State.setSeq_seq, keptRecords_eq, List.map_map]
  refine congrArg (Sequencer.mk · s.seq.nextId none) (List.map_congr_left fun w _ => ?_)
  simp only [Function.comp]
  split
  exacts [hf w, rfl]

@[simp] theorem startedSweep_kept (level : Nat) (w : Sweep) : (startedSweep level w).kept = w.kept := by
  unfold startedSweep Sweep.kept
  split <;> simp_all

@[simp] theorem startAcquisition_roster (h : HalfId) (w : Sweep) (s : State) : (startAcquisition h w s).roster = s.roster := by
  have hseq : (startAcquisition h w s).roster =
      (s.updateSweep w.id (startedSweep (s.leg w.leg).level)).roster := by
    unfold startAcquisition State.roster
    dsimp only
    split <;> simp
  rw [hseq]
  exact updateSweep_roster s (startedSweep_kept _)

@[simp] theorem choose_roster (s : State) : (choose s).roster = s.roster := by
  unfold choose
  split
  · rfl
  · split
    · rfl
    · split
      · simp
      · split
        · exact roster_of_seq (by simp)
        · rfl

@[simp] theorem abandon_roster (s : State) : (abandon s).roster = s.roster := by
  unfold abandon
  split
  · rfl
  · have htake : ∀ u : State, (correlatorTake u).roster = u.roster := fun u => roster_of_seq (by simp)
    dsimp only
    refine (htake _).trans ((updateSweep_roster _ ?_).trans ?_)
    · exact fun _ => rfl
    · simp [State.roster]

@[simp] theorem judgeRevoked_roster (id : Nat) (s : State) : (judgeRevoked id s).roster = s.roster := by
  unfold judgeRevoked
  split
  · rfl
  · split
    · split
      · rfl
      · exact abandon_roster s
    · rfl

@[simp] theorem judgeClasses_roster (s : State) : (judgeClasses s).roster = s.roster := by
  unfold judgeClasses
  split
  · rfl
  · split
    · exact abandon_roster s
    · rfl

theorem without_roster (id : Nat) (s : State) : s.roster.without id =
    (s.setSeq { s.seq with queue := s.seq.queue.filter fun w => w.id != id }).roster := by
  unfold Sequencer.without State.roster
  simp only [State.setSeq_seq]
  rw [keptRecords_filter _ fun _ => rfl]

@[simp] theorem dropSweep_roster (id : Nat) (s : State) : (dropSweep id s).roster = s.roster.without id := by
  rw [without_roster]
  unfold dropSweep
  dsimp only
  split
  · split
    · exact abandon_roster _
    · rfl
  · rfl

theorem findSweep_eq_none {s : State} {id : Nat} : s.findSweep id = none ↔ ∀ w ∈ s.seq.queue, w.id ≠ id := by
  simp [State.findSweep]

/-- A sweep ends, and its record has left the queue (R64). -/
@[simp] theorem endSweep_roster (id : Nat) (o : SweepOutcome) (m n : Nat) (s : State) :
    (endSweep id o m n s).roster = s.roster.without id := by
  unfold endSweep
  split
  · next hnone =>
    rw [without_roster, List.filter_eq_self.mpr fun w hw => by simpa using findSweep_eq_none.mp hnone w hw]
    rfl
  · dsimp only
    have hpost : ∀ (w : Sweep) (d : Divider) (v : Slot) (r : Report),
        (post r (((dropSweep id s).setDiv d).setSlot w.slot v)).roster = s.roster.without id := fun w d v r =>
      (roster_of_seq (by simp)).trans (dropSweep_roster id s)
    split
    · rw [choose_roster, hpost]
    · rw [hpost]

/-- A record rewritten before it leaves the queue. -/
theorem updateSweep_without {id : Nat} {f : Sweep → Sweep} (s : State) (hf : ∀ w, (f w).id = w.id) :
    (s.updateSweep id f).roster.without id = s.roster.without id := by
  rw [without_roster, without_roster]
  unfold State.updateSweep State.roster
  simp only [State.setSeq_seq, List.filter_map]
  have hid : ∀ w : Sweep, (if w.id == id then f w else w).id = w.id := fun w => by split <;> simp [hf]
  have hkeep : (s.seq.queue.filter ((fun w => w.id != id) ∘ fun w => if w.id == id then f w else w)).map
      (fun w => if w.id == id then f w else w) = s.seq.queue.filter fun w => w.id != id := by
    simp only [Function.comp_def, hid]
    refine (List.map_congr_left fun w hw => if_neg ?_).trans (List.map_id _)
    simpa using List.of_mem_filter hw
  rw [hkeep]


@[simp] theorem cancelPairing_roster (g : LegId) (s : State) : (cancelPairing g s).roster = s.roster := by
  unfold cancelPairing
  split
  · rfl
  · split
    · dsimp only
      split
      · rw [choose_roster]; exact roster_of_seq (by simp)
      · exact roster_of_seq (by simp)
    · rfl

@[simp] theorem disableIngress_roster (g : LegId) (s : State) : (disableIngress g s).roster = s.roster := by
  have h : (disableIngress g s).roster = (cancelPairing g (fileRecord g false true s.time.timebase s)).roster :=
    roster_of_seq (by simp [disableIngress])
  rw [h, cancelPairing_roster]
  exact roster_of_seq (by simp)

@[simp] theorem openRecord_roster (g : LegId) (r : BurstRecord) (s : State) : (openRecord g r s).roster = s.roster := by
  unfold openRecord
  (repeat' split)
  on_goal 4 => rw [choose_roster]
  all_goals exact roster_of_seq (by simp)

@[simp] theorem scanRecord_roster (g : LegId) (v : List (Option Int)) (b : List Detector) (s : State) :
    (scanRecord g v b s).roster = s.roster := by
  unfold scanRecord
  dsimp only
  (repeat' split)
  on_goal 3 => rw [openRecord_roster]
  all_goals exact roster_of_seq (by simp)

@[simp] theorem readingScan_roster (g : LegId) (held : Bool) (levels : List Int) (s : State) :
    (readingScan g held levels s).roster = s.roster := by
  have hclose : ∀ u : State, (scanClose g u).roster = u.roster := fun u => roster_of_seq (by simp)
  unfold readingScan
  rw [hclose, scanRecord_roster]
  exact roster_of_seq (by simp)

@[simp] theorem informClosing_roster (r : Report) (s : State) : (informClosing r s).roster = s.roster := by
  unfold informClosing
  split
  · rw [choose_roster]; exact roster_of_seq (by simp)
  · exact together_keeps (P := fun t => t.roster = s.roster) (fun _ _ e => e) _ _
      (closingBlocks_forall (Q := fun f => ∀ t, t.roster = s.roster → (f t).roster = s.roster)
        (fun t e => (roster_of_seq (by simp)).trans e) (fun t e => (choose_roster t).trans e)
        fun g t e => (roster_of_seq (by simp)).trans e) rfl

@[simp] theorem openWindowAt_roster (id : Nat) (s : State) : (openWindowAt id s).roster = s.roster :=
  (choose_roster _).trans (roster_of_seq (by simp))

/-- What the result of an acquisition job does to a record (R91). -/
def capturedSweep (w : Sweep) (h : Half) (v : Sweep) : Sweep :=
  { v with
    done  := v.done + 1
    flags := { v.flags with clipped := v.flags.clipped || h.clip }
    state := if w.done + 1 == w.n then .analysing else v.state }

theorem addCapture_seq (w : Sweep) (h : Half) (l k : Nat) (s : State) :
    (addCapture w h l k s).seq = (s.updateSweep w.id (capturedSweep w h)).seq := by
  unfold addCapture
  dsimp only
  split
  · next hn => simp [State.updateSweep, capturedSweep, hn]
  · next hn => simp [State.updateSweep, capturedSweep, hn]

/-! ### The queue shrinks, and the divider's jobs -/

/-- What R51 and R52 speak of in a record. -/
def Sweep.key (w : Sweep) : Nat × SlotId := (w.id, w.slot)

/-- A property of the divider that the end of work and new work keep (R110, R115). -/
structure KeepsJobs (D : Divider → Prop) : Prop where
  remove : ∀ (clock : Nat) (p : JobOwner → Bool) {d : Divider}, D d → D (d.remove clock p)
  ready  : ∀ (clock : Nat) (jobs : List (JobOwner × Nat × Nat × Bool)) {d : Divider}, D d → D (d.ready clock jobs)

/-- No record is new, and the divider has changed by jobs removed and batches handed to it alone. -/
structure QueueShrinks (s t : State) : Prop where
  keys   : (t.seq.queue.map Sweep.key).Sublist (s.seq.queue.map Sweep.key)
  nextId : t.seq.nextId = s.seq.nextId
  jobs   : ∀ D, KeepsJobs D → D s.div → D t.div

namespace QueueShrinks

theorem rfl' (s : State) : QueueShrinks s s := ⟨List.Sublist.refl _, rfl, fun _ _ h => h⟩

theorem trans {s t u : State} (h : QueueShrinks s t) (h' : QueueShrinks t u) : QueueShrinks s u :=
  ⟨h'.keys.trans h.keys, h'.nextId.trans h.nextId, fun D hD hs => h'.jobs D hD (h.jobs D hD hs)⟩

theorem of_roster {s t : State} (h : t.roster = s.roster) (hd : t.div = s.div) : QueueShrinks s t where
  keys := by
    have hkeys : ∀ u : State, u.seq.queue.map Sweep.key = u.roster.queue.map Sweep.key := fun u => by
      simp only [State.roster, keptRecords_eq, List.map_map]
      rfl
    rw [hkeys, hkeys, h]
  nextId := by
    have e := congrArg Sequencer.nextId h
    exact e
  jobs := fun _ _ hs => hd ▸ hs

theorem of_same {s t : State} (h : t.seq = s.seq) (hd : t.div = s.div) : QueueShrinks s t := of_roster (roster_of_seq h) hd

theorem updateSweep (s : State) {id : Nat} {f : Sweep → Sweep} (hf : ∀ w, (f w).key = w.key) : QueueShrinks s (s.updateSweep id f) where
  keys := by
    simp only [State.updateSweep, State.setSeq_seq, List.map_map]
    rw [List.map_congr_left (g := Sweep.key) fun w _ => ?_]
    simp only [Function.comp]
    split
    exacts [hf w, rfl]
  nextId := rfl
  jobs := fun _ _ hs => hs

theorem handBatch (jobs : List (JobOwner × Nat × Nat × Bool)) (s : State) : QueueShrinks s (handBatch jobs s) :=
  ⟨List.Sublist.refl _, rfl, fun _ hD hs => hD.ready _ _ hs⟩

theorem endSweep (id : Nat) (o : SweepOutcome) (m n : Nat) (s : State) : QueueShrinks s (endSweep id o m n s) where
  keys := by
    have hkeys : ∀ u : State, u.seq.queue.map Sweep.key = u.roster.queue.map Sweep.key := fun u => by
      simp only [State.roster, keptRecords_eq, List.map_map]
      rfl
    rw [hkeys, hkeys, endSweep_roster]
    exact List.filter_sublist.map _
  nextId := by
    have h := congrArg Sequencer.nextId (endSweep_roster id o m n s)
    exact h
  jobs := fun D hD hs => by
    unfold Machine.endSweep
    split
    · exact hs
    · dsimp only
      split <;> simpa using hD.remove _ _ hs

theorem endSweeps (o : SweepOutcome) (ids : List Nat) (s : State) : QueueShrinks s (endSweeps o ids s) := by
  unfold Machine.endSweeps
  induction ids generalizing s with
  | nil => exact rfl' s
  | cons id ids ih => exact (endSweep id o 0 0 s).trans (ih _)

theorem choose (s : State) : QueueShrinks s (choose s) := of_roster (choose_roster s) (by simp)

theorem faultLeg (g : LegId) (id : Nat) (s : State) : QueueShrinks s (faultLeg g id s) := by
  unfold Machine.faultLeg
  refine trans ?_ (choose _)
  refine trans ?_ (endSweeps _ _ _)
  exact of_same (by simp) (by simp)

theorem cancelPairing (g : LegId) (s : State) : QueueShrinks s (cancelPairing g s) where
  keys   := (of_roster (t := (Machine.cancelPairing g s).setDiv s.div) (cancelPairing_roster g s) rfl).keys
  nextId := (of_roster (t := (Machine.cancelPairing g s).setDiv s.div) (cancelPairing_roster g s) rfl).nextId
  jobs D hD hs := by
    unfold Machine.cancelPairing
    split
    · exact hs
    · split
      · dsimp only
        split <;> simpa using hD.remove _ _ hs
      · exact hs

theorem disableIngress (g : LegId) (s : State) : QueueShrinks s (disableIngress g s) := by
  unfold Machine.disableIngress
  have hfile : QueueShrinks s (fileRecord g false true s.time.timebase s) := of_same (by simp) (by simp)
  exact (hfile.trans (cancelPairing g _)).trans (of_same (by simp) (by simp))

theorem draws {s t : State} (n : Nat) (h : QueueShrinks s t) : QueueShrinks s (t.setDraws n) := h.trans (of_same rfl rfl)

theorem disableWork (g : LegId) (s : State) : QueueShrinks s (disableWork g s) :=
  disableBlocks_keeps (P := QueueShrinks s) (fun _ n h => h.draws n) (fun t id h => h.trans (endSweep id _ _ _ t))
    (fun t h => h.trans (choose t)) (fun t h => h.trans (disableIngress g t)) s (rfl' s)

theorem classBlocks (s : State) : QueueShrinks s (together (classActions s :: quietBlocks s) s) :=
  classBlocks_keeps (P := QueueShrinks s) (fun _ n h => h.draws n) (fun t id h => h.trans (endSweep id _ _ _ t))
    (fun t h => h.trans (of_roster (judgeClasses_roster t) (by simp))) (fun t h => h.trans (choose t))
    (fun t g h => h.trans (of_same (by simp) (by simp))) s (rfl' s)

theorem reconcile (id : Nat) (s : State) : QueueShrinks s (reconcile id s) := by
  cases hw : s.findSweep id with
  | none => rw [reconcile_gone hw]; exact rfl' s
  | some w =>
    have hlevel : QueueShrinks s (reconciledLevel w s) := by
      have hmeasure : QueueShrinks s (measurePeaks w s) := by
        unfold measurePeaks
        exact (of_same (by simp) (by simp)).trans (updateSweep _ fun _ => rfl)
      exact hmeasure.trans (of_same (by simp [reconciledLevel, reconciledElements]) (by simp [reconciledLevel, reconciledElements]))
    have hended : ∀ m n, QueueShrinks s (Machine.endSweep id .done m n (reconciledLevel w s)) := fun m n =>
      hlevel.trans (endSweep id _ m n _)
    rw [reconcile_eq hw]
    dsimp only
    split
    · exact (hended _ _).trans (faultLeg _ _ _)
    · exact hended _ _

theorem flagSweep (id : Nat) (f : SweepFlags → SweepFlags) (s : State) : QueueShrinks s (flagSweep id f s) :=
  updateSweep s fun _ => rfl

theorem calFailed (id : Nat) (s : State) : QueueShrinks s (calFailed id s) := (flagSweep id _ s).trans (reconcile id _)

theorem anchorSearch (id : Nat) (s : State) : QueueShrinks s (anchorSearch id s) := by
  unfold Machine.anchorSearch
  split
  · exact rfl' s
  · split
    · exact calFailed id s
    · split
      · exact calFailed id s
      · exact handBatch _ s

theorem afterRefinement (w : Sweep) (s : State) : QueueShrinks s (afterRefinement w s) := by
  unfold Machine.afterRefinement
  split
  · exact anchorSearch ..
  · exact reconcile ..

theorem judgeCal (id a d : Nat) (r : Option (Nat × Nat)) (s : State) : QueueShrinks s (judgeCal id a d r s) := by
  unfold Machine.judgeCal
  split
  · exact rfl' s
  · split
    · split
      · next w _ _ _ _ _ _ _ =>
        have hcal : ∀ c, QueueShrinks s (setCal w.leg c s) := fun c => of_same rfl rfl
        exact ((hcal _).trans (flagSweep id _ _)).trans (reconcile id _)
      · exact calFailed ..
    · exact calFailed ..

theorem completeAnalysis (w : Sweep) (acc : List Nat) (s : State) : QueueShrinks s (completeAnalysis w acc s) := by
  unfold Machine.completeAnalysis
  dsimp only
  generalize hu : Machine.flagSweep w.id _ (mapContent w.slot _ s) = u
  have hu : QueueShrinks s u := by
    subst hu
    exact (of_same (by simp) (by simp)).trans (flagSweep _ _ _)
  split
  · have hlevel : QueueShrinks u (levelClipped w.leg u) := of_same (by simp) (by simp)
    exact (hu.trans hlevel).trans (endSweep ..)
  · split
    · exact hu.trans (afterRefinement w u)
    · exact hu.trans (handBatch _ u)

theorem searchLag (g : LegId) (s : State) : QueueShrinks s (searchLag g s) := by
  unfold Machine.searchLag
  dsimp only
  split
  · exact of_same (by simp) (by simp)
  · have hing : ∀ v, QueueShrinks s (s.setIng v) := fun v => of_same rfl rfl
    exact (hing _).trans (handBatch _ _)

theorem snapshotSearched (n : Nat) (j : CorJob) (g : LegId) (k : Nat) (s : State) :
    QueueShrinks s (snapshotSearched n j g k s) := by
  have hend : QueueShrinks s (s.atEndOfWork n j.takenAt (k * k / 10)) := of_same (by simp) (by simp)
  unfold Machine.snapshotSearched
  dsimp only
  split
  · have hlag : ∀ v, QueueShrinks s ((s.atEndOfWork n j.takenAt (k * k / 10)).setLag v) := fun v =>
      hend.trans (of_same (by simp) (by simp))
    exact (hlag _).trans (searchLag g _)
  · exact hend

theorem addCapture (w : Sweep) (v : Half) (l k : Nat) (s : State) : QueueShrinks s (addCapture w v l k s) :=
  (updateSweep s (id := w.id) (f := capturedSweep w v) fun _ => rfl).trans (of_same (addCapture_seq w v l k s) (by simp))

theorem acquisitionAdded (n : Nat) (j : CorJob) (id l k : Nat) (s : State) : QueueShrinks s (acquisitionAdded n j id l k s) := by
  have hend : QueueShrinks s (s.atEndOfWork n j.takenAt (l * k / 10)) := of_same (by simp) (by simp)
  unfold Machine.acquisitionAdded
  dsimp only
  split
  · exact hend.trans (addCapture ..)
  · exact hend

theorem afterJob (h : HalfId) (s : State) : QueueShrinks s (afterJob (endJob h s)) := by
  have htake : QueueShrinks s (correlatorTake (endJob h s)) := of_same (by simp) (by simp)
  exact htake.trans (choose _)

theorem handResult (j : Job) (s : State) : QueueShrinks s (handResult j s) := by
  unfold Machine.handResult
  split
  · split
    · next w q _ _ _ =>
      have hwrite : ∀ k, QueueShrinks s (writeRefined w k q s) := fun k => of_same (by simp) (by simp)
      split
      · exact (hwrite _).trans (afterRefinement w _)
      · exact hwrite _
    · exact rfl' s
  · split
    · split
      · exact of_same (by simp) (by simp)
      · exact rfl' s
    · exact rfl' s
  · exact judgeCal ..

theorem informClosing (r : Report) (s : State) : QueueShrinks s (informClosing r s) :=
  of_roster (informClosing_roster r s) (by simp)

theorem openWindowAt (id : Nat) (s : State) : QueueShrinks s (openWindowAt id s) := of_roster (openWindowAt_roster id s) (by simp)

end QueueShrinks

/-! ### The divider -/

theorem Divider.letIn_letIn (d : Divider) : d.letIn.letIn = d.letIn := by
  obtain ⟨-, -, entered, -, -, -, hnext⟩ := d.letIn_entered
  cases hw : d.letIn.waiting with
  | nil => rw [Divider.letIn, hw]; rfl
  | cons b rest => exact Divider.letIn_full hw (hnext b (by simp [hw]))

/-- A divider that has done what it does at an instant is IDLE only with an empty queue (R111). -/
theorem Divider.pump_idle (clock : Nat) (d : Divider) (h : (d.pump clock).running = none) : (d.pump clock).queue = [] := by
  unfold Divider.pump at h ⊢
  rcases d.letIn.start_cases clock with ⟨j, rest, -, -, hstart⟩ | ⟨hidle, hstart⟩
  · rw [hstart] at h
    simp at h
  · rw [hstart, Divider.letIn_letIn] at h ⊢
    exact hidle.resolve_left (not_not.mpr h)

/-- The divider's queue within its room (R111). -/
def Divider.Fits (d : Divider) : Prop := d.queue.length ≤ 64

/-- The divider's queue within its room, and empty while the divider is IDLE (R111). -/
def Divider.Settled (d : Divider) : Prop := d.Fits ∧ (d.running = none → d.queue = [])

theorem Divider.pump_settled (clock : Nat) {d : Divider} (h : d.Fits) : (d.pump clock).Settled :=
  ⟨Divider.pump_length clock h, Divider.pump_idle clock d⟩

theorem Divider.remove_settled (clock : Nat) (p : JobOwner → Bool) {d : Divider} (h : d.Fits) : (d.remove clock p).Settled :=
  Divider.pump_settled clock ((List.length_filter_le ..).trans h)

theorem Divider.ready_settled (clock : Nat) (jobs : List (JobOwner × Nat × Nat × Bool)) {d : Divider} (h : d.Fits) :
    (d.ready clock jobs).Settled :=
  Divider.pump_settled clock h

theorem keepsJobs_fits : KeepsJobs Divider.Fits :=
  ⟨fun clock p _ h => (Divider.remove_settled clock p h).1, fun clock jobs _ h => (Divider.ready_settled clock jobs h).1⟩

theorem keepsJobs_settled : KeepsJobs Divider.Settled :=
  ⟨fun clock p _ h => Divider.remove_settled clock p h.1, fun clock jobs _ h => Divider.ready_settled clock jobs h.1⟩

/-! ### The invariant -/

/-- R51 and R52: the sweep queue within its room, with distinct slots and ids. -/
structure SweepsInv (q : Sequencer) : Prop where
  room    : q.queue.length ≤ 4
  slots   : (q.queue.map (·.slot)).Nodup
  ids     : (q.queue.map (·.id)).Nodup
  idRange : ∀ w ∈ q.queue, 1 ≤ w.id ∧ w.id ≤ 255
  nextId  : 1 ≤ q.nextId ∧ q.nextId ≤ 255

theorem queueInv_iff (s : State) : QueueInv s ↔ SweepsInv s.seq ∧ s.div.Settled :=
  ⟨fun ⟨room, slots, ids, idRange, nextId, jobs, idle⟩ => ⟨⟨room, slots, ids, idRange, nextId⟩, jobs, idle⟩,
    fun ⟨⟨room, slots, ids, idRange, nextId⟩, jobs, idle⟩ => ⟨room, slots, ids, idRange, nextId, jobs, idle⟩⟩

theorem SweepsInv.shrinks {q q' : Sequencer} (h : SweepsInv q)
    (hkeys : (q'.queue.map Sweep.key).Sublist (q.queue.map Sweep.key)) (hnext : q'.nextId = q.nextId) : SweepsInv q' := by
  have hid : ∀ ws : List Sweep, ws.map (·.id) = (ws.map Sweep.key).map (·.1) := fun ws => by simp [Sweep.key, Function.comp_def]
  have hslot : ∀ ws : List Sweep, ws.map (·.slot) = (ws.map Sweep.key).map (·.2) := fun ws => by simp [Sweep.key, Function.comp_def]
  refine ⟨?_, ?_, ?_, fun w hw => ?_, hnext ▸ h.nextId⟩
  · simpa using hkeys.length_le.trans (by simpa using h.room)
  · rw [hslot]
    exact (hslot _ ▸ h.slots).sublist (hkeys.map _)
  · rw [hid]
    exact (hid _ ▸ h.ids).sublist (hkeys.map _)
  · obtain ⟨v, hv, hkey⟩ := List.mem_map.mp (hkeys.subset (List.mem_map_of_mem hw))
    have hrange := h.idRange v hv
    simp only [Sweep.key, Prod.mk.injEq] at hkey
    rwa [hkey.1] at hrange

theorem QueueInv.shrinks {s t : State} (h : QueueInv s) (hst : QueueShrinks s t) : QueueInv t := by
  rw [queueInv_iff] at h ⊢
  exact ⟨h.1.shrinks hst.keys hst.nextId, hst.jobs _ keepsJobs_settled h.2⟩

/-- A new record at the tail of the queue, with the first free id and a slot no other record has (R52, R55). -/
theorem QueueInv.join {s : State} (h : QueueInv s) {w : Sweep} (hslot : ∀ x ∈ s.seq.queue, x.slot ≠ w.slot)
    (hid : w.id = allocateId 5 s.seq.nextId (s.seq.queue.map (·.id))) :
    QueueInv (s.setSeq { s.seq with queue := s.seq.queue ++ [w], nextId := nextIdAfter w.id }) := by
  have hslots : ((s.seq.queue ++ [w]).map (·.slot)).Nodup := by
    rw [List.map_append, List.map_singleton, ← List.concat_eq_append, List.nodup_concat]
    exact ⟨fun hmem => by
      obtain ⟨x, hx, he⟩ := List.mem_map.mp hmem
      exact hslot x hx he, h.slots⟩
  have hrange : 1 ≤ w.id ∧ w.id ≤ 255 := hid ▸ allocateId_range h.nextId.1 h.nextId.2
  have hfresh : w.id ∉ s.seq.queue.map (·.id) := by
    rw [hid]
    exact allocateId_fresh h.nextId.1 h.nextId.2 (by decide) (by simpa using Nat.lt_succ_of_le h.sweeps)
  refine ⟨?_, hslots, ?_, ?_, ?_, h.jobs, h.idle⟩
  · have hcard := hslots.length_le_card
    simpa using hcard
  · show ((s.seq.queue ++ [w]).map (·.id)).Nodup
    rw [List.map_append, List.map_singleton, ← List.concat_eq_append, List.nodup_concat]
    exact ⟨hfresh, h.ids⟩
  · intro x hx
    rcases List.mem_append.mp hx with hx | hx
    · exact h.idRange x hx
    · rwa [List.mem_singleton.mp hx]
  · show 1 ≤ nextIdAfter w.id ∧ nextIdAfter w.id ≤ 255
    unfold nextIdAfter
    split
    · decide
    · next hne => simp only [beq_iff_eq] at hne; omega

theorem serveSweepReq_queueInv {s : State} (p : List Byte) (h : QueueInv s) : QueueInv (serveSweepReq p s).1 := by
  unfold serveSweepReq
  dsimp only
  split
  · split
    · exact h
    · split
      · exact h
      · split
        · exact h
        · split
          · exact h
          · split
            · exact h
            · next g slot _ _ _ _ _ _ hfree =>
              have hfree : ∀ x ∈ s.seq.queue, x.slot ≠ slot := by simpa using hfree
              have hjoin := h.join (w := ⟨allocateId 5 s.seq.nextId (s.seq.queue.map (·.id)), g, slot, field p 2 1, 0, 0, optionsOf (field p 3 1), .queued,
                acquisitionMicros (s.legSettings g), none, .none⟩) hfree rfl
              refine (hjoin.shrinks ?_).shrinks (QueueShrinks.choose _)
              exact .of_same (by simp) (by simp)
  · exact h

theorem serveTimeSet_shrinks (p : List Byte) (s : State) : QueueShrinks s (serveTimeSet p s).1 := by
  unfold serveTimeSet
  dsimp only
  split
  · exact .rfl' s
  · unfold openStraddling
    split
    · refine .trans ?_ (.openWindowAt _ _)
      exact .of_same (by simp) (by simp)
    · exact .of_same (by simp) (by simp)

theorem serveWindowGrant_shrinks (p : List Byte) (s : State) : QueueShrinks s (serveWindowGrant p s).1 := by
  unfold serveWindowGrant
  dsimp only
  (repeat' split)
  on_goal 5 =>
    refine .trans ?_ (.openWindowAt _ _)
    exact .of_same rfl rfl
  all_goals exact .of_same rfl rfl

theorem serveWindowRevoke_shrinks (p : List Byte) (s : State) : QueueShrinks s (serveWindowRevoke p s).1 := by
  unfold serveWindowRevoke
  split
  · exact .rfl' s
  · next w _ =>
    dsimp only
    split
    · exact .of_same rfl rfl
    · have hgate : ∀ u : State, (judgeGate u).roster = u.roster := fun u => roster_of_seq (by simp)
      refine .trans ?_ (.informClosing _ _)
      exact .of_roster ((hgate _).trans ((judgeRevoked_roster w.id _).trans (roster_of_seq rfl))) (by simp)

theorem serveLegEnable_shrinks (p : List Byte) (s : State) : QueueShrinks s (serveLegEnable p s).1 := by
  unfold serveLegEnable
  split
  · exact .rfl' s
  · dsimp only
    split
    · exact .rfl' s
    · exact .rfl' s
    · refine .trans ?_ (.choose _)
      exact .of_same rfl rfl

theorem serveLegDisable_shrinks (p : List Byte) (s : State) : QueueShrinks s (serveLegDisable p s).1 := by
  unfold serveLegDisable
  split
  · exact .rfl' s
  · next g _ =>
    dsimp only
    split
    · exact .rfl' s
    · refine .trans ?_ (.disableWork g _)
      exact .of_same rfl rfl

theorem serveClassSet_shrinks (p : List Byte) (s : State) : QueueShrinks s (serveClassSet p s).1 := by
  unfold serveClassSet
  dsimp only
  split
  · exact .rfl' s
  · refine .trans ?_ (.classBlocks _)
    exact .of_same (by simp) (by simp)

theorem serveSweepCancel_shrinks (p : List Byte) (s : State) : QueueShrinks s (serveSweepCancel p s).1 := by
  unfold serveSweepCancel
  split
  · exact .rfl' s
  · exact .endSweep ..

/-! ### Every step -/

theorem divisionDone_queueInv {s : State} (r : Running) (h : QueueInv s) : QueueInv (divisionDone r s) := by
  rw [queueInv_iff] at h ⊢
  have hidle : QueueShrinks (s.setDiv { s.div with running := none }) (divisionHanded r s) := by
    refine QueueShrinks.trans ?_ (QueueShrinks.handResult r.job _)
    exact .of_same (by simp) (by simp)
  exact ⟨h.1.shrinks hidle.keys hidle.nextId, Divider.pump_settled _ (hidle.jobs _ keepsJobs_fits h.2.1)⟩

theorem scanned_shrinks (g : LegId) (levels : List Int) (s : State) : QueueShrinks s (scanned g levels s) := by
  have hdue : QueueShrinks s (scanDue g s) := .of_same (by simp [scanDue]) (by simp [scanDue])
  unfold scanned
  dsimp only
  split
  · exact hdue
  · split
    · exact hdue.trans (.of_same (by simp) (by simp))
    · exact hdue.trans (.of_roster (readingScan_roster ..) (by simp))

theorem queueInv_blocks : BlocksKeep QueueInv := by
  constructor
  case sweepReq => exact fun p h => serveSweepReq_queueInv p h
  case divisionEnds => exact fun _ h => divisionDone_queueInv _ h
  case scans => exact fun g levels h => h.shrinks (scanned_shrinks g levels _)
  case timeSet => exact fun p h => h.shrinks (serveTimeSet_shrinks p _)
  case windowGrant => exact fun p h => h.shrinks (serveWindowGrant_shrinks p _)
  case windowRevoke => exact fun p h => h.shrinks (serveWindowRevoke_shrinks p _)
  case legEnable => exact fun p h => h.shrinks (serveLegEnable_shrinks p _)
  case legDisable => exact fun p h => h.shrinks (serveLegDisable_shrinks p _)
  case classSet => exact fun p _ h => h.shrinks (serveClassSet_shrinks p _)
  case sweepCancel => exact fun p h => h.shrinks (serveSweepCancel_shrinks p _)
  case windowOpens =>
    intro s w _ h
    exact (h.shrinks (t := s.passTo (s.time.reachTimebase w.start)) (.of_same rfl rfl)).shrinks (.openWindowAt _ _)
  case windowShuts =>
    intro s w _ h
    exact (h.shrinks (t := windowLeft w s) (.of_same (by simp [windowLeft]) (by simp [windowLeft]))).shrinks
      (.informClosing _ _)
  case acquisitionEnds =>
    intro s a xs _ h
    refine QueueInv.shrinks ?_ (.choose _)
    exact h.shrinks (.of_roster (by simp [acquisitionStopped, State.roster]) (by simp [acquisitionStopped]))
  case snapshotEnds =>
    intro s xs h
    refine QueueInv.shrinks ?_ (.choose _)
    exact h.shrinks (.of_same (by simp [snapshotStopped]) (by simp [snapshotStopped]))
  case acquisitionAdds => exact fun n j id l k h => (h.shrinks (.acquisitionAdded n j id l k _)).shrinks (.afterJob _ _)
  case snapshotSearches => exact fun n j g k h => (h.shrinks (.snapshotSearched n j g k _)).shrinks (.afterJob _ _)
  case analysisEnds =>
    intro s w id n start acc _ h
    exact (h.shrinks (t := s.atEndOfWork n start 4000) (.of_same (by simp) (by simp))).shrinks (.completeAnalysis _ _ _)
  all_goals
    intros
    rename_i h
    refine h.shrinks (.of_same ?_ ?_) <;> simp [editMap, burstBegun, listenBegun, snapshotBegun, converted]

theorem queueInv_reset : QueueInv State.reset := by constructor <;> decide

/-- Settles O57: each request and event keeps the sweep queue and the divider's queue. -/
theorem stepsKeepTheQueues : Obligations.StepsKeepTheQueues := by
  unfold Obligations.StepsKeepTheQueues
  intro s t h e
  exact queueInv_blocks.step (fun _ h => h.shrinks (.of_same rfl rfl)) (fun _ h => h.shrinks (.of_same rfl rfl))
    (fun _ => queueInv_reset.shrinks (.of_same rfl rfl)) h e

end Sys2Proof.Machine
end

section
/-! PROOFS. Every step keeps the ingress monitor's detectors and log (R179, R189). -/

namespace Sys2Proof.Machine

open Sys2Proof

/-! ### The monitor, without the marks of log 16 -/

/-- A leg's part of the monitor without the mark that an acquisition leaves (log 16). -/
def IngressLeg.unmarked (l : IngressLeg) : IngressLeg := { l with acquired := false }

/-- The monitor without those marks: all of it that a choice of an acquisition leaves as it is. -/
def State.monitor (s : State) : Ingress :=
  { s.ing with legs := ⟨s.ing.legs.q0.unmarked, s.ing.legs.q1.unmarked, s.ing.legs.q2.unmarked, s.ing.legs.q3.unmarked⟩ }

theorem monitor_legs (s : State) (g : LegId) : s.monitor.legs.get g = (s.ingLeg g).unmarked := by
  fin_cases g <;> rfl

theorem monitor_of_ing {s t : State} (h : t.ing = s.ing) : t.monitor = s.monitor := by rw [State.monitor, h, State.monitor]

theorem Quad.ext_get {α : Type} {p q : Quad α} (h : ∀ i, p.get i = q.get i) : p = q := by
  obtain ⟨a, b, c, d⟩ := p
  obtain ⟨a', b', c', d'⟩ := q
  have h0 : a = a' := h 0
  have h1 : b = b' := h 1
  have h2 : c = c' := h 2
  have h3 : d = d' := h 3
  rw [h0, h1, h2, h3]

@[simp] theorem State.setIngLeg_ingLeg (s : State) (g i : LegId) (l : IngressLeg) :
    (s.setIngLeg g l).ingLeg i = if i = g then l else s.ingLeg i := by
  unfold State.setIngLeg State.ingLeg
  split
  · next h => subst h; simp
  · next h => simp [Quad.get_set_other _ _ h]

theorem ingLeg_of_ing {s t : State} (h : t.ing = s.ing) (g : LegId) : t.ingLeg g = s.ingLeg g := by
  rw [State.ingLeg, h, State.ingLeg]

/-- A mark set on a leg. -/
theorem setIngLeg_monitor {s : State} {g : LegId} {l : IngressLeg} (h : l.unmarked = (s.ingLeg g).unmarked) :
    (s.setIngLeg g l).monitor = s.monitor := by
  have hlegs : (s.setIngLeg g l).monitor.legs = s.monitor.legs := Quad.ext_get fun i => by
    rw [monitor_legs, monitor_legs, State.setIngLeg_ingLeg]
    split
    · next hi => rw [h, hi]
    · rfl
  show { s.ing with legs := (s.setIngLeg g l).monitor.legs } = { s.ing with legs := s.monitor.legs }
  rw [hlegs]

@[simp] theorem startAcquisition_monitor (h : HalfId) (w : Sweep) (s : State) : (startAcquisition h w s).monitor = s.monitor := by
  unfold startAcquisition
  dsimp only
  refine (setIngLeg_monitor ?_).trans (monitor_of_ing ?_)
  · rfl
  · split <;> simp

/-- A choice changes nothing of the monitor but a mark (R56, R84; log 16). -/
@[simp] theorem choose_monitor (s : State) : (choose s).monitor = s.monitor := by
  unfold choose
  split
  · rfl
  · split
    · rfl
    · split
      · simp
      · split
        · exact monitor_of_ing (by simp)
        · rfl

@[simp] theorem openWindowAt_monitor (id : Nat) (s : State) : (openWindowAt id s).monitor = s.monitor :=
  (choose_monitor _).trans (monitor_of_ing (by simp))

@[simp] theorem endSweep_monitor (id : Nat) (o : SweepOutcome) (m n : Nat) (s : State) :
    (endSweep id o m n s).monitor = s.monitor := by
  unfold endSweep
  split
  · rfl
  · dsimp only
    split
    · rw [choose_monitor]; exact monitor_of_ing (by simp)
    · exact monitor_of_ing (by simp)

@[simp] theorem endSweeps_monitor (o : SweepOutcome) (ids : List Nat) (s : State) : (endSweeps o ids s).monitor = s.monitor := by
  unfold endSweeps
  induction ids generalizing s with
  | nil => rfl
  | cons id ids ih => rw [List.foldl_cons, ih, endSweep_monitor]

@[simp] theorem faultLeg_monitor (g : LegId) (id : Nat) (s : State) : (faultLeg g id s).monitor = s.monitor := by
  unfold faultLeg
  rw [choose_monitor, endSweeps_monitor]
  exact monitor_of_ing (by simp)

@[simp] theorem reconcile_monitor (id : Nat) (s : State) : (reconcile id s).monitor = s.monitor := by
  cases hw : s.findSweep id with
  | none => rw [reconcile_gone hw]
  | some w =>
    have h : (reconciledLevel w s).monitor = s.monitor := monitor_of_ing (by simp [reconciledLevel, reconciledElements])
    rw [reconcile_eq hw]
    dsimp only
    split <;> simp [h]

@[simp] theorem calFailed_monitor (id : Nat) (s : State) : (calFailed id s).monitor = s.monitor :=
  (reconcile_monitor id _).trans (monitor_of_ing (by simp))

@[simp] theorem afterRefinement_monitor (w : Sweep) (s : State) : (afterRefinement w s).monitor = s.monitor := by
  unfold afterRefinement anchorSearch
  split
  · split
    · rfl
    · split
      · exact calFailed_monitor _ s
      · split
        · exact calFailed_monitor _ s
        · exact monitor_of_ing (by simp)
  · exact reconcile_monitor ..

@[simp] theorem judgeCal_monitor (id a d : Nat) (r : Option (Nat × Nat)) (s : State) : (judgeCal id a d r s).monitor = s.monitor := by
  unfold judgeCal
  split
  · rfl
  · split
    · split
      · rw [reconcile_monitor]; exact monitor_of_ing (by simp)
      · exact calFailed_monitor ..
    · exact calFailed_monitor ..

@[simp] theorem completeAnalysis_monitor (w : Sweep) (acc : List Nat) (s : State) : (completeAnalysis w acc s).monitor = s.monitor := by
  unfold completeAnalysis
  dsimp only
  split
  · rw [endSweep_monitor]; exact monitor_of_ing (by simp)
  · split
    · rw [afterRefinement_monitor]; exact monitor_of_ing (by simp)
    · exact monitor_of_ing (by simp)

/-! ### A leg's part of the monitor, without its record -/

/-- A leg's part of the monitor without its open record: all that the end of a record leaves as it is. -/
def IngressLeg.recordless (l : IngressLeg) : IngressLeg := { l with record := none }

@[simp] theorem logRecord_ingLeg (r : BurstRecord) (s : State) (i : LegId) : (logRecord r s).ingLeg i = s.ingLeg i := by
  unfold logRecord
  split <;> rfl

@[simp] theorem post_ingLeg (r : Report) (s : State) (i : LegId) : (post r s).ingLeg i = s.ingLeg i := rfl

@[simp] theorem settlePairing_recordless (o : PairingOutcome) (e p n : Option Nat) (s : State) (i : LegId) :
    ((settlePairing o e p n s).ingLeg i).recordless = (s.ingLeg i).recordless := by
  unfold settlePairing
  split
  · rfl
  · dsimp only
    split
    · rfl
    · rw [State.setIngLeg_ingLeg]
      split
      · next hi => rw [hi]; rfl
      · rfl

@[simp] theorem withdrawAtClose_recordless (g : LegId) (s : State) (i : LegId) :
    ((withdrawAtClose g s).ingLeg i).recordless = (s.ingLeg i).recordless := by
  unfold withdrawAtClose
  split
  · rfl
  · split
    · exact settlePairing_recordless ..
    · rfl

@[simp] theorem fileRecord_recordless (g : LegId) (long cut : Bool) (time : Nat) (s : State) (i : LegId) :
    ((fileRecord g long cut time s).ingLeg i).recordless = (s.ingLeg i).recordless := by
  have hput : ((s.setIngLeg g { s.ingLeg g with record := none }).ingLeg i).recordless = (s.ingLeg i).recordless := by
    rw [State.setIngLeg_ingLeg]
    split
    · next hi => rw [hi]; rfl
    · rfl
  unfold fileRecord
  split
  · rfl
  · next r _ =>
    have hlog : ∀ x, ((logRecord x (s.setIngLeg g { s.ingLeg g with record := none })).ingLeg i).recordless =
        (s.ingLeg i).recordless := fun x => by rw [logRecord_ingLeg, hput]
    dsimp only
    split
    · exact hlog _
    · rw [post_ingLeg]
      exact hlog _

@[simp] theorem closeRecord_recordless (g : LegId) (long cut : Bool) (time : Nat) (s : State) (i : LegId) :
    ((closeRecord g long cut time s).ingLeg i).recordless = (s.ingLeg i).recordless :=
  (fileRecord_recordless ..).trans (withdrawAtClose_recordless ..)

theorem detectors_of_recordless {l l' : IngressLeg} (h : l.recordless = l'.recordless) : l.detectors = l'.detectors := by
  have hd : l.recordless.detectors = l'.recordless.detectors := by rw [h]
  exact hd

theorem detectors_of_monitor {s t : State} (h : t.monitor = s.monitor) (g : LegId) :
    (t.ingLeg g).detectors = (s.ingLeg g).detectors := by
  have hl : (t.ingLeg g).unmarked.detectors = (s.ingLeg g).unmarked.detectors := by rw [← monitor_legs, h, monitor_legs]
  exact hl

@[simp] theorem closeIfQuiet_detectors (g : LegId) (s : State) (i : LegId) :
    ((closeIfQuiet g s).ingLeg i).detectors = (s.ingLeg i).detectors := by
  unfold closeIfQuiet
  split
  · rfl
  · have hclosed := detectors_of_recordless (closeRecord_recordless g false false s.time.timebase s i)
    dsimp only
    rw [State.setIngLeg_ingLeg]
    split
    · next hi => rw [← hclosed, hi]
    · exact hclosed

/-! ### The log (R189) -/

/-- The log and its discard count within their bounds (R189). -/
def LogInv (v : Ingress) : Prop := v.log.length ≤ 128 ∧ v.discards ≤ 65535

theorem logRecord_logInv {s : State} (r : BurstRecord) (h : LogInv s.ing) : LogInv (logRecord r s).ing := by
  obtain ⟨hlog, hdiscards⟩ := h
  unfold logRecord
  split
  · refine ⟨?_, satSucc_le _ _⟩
    simp only [State.setIng_ing, List.length_append, List.length_drop, List.length_singleton]
    omega
  · refine ⟨?_, hdiscards⟩
    simp only [State.setIng_ing, List.length_append, List.length_singleton]
    omega

theorem settlePairing_logInv {s : State} (o : PairingOutcome) (e p n : Option Nat) (h : LogInv s.ing) :
    LogInv (settlePairing o e p n s).ing := by
  unfold settlePairing
  split
  · exact h
  · dsimp only
    split
    · exact ⟨(List.length_map ..).trans_le h.1, h.2⟩
    · exact h

theorem withdrawAtClose_logInv {s : State} (g : LegId) (h : LogInv s.ing) : LogInv (withdrawAtClose g s).ing := by
  unfold withdrawAtClose
  split
  · exact h
  · split
    · exact settlePairing_logInv (s := s.setCap _) _ _ _ _ h
    · exact h

theorem fileRecord_logInv {s : State} (g : LegId) (long cut : Bool) (time : Nat) (h : LogInv s.ing) :
    LogInv (fileRecord g long cut time s).ing := by
  unfold fileRecord
  split
  · exact h
  · dsimp only
    split
    · exact logRecord_logInv (s := s.setIngLeg g _) _ h
    · exact logRecord_logInv (s := s.setIngLeg g _) _ h

theorem closeRecord_logInv {s : State} (g : LegId) (long cut : Bool) (time : Nat) (h : LogInv s.ing) :
    LogInv (closeRecord g long cut time s).ing :=
  fileRecord_logInv g long cut time (withdrawAtClose_logInv g h)

theorem closeIfQuiet_logInv {s : State} (g : LegId) (h : LogInv s.ing) : LogInv (closeIfQuiet g s).ing := by
  unfold closeIfQuiet
  split
  · exact h
  · exact closeRecord_logInv g false false s.time.timebase h

theorem logInv_of_monitor {s t : State} (h : t.monitor = s.monitor) (hs : LogInv s.ing) : LogInv t.ing := by
  have hl : t.monitor.log = s.monitor.log := by rw [h]
  have hd : t.monitor.discards = s.monitor.discards := by rw [h]
  exact ⟨(congrArg List.length hl).trans_le hs.1, hd.trans_le hs.2⟩

/-! ### Which bins are watched (R179) -/

/-- Whether the OPEN window, if there is one, includes a leg, is told by the windows granted. -/
theorem windowOn_of_grants {s t : State} (h : t.grants = s.grants) (g : LegId) : t.windowOn g = s.windowOn g := by
  have hbare : ∀ u : State, u.windowOn g =
      (u.grants.table.find? fun w => w.state == .opened).elim false fun w => w.legs.get g := fun u => by
    have hfind : (u.grants.table.find? fun w => w.state == .opened) = u.openWindow.map Window.bare := List.find?_map ..
    rw [hfind, State.windowOn]
    cases u.openWindow <;> rfl
  rw [hbare, hbare, h]

theorem watched_of_grants {s t : State} (hplan : t.plan = s.plan) (h : t.grants = s.grants) (g : LegId) (b : Nat) :
    t.watched g b = s.watched g b := by
  unfold State.watched
  rw [hplan, windowOn_of_grants h]

/-- Every bin of a leg that is not watched is QUIET (R179). -/
def QuietOn (s : State) (g : LegId) : Prop := ∀ b < 64, s.watched g b = false → (s.ingLeg g).detector b = .quiet

theorem ingressInv_iff (s : State) : IngressInv s ↔ (∀ g, QuietOn s g) ∧ LogInv s.ing :=
  ⟨fun h => ⟨h.quiet, h.log, h.discards⟩, fun h => ⟨h.1, h.2.1, h.2.2⟩⟩

/-- What keeps the plan and the windows granted, and every leg QUIET where it is not watched, and the log within its bounds. -/
structure WatchKept (s t : State) : Prop where
  plan   : t.plan = s.plan
  grants : t.grants = s.grants
  quiet  : ∀ g, QuietOn s g → QuietOn t g
  log    : LogInv s.ing → LogInv t.ing

namespace WatchKept

theorem refl' (s : State) : WatchKept s s := ⟨rfl, rfl, fun _ h => h, id⟩

theorem trans {s t u : State} (h : WatchKept s t) (h' : WatchKept t u) : WatchKept s u :=
  ⟨h'.plan.trans h.plan, h'.grants.trans h.grants, fun g hg => h'.quiet g (h.quiet g hg), fun hl => h'.log (h.log hl)⟩

theorem of_detectors {s t : State} (hplan : t.plan = s.plan) (hgrants : t.grants = s.grants)
    (hd : ∀ g, (t.ingLeg g).detectors = (s.ingLeg g).detectors) (hlog : LogInv s.ing → LogInv t.ing) : WatchKept s t where
  plan   := hplan
  grants := hgrants
  quiet  := fun g h b hb hw => by
    rw [IngressLeg.detector, hd]
    exact h b hb (by rw [← watched_of_grants hplan hgrants]; exact hw)
  log    := hlog

theorem of_monitor {s t : State} (hplan : t.plan = s.plan) (hgrants : t.grants = s.grants) (h : t.monitor = s.monitor) :
    WatchKept s t :=
  of_detectors hplan hgrants (detectors_of_monitor h) (logInv_of_monitor h)

theorem of_ing {s t : State} (hplan : t.plan = s.plan) (hwin : t.win = s.win) (h : t.ing = s.ing) : WatchKept s t :=
  of_monitor hplan (grants_of_win hwin) (monitor_of_ing h)

theorem keeps {s t : State} (h : WatchKept s t) (hs : IngressInv s) : IngressInv t := by
  rw [ingressInv_iff] at hs ⊢
  exact ⟨fun g => h.quiet g (hs.1 g), h.log hs.2⟩

theorem settlePairing (o : PairingOutcome) (e p n : Option Nat) (s : State) : WatchKept s (settlePairing o e p n s) :=
  of_detectors (by simp) (grants_of_win (by simp)) (fun _ => detectors_of_recordless (settlePairing_recordless ..))
    (settlePairing_logInv o e p n)

theorem fileRecord (g : LegId) (long cut : Bool) (time : Nat) (s : State) : WatchKept s (fileRecord g long cut time s) :=
  of_detectors (by simp) (grants_of_win (by simp)) (fun _ => detectors_of_recordless (fileRecord_recordless ..))
    (fileRecord_logInv g long cut time)

theorem closeRecord (g : LegId) (long cut : Bool) (time : Nat) (s : State) : WatchKept s (closeRecord g long cut time s) :=
  of_detectors (by simp) (grants_of_win (by simp)) (fun _ => detectors_of_recordless (closeRecord_recordless ..))
    (closeRecord_logInv g long cut time)

theorem closeIfQuiet (g : LegId) (s : State) : WatchKept s (closeIfQuiet g s) :=
  of_detectors (by simp) (grants_of_win (by simp)) (closeIfQuiet_detectors g s) (closeIfQuiet_logInv g)

/-- A leg's part rewritten with its detectors kept. -/
theorem setIngLeg (s : State) (g : LegId) {l : IngressLeg} (h : l.detectors = (s.ingLeg g).detectors) :
    WatchKept s (s.setIngLeg g l) := by
  refine of_detectors rfl rfl (fun i => ?_) id
  rw [State.setIngLeg_ingLeg]
  split
  · next hi => rw [h, hi]
  · rfl

/-- A leg's detectors rewritten, with every bin that is not watched QUIET afterwards. -/
theorem setDetectors (s : State) (g : LegId) {l : IngressLeg}
    (h : QuietOn s g → ∀ b < 64, s.watched g b = false → l.detector b = .quiet) : WatchKept s (s.setIngLeg g l) := by
  refine ⟨rfl, rfl, fun i hi b hb hw => ?_, id⟩
  rw [State.setIngLeg_ingLeg]
  split
  · next hig => subst hig; exact h hi b hb hw
  · exact hi b hb hw

theorem choose (s : State) : WatchKept s (choose s) := of_monitor (by simp) (choose_grants s) (choose_monitor s)

theorem endSweep (id : Nat) (o : SweepOutcome) (m n : Nat) (s : State) : WatchKept s (endSweep id o m n s) :=
  of_monitor (by simp) (endSweep_grants ..) (endSweep_monitor ..)

end WatchKept

/-! ### Detectors forced QUIET (R37, R179) -/

theorem getD_map_bins {α : Type} (f : Nat → α) (d : α) {b : Nat} (hb : b < 64) : (allBins.map f).getD b d = f b := by
  simp [allBins, List.getD, List.getElem?_map, List.getElem?_range hb]

theorem watchedDetectors_quiet (g : LegId) (s : State) {b : Nat} (hb : b < 64) (hw : s.watched g b = false) :
    (watchedDetectors g s).getD b .quiet = .quiet := by
  rw [watchedDetectors, getD_map_bins _ _ hb, hw]
  rfl

theorem WatchKept.forceQuiet (g : LegId) (s : State) : WatchKept s (forceQuiet g s) :=
  (setDetectors s g (l := { s.ingLeg g with detectors := watchedDetectors g s }) fun _ _ hb hw =>
    watchedDetectors_quiet g s hb hw).trans (closeIfQuiet g _)

/-- A leg whose detectors are forced has every bin that is not watched QUIET (R179). -/
theorem quietOn_forceQuiet (g : LegId) (s : State) : QuietOn (forceQuiet g s) g := by
  refine (WatchKept.closeIfQuiet g _).quiet g fun b hb hw => ?_
  rw [State.setIngLeg_ingLeg, if_pos rfl]
  exact watchedDetectors_quiet g s hb hw

/-- A leg that is not among those to be forced has every bin that is not watched QUIET already (R37, R179). -/
theorem quietOn_or_forced (s : State) (g : LegId) : QuietOn s g ∨ [forceQuiet g] ∈ quietBlocks s := by
  by_cases h : (s.ingLeg g).burstBins.any (fun b => !s.watched g b) = true
  · exact .inr (List.mem_map.mpr ⟨g, List.mem_filter.mpr ⟨mem_allLegs g, h⟩, rfl⟩)
  · refine .inl fun b hb hw => ?_
    cases hd : (s.ingLeg g).detector b with
    | quiet => rfl
    | burst =>
      refine absurd (List.any_eq_true.mpr ⟨b, ?_, by simp [hw]⟩) h
      simpa [IngressLeg.burstBins, allBins, hd] using hb

/-- When blocks act together, those that force detectors among them, every leg is QUIET afterwards where it is not watched. -/
theorem quietOn_together {s : State} {blocks : List (List (State → State))} (hforced : ∀ b ∈ quietBlocks s, b ∈ blocks)
    (hkept : ∀ b ∈ blocks, ∀ f ∈ b, ∀ t, WatchKept t (f t)) (g : LegId) : QuietOn (together blocks s) g := by
  have draws : ∀ t n, QuietOn t g → QuietOn (t.setDraws n) g := fun t n h => (WatchKept.of_ing rfl rfl rfl).quiet g h
  rcases quietOn_or_forced s g with h | h
  · exact together_keeps draws blocks s (fun b hb f hf t => (hkept b hb f hf t).quiet g) h
  · exact together_reaches draws (quietOn_forceQuiet g) blocks s
      (List.mem_flatten.mpr ⟨_, hforced _ h, List.mem_singleton_self _⟩) fun b hb f hf t => (hkept b hb f hf t).quiet g

theorem logInv_together {s : State} {blocks : List (List (State → State))}
    (hkept : ∀ b ∈ blocks, ∀ f ∈ b, ∀ t, WatchKept t (f t)) (h : LogInv s.ing) : LogInv (together blocks s).ing :=
  together_keeps (P := fun t => LogInv t.ing) (fun _ _ h => h) blocks s (fun b hb f hf t => (hkept b hb f hf t).log) h

/-- The news of a closing window leaves every leg QUIET where it is not watched (R179). -/
theorem informClosing_ingressInv (r : Report) {s : State} (h : LogInv s.ing) : IngressInv (informClosing r s) := by
  have hpost : ∀ t, WatchKept t (post r t) := fun t => .of_ing (by simp) (by simp) (by simp)
  rw [ingressInv_iff]
  unfold informClosing
  split
  · next hq =>
    have hall : ∀ g, QuietOn s g := fun g => (quietOn_or_forced s g).resolve_right (by simp [hq])
    have hkept : WatchKept s (choose (post r s)) := (hpost s).trans (.choose _)
    exact ⟨fun g => hkept.quiet g (hall g), hkept.log h⟩
  · have hkept := closingBlocks_forall (Q := fun f => ∀ t, WatchKept t (f t)) (s := s) hpost .choose .forceQuiet
    exact ⟨quietOn_together (fun b hb => List.mem_cons_of_mem _ (List.mem_cons_of_mem _ hb)) hkept, logInv_together hkept h⟩

theorem classBlocks_ingressInv {s : State} (h : LogInv s.ing) : IngressInv (together (classActions s :: quietBlocks s) s) := by
  have hkept := classBlocks_forall (Q := fun f => ∀ t, WatchKept t (f t)) (s := s) (fun id _ => .endSweep id _ _ _)
    (fun t => .of_ing (by simp) (by simp) (by simp)) .choose .forceQuiet
  rw [ingressInv_iff]
  exact ⟨quietOn_together (fun b hb => List.mem_cons_of_mem _ hb) hkept, logInv_together hkept h⟩

end Sys2Proof.Machine
end

section
/-! PROOFS. Every step keeps the ingress monitor's detectors and log (R179, R189): the monitor's own operations, and every step. -/

namespace Sys2Proof.Machine

open Sys2Proof

/-! ### A record opens (R185, R195) -/

/-- A record with the model's next number and an outcome, opened on its leg (R185; log 14). -/
def putRecord (g : LegId) (r : BurstRecord) (o : PairingOutcome) (s : State) : State :=
  (s.setIng { s.ing with serial := s.ing.serial + 1 }).setIngLeg g
    { s.ingLeg g with record := some { r with serial := s.ing.serial, outcome := o } }

/-- A record opened with a pairing that asks for a snapshot, up to the grant decision (R195, row 4). -/
def snapshotAsked (g : LegId) (r : BurstRecord) (s : State) : State :=
  let s1 := putRecord g r .pending s
  let s2 := s1.setIng { s1.ing with pairing := some ⟨g, s.ing.serial, none, none⟩ }
  let s3 := s2.setLag ⟨.capturing, some g, some (s.legSettings g).profileBins, none⟩
  s3.setCap { s3.cap with waiting := some g }

/-- The blocks that the opening of a record leaves alone. -/
@[simp] theorem putRecord_frame (g : LegId) (r : BurstRecord) (o : PairingOutcome) (s : State) :
    (putRecord g r o s).pending = s.pending ∧ (putRecord g r o s).draws = s.draws ∧
    (putRecord g r o s).inReset = s.inReset ∧ (putRecord g r o s).time = s.time ∧ (putRecord g r o s).msg = s.msg ∧
    (putRecord g r o s).win = s.win ∧ (putRecord g r o s).plan = s.plan ∧ (putRecord g r o s).legs = s.legs ∧
    (putRecord g r o s).seq = s.seq ∧ (putRecord g r o s).probe = s.probe ∧ (putRecord g r o s).cap = s.cap ∧
    (putRecord g r o s).cor = s.cor ∧ (putRecord g r o s).prof = s.prof ∧ (putRecord g r o s).div = s.div ∧
    (putRecord g r o s).arith = s.arith ∧ (putRecord g r o s).map = s.map ∧ (putRecord g r o s).stray = s.stray := ⟨rfl, rfl, rfl, rfl, rfl, rfl, rfl, rfl, rfl, rfl, rfl, rfl, rfl, rfl, rfl, rfl, rfl⟩

/-- The blocks that a request for a snapshot leaves alone. -/
@[simp] theorem snapshotAsked_frame (g : LegId) (r : BurstRecord) (s : State) :
    (snapshotAsked g r s).pending = s.pending ∧ (snapshotAsked g r s).draws = s.draws ∧
    (snapshotAsked g r s).inReset = s.inReset ∧ (snapshotAsked g r s).time = s.time ∧
    (snapshotAsked g r s).msg = s.msg ∧ (snapshotAsked g r s).win = s.win ∧ (snapshotAsked g r s).plan = s.plan ∧
    (snapshotAsked g r s).legs = s.legs ∧ (snapshotAsked g r s).seq = s.seq ∧ (snapshotAsked g r s).probe = s.probe ∧
    (snapshotAsked g r s).cor = s.cor ∧ (snapshotAsked g r s).div = s.div ∧ (snapshotAsked g r s).arith = s.arith ∧
    (snapshotAsked g r s).map = s.map ∧ (snapshotAsked g r s).stray = s.stray := by simp [snapshotAsked]

theorem openRecord_eq (g : LegId) (r : BurstRecord) (s : State) : openRecord g r s =
    if !(s.ingLeg g).settings.pairing then putRecord g r .off s
    else if (s.anchor g).isNone then putRecord g r .noAnchor s
    else if s.prof.lag.state ≠ .free then putRecord g r .slotBusy s
    else choose (snapshotAsked g r s) := rfl

namespace WatchKept

theorem putRecord (g : LegId) (r : BurstRecord) (o : PairingOutcome) (s : State) : WatchKept s (putRecord g r o s) := by
  have hserial : ∀ n, WatchKept s (s.setIng { s.ing with serial := n }) := fun n => of_detectors rfl rfl (fun _ => rfl) id
  refine (hserial _).trans (setIngLeg _ g ?_)
  rfl

theorem snapshotAsked (g : LegId) (r : BurstRecord) (s : State) : WatchKept s (snapshotAsked g r s) := by
  refine (putRecord g r .pending s).trans (of_detectors ?_ (grants_of_win ?_) (fun _ => ?_) fun h => ?_)
  · rfl
  · rfl
  · rfl
  · exact h

theorem openRecord (g : LegId) (r : BurstRecord) (s : State) : WatchKept s (openRecord g r s) := by
  rw [openRecord_eq]
  split
  · exact putRecord ..
  · split
    · exact putRecord ..
    · split
      · exact putRecord ..
      · exact (snapshotAsked g r s).trans (choose _)

theorem scanRecord (g : LegId) (readings : List (Option Int)) (before : List Detector) (s : State) :
    WatchKept s (scanRecord g readings before s) := by
  unfold Machine.scanRecord
  dsimp only
  split
  · exact setIngLeg s g rfl
  · split
    · split
      · exact refl' s
      · exact openRecord g _ s
    · exact refl' s

theorem scanClose (g : LegId) (s : State) : WatchKept s (scanClose g s) := by
  unfold Machine.scanClose
  dsimp only
  split
  · split
    · split
      · refine (closeRecord g true false _ s).trans (setIngLeg _ g ?_)
        rfl
      · exact refl' s
    · exact refl' s
  · exact closeIfQuiet g s

end WatchKept

theorem scanSurvey_detectors (time : Nat) (readings : List (Option Int)) (l : IngressLeg) :
    (scanSurvey time readings l).detectors = l.detectors := by
  unfold scanSurvey
  split
  · rfl
  · dsimp only
    split <;> rfl

/-- A bin that is not watched is not read, and its detector stays (R179, R180, R183). -/
theorem scanDetectors_unwatched (g : LegId) (held : Bool) (levels : List Int) (s : State) (l : IngressLeg) {b : Nat} (hb : b < 64)
    (hw : s.watched g b = false) : (scanDetectors (scanReadings g held levels s) l).getD b .quiet = l.detector b := by
  rw [scanDetectors, getD_map_bins _ _ hb, scanReadings, getD_map_bins _ _ hb, hw]
  rfl

namespace WatchKept

theorem readingScan (g : LegId) (held : Bool) (levels : List Int) (s : State) : WatchKept s (readingScan g held levels s) := by
  unfold Machine.readingScan
  refine trans (trans ?_ (scanRecord g _ _ _)) (scanClose g _)
  refine setDetectors s g fun hq b hb hw => ?_
  rw [IngressLeg.detector, scanSurvey_detectors]
  exact (scanDetectors_unwatched g held levels s _ hb hw).trans (hq b hb hw)

theorem scanned (g : LegId) (levels : List Int) (s : State) : WatchKept s (scanned g levels s) := by
  have hdue : WatchKept s (scanDue g s) := by
    have htime : WatchKept s (s.atClock (s.ingLeg g).nextScan) := of_ing (by simp) (by simp) (by simp)
    refine htime.trans (setIngLeg _ g ?_)
    rfl
  unfold Machine.scanned
  dsimp only
  split
  · exact hdue
  · split
    · exact hdue.trans (of_ing rfl rfl rfl)
    · exact hdue.trans (readingScan g _ levels _)

theorem cancelPairing (g : LegId) (s : State) : WatchKept s (cancelPairing g s) := by
  unfold Machine.cancelPairing
  split
  · exact refl' s
  · split
    · dsimp only
      generalize hu : (withdrawSnapshot g s).setDiv _ = u
      have hu : WatchKept s u := by subst hu; exact of_ing (by simp) (by simp) (by simp)
      have hsettled := hu.trans (settlePairing .off none none none u)
      split
      · exact (hsettled.trans (of_ing (by simp) (by simp) (by simp))).trans (choose (stopSnapshot _))
      · exact hsettled
    · exact refl' s

theorem disableIngress (g : LegId) (s : State) : WatchKept s (disableIngress g s) := by
  unfold Machine.disableIngress
  refine ((fileRecord g false true _ s).trans (cancelPairing g _)).trans (setDetectors _ g fun _ b hb _ => ?_)
  exact List.getD_replicate _ hb

theorem disableWork (g : LegId) (s : State) : WatchKept s (disableWork g s) :=
  disableBlocks_keeps (P := WatchKept s) (fun _ _ h => h.trans (of_ing rfl rfl rfl)) (fun t id h => h.trans (endSweep id _ _ _ t))
    (fun t h => h.trans (choose t)) (fun t h => h.trans (disableIngress g t)) s (refl' s)

theorem searchLag (g : LegId) (s : State) : WatchKept s (searchLag g s) := by
  unfold Machine.searchLag
  dsimp only
  split
  · exact settlePairing ..
  · exact of_detectors rfl rfl (fun _ => rfl) id

theorem snapshotSearched (n : Nat) (j : CorJob) (g : LegId) (k : Nat) (s : State) : WatchKept s (snapshotSearched n j g k s) := by
  have hend : WatchKept s (s.atEndOfWork n j.takenAt (k * k / 10)) := of_ing (by simp) (by simp) (by simp)
  unfold Machine.snapshotSearched
  dsimp only
  split
  · have hlag : ∀ v, WatchKept s ((s.atEndOfWork n j.takenAt (k * k / 10)).setLag v) := fun v =>
      hend.trans (of_ing rfl rfl rfl)
    exact (hlag _).trans (searchLag g _)
  · exact hend

theorem pairingResult (g : LegId) (q : Nat) (s : State) : WatchKept s (pairingResult g q s) := by
  unfold Machine.pairingResult
  split
  · exact refl' s
  · split
    · exact settlePairing ..
    · dsimp only
      split
      · exact settlePairing ..
      · split
        · exact settlePairing ..
        · exact (of_ing (by simp) (by simp) (by simp)).trans (settlePairing ..)

theorem handResult (j : Job) (s : State) : WatchKept s (handResult j s) := by
  unfold Machine.handResult
  split
  · split
    · split
      · exact of_monitor (by simp) ((afterRefinement_grants ..).trans (grants_of_win (by simp)))
          ((afterRefinement_monitor ..).trans (monitor_of_ing (by simp)))
      · exact of_ing (by simp) (by simp) (by simp)
    · exact refl' s
  · split
    · split
      · exact pairingResult ..
      · exact refl' s
    · exact refl' s
  · exact of_monitor (by simp) (judgeCal_grants ..) (judgeCal_monitor ..)

theorem divisionDone (r : Running) (s : State) : WatchKept s (divisionDone r s) := by
  have htime : WatchKept s ((s.atClock (r.startClock + r.job.cycles)).setDiv
      { (s.atClock (r.startClock + r.job.cycles)).div with running := none }) := of_ing (by simp) (by simp) (by simp)
  exact (htime.trans (handResult r.job _)).trans (of_ing rfl rfl rfl)

theorem cutRecords (s : State) : WatchKept s (cutRecords s) := by
  unfold Machine.cutRecords
  generalize allLegs = legs
  induction legs generalizing s with
  | nil => exact refl' s
  | cons g legs ih => exact (closeRecord g false true _ s).trans (ih _)

end WatchKept

/-! ### Windows that come and go -/

/-- A leg stays QUIET where it is not watched when no window leaves it (R179). -/
theorem QuietOn.widen {s t : State} {g : LegId} (h : QuietOn s g) (hplan : t.plan = s.plan)
    (hd : (t.ingLeg g).detectors = (s.ingLeg g).detectors) (hw : s.windowOn g = true → t.windowOn g = true) : QuietOn t g := by
  intro b hb hb'
  rw [IngressLeg.detector, hd]
  refine h b hb ?_
  unfold State.watched at hb' ⊢
  rw [hplan] at hb'
  split at hb'
  · exact hb'
  · cases hs : s.windowOn g with
    | false => rfl
    | true => rw [hw hs] at hb'; exact hb'
  · rfl

theorem windowOn_of_none {s : State} (h : s.openWindow = none) (g : LegId) : s.windowOn g = false := by
  rw [State.windowOn, h]

/-- With no window OPEN no change of the table takes one from a leg. -/
theorem IngressInv.opening {s t : State} (h : IngressInv s) (hnone : s.openWindow = none) (hplan : t.plan = s.plan)
    (hm : t.monitor = s.monitor) : IngressInv t := by
  rw [ingressInv_iff] at h ⊢
  refine ⟨fun g => (h.1 g).widen hplan (detectors_of_monitor hm g) fun hw => ?_, logInv_of_monitor hm h.2⟩
  rw [windowOn_of_none hnone] at hw
  cases hw

/-- A table that keeps the OPEN window takes it from no leg. -/
theorem IngressInv.sameWindow {s t : State} (h : IngressInv s) (hwin : t.openWindow = s.openWindow) (hplan : t.plan = s.plan)
    (hm : t.monitor = s.monitor) : IngressInv t := by
  rw [ingressInv_iff] at h ⊢
  refine ⟨fun g => (h.1 g).widen hplan (detectors_of_monitor hm g) fun hw => ?_, logInv_of_monitor hm h.2⟩
  rwa [State.windowOn, hwin]

theorem serveTimeSet_ingressInv {s : State} (p : List Byte) (h : IngressInv s) : IngressInv (serveTimeSet p s).1 := by
  unfold serveTimeSet
  dsimp only
  split
  · exact h
  · next hopen =>
    have hcut : IngressInv (cutRecords s) := (WatchKept.cutRecords s).keeps h
    have hnone : (cutRecords s).openWindow = none := by simpa [State.openWindow] using hopen
    unfold openStraddling
    split
    · exact hcut.opening hnone (by simp) ((openWindowAt_monitor _ _).trans (monitor_of_ing (by simp)))
    · exact hcut.opening hnone (by simp) (monitor_of_ing (by simp))

theorem joined_openWindow (s : State) {w : Window} (hw : w.state = .pending) : (s.joined w).openWindow = s.openWindow := by
  obtain ⟨before, rest, htable, -, -, hins⟩ := insertWindow_split w s.win.table
  have hjoined : (s.joined w).win.table = before ++ w :: rest := hins
  unfold State.openWindow
  rw [hjoined, htable, List.find?_append, List.find?_append, List.find?_cons_of_neg (by simp [hw])]

theorem serveWindowGrant_ingressInv {s : State} (p : List Byte) (h : IngressInv s) : IngressInv (serveWindowGrant p s).1 := by
  unfold serveWindowGrant
  dsimp only
  split
  · exact h
  · split
    · exact h
    · split
      · exact h
      · split
        · exact h
        · split
          · next hnow => exact h.opening (by simpa using hnow.2) (by simp) (openWindowAt_monitor _ _)
          · refine h.sameWindow (joined_openWindow s ?_) rfl rfl
            rfl

theorem WindowInv.openWindow_of_mem {s : State} (h : WindowInv s) {w : Window} (hw : w ∈ s.win.table) (ho : w.state = .opened) :
    s.openWindow = some w := by
  cases hs : s.openWindow with
  | none => exact absurd ho ((State.openWindow_eq_none s).mp hs w hw)
  | some x => rw [h.openWindow_unique hs hw ho]

/-- The OPEN window stays when a PENDING one is revoked (R28). -/
theorem WindowInv.openWindow_revoked {s : State} (h : WindowInv s) {w : Window} (hw : w ∈ s.win.table) (hp : w.state = .pending) :
    (s.setTable (s.win.table.filter fun x => x.id != w.id)).openWindow = s.openWindow := by
  cases hs : s.openWindow with
  | none =>
    exact (State.openWindow_eq_none _).mpr fun x hx => (State.openWindow_eq_none s).mp hs x (List.mem_of_mem_filter hx)
  | some o =>
    have hmem := List.mem_of_find?_eq_some hs
    have hopen : o.state = .opened := by simpa using List.find?_some hs
    refine (h.sublist List.filter_sublist).openWindow_of_mem (List.mem_filter.mpr ⟨hmem, ?_⟩) hopen
    have hne : o.id ≠ w.id := fun hid => by
      rw [List.inj_on_of_nodup_map h.ids hmem hw hid, hp] at hopen
      cases hopen
    simpa using hne

theorem serveWindowRevoke_ingressInv {s : State} (p : List Byte) (hw : WindowInv s) (h : IngressInv s) :
    IngressInv (serveWindowRevoke p s).1 := by
  unfold serveWindowRevoke
  split
  · exact h
  · next w hfind =>
    dsimp only
    split
    · next hp => exact h.sameWindow (hw.openWindow_revoked (List.mem_of_find?_eq_some hfind) hp) rfl rfl
    · exact informClosing_ingressInv _ (by simpa using ((ingressInv_iff s).mp h).2)

theorem serveClassSet_ingressInv {s : State} (p : List Byte) (h : IngressInv s) : IngressInv (serveClassSet p s).1 := by
  unfold serveClassSet
  dsimp only
  split
  · exact h
  · exact classBlocks_ingressInv (by simpa using ((ingressInv_iff s).mp h).2)

theorem QuietEdit.ingressInv {s : State} {v : Ingress} (hv : QuietEdit s.ing v) (h : IngressInv s) : IngressInv (s.setIng v) :=
  WatchKept.keeps (s := s) (.of_detectors rfl rfl hv.detectors fun hl => ⟨hv.log.trans hl.1, hv.discards.trans_le hl.2⟩) h

theorem serveLegEnable_watchKept (p : List Byte) (s : State) : WatchKept s (serveLegEnable p s).1 := by
  unfold serveLegEnable
  split
  · exact .refl' s
  · dsimp only
    split
    · exact .refl' s
    · exact .refl' s
    · refine .trans ?_ (.choose _)
      exact .of_ing rfl rfl rfl

theorem serveLegDisable_watchKept (p : List Byte) (s : State) : WatchKept s (serveLegDisable p s).1 := by
  unfold serveLegDisable
  split
  · exact .refl' s
  · next g _ =>
    dsimp only
    split
    · exact .refl' s
    · refine .trans ?_ (.disableWork g _)
      exact .of_ing rfl rfl rfl

theorem serveSweepReq_watchKept (p : List Byte) (s : State) : WatchKept s (serveSweepReq p s).1 := by
  unfold serveSweepReq
  dsimp only
  (repeat' split)
  on_goal 6 =>
    refine .trans ?_ (.choose _)
    exact .of_ing rfl rfl rfl
  all_goals exact .refl' s

theorem serveSweepCancel_watchKept (p : List Byte) (s : State) : WatchKept s (serveSweepCancel p s).1 := by
  unfold serveSweepCancel
  split
  · exact .refl' s
  · exact .endSweep ..

/-! ### Every step -/

theorem ingressInv_blocks : BlocksKeep fun s => WindowInv s ∧ IngressInv s := by
  have k := windowInv_blocks
  constructor
  case timeSet => exact fun p h => ⟨k.timeSet p h.1, serveTimeSet_ingressInv p h.2⟩
  case windowGrant => exact fun p h => ⟨k.windowGrant p h.1, serveWindowGrant_ingressInv p h.2⟩
  case windowRevoke => exact fun p h => ⟨k.windowRevoke p h.1, serveWindowRevoke_ingressInv p h.1 h.2⟩
  case classSet => exact fun p hp h => ⟨k.classSet p hp h.1, serveClassSet_ingressInv p h.2⟩
  case ingressEdit => exact fun v hv h => ⟨k.ingressEdit v hv h.1, hv.ingressInv h.2⟩
  case windowOpens =>
    intro s w hw h
    refine ⟨k.windowOpens hw h.1, h.2.opening (openWindow_of_nextToOpen hw).1 (by simp [windowOpened]) ?_⟩
    exact (openWindowAt_monitor _ _).trans (monitor_of_ing (by simp))
  case windowShuts =>
    intro s w hw h
    refine ⟨k.windowShuts hw h.1, informClosing_ingressInv _ ?_⟩
    simpa [windowLeft] using ((ingressInv_iff s).mp h.2).2
  case scans => exact fun g levels h => ⟨k.scans g levels h.1, (WatchKept.scanned g levels _).keeps h.2⟩
  case divisionEnds => exact fun hr h => ⟨k.divisionEnds hr h.1, (WatchKept.divisionDone _ _).keeps h.2⟩
  case legEnable => exact fun p h => ⟨k.legEnable p h.1, (serveLegEnable_watchKept p _).keeps h.2⟩
  case legDisable => exact fun p h => ⟨k.legDisable p h.1, (serveLegDisable_watchKept p _).keeps h.2⟩
  case sweepReq => exact fun p h => ⟨k.sweepReq p h.1, (serveSweepReq_watchKept p _).keeps h.2⟩
  case sweepCancel => exact fun p h => ⟨k.sweepCancel p h.1, (serveSweepCancel_watchKept p _).keeps h.2⟩
  case acquisitionEnds =>
    intro s a xs ha h
    refine ⟨k.acquisitionEnds xs ha h.1, WatchKept.keeps (.trans ?_ (.choose _)) h.2⟩
    exact .of_ing (by simp [acquisitionStopped]) (by simp [acquisitionStopped]) (by simp [acquisitionStopped])
  case snapshotEnds =>
    intro s xs h
    refine ⟨k.snapshotEnds xs h.1, WatchKept.keeps (.trans ?_ (.choose _)) h.2⟩
    exact .of_ing (by simp [snapshotStopped]) (by simp [snapshotStopped]) (by simp [snapshotStopped])
  case acquisitionAdds =>
    intro s n j id l c h
    refine ⟨k.acquisitionAdds n j id l c h.1, WatchKept.keeps (.trans ?_ (.choose _)) h.2⟩
    exact .of_ing (by simp) (by simp) (by simp)
  case snapshotSearches =>
    intro s n j g c h
    refine ⟨k.snapshotSearches n j g c h.1, WatchKept.keeps (.trans ((WatchKept.snapshotSearched n j g c s).trans ?_) (.choose _)) h.2⟩
    exact .of_ing (by simp) (by simp) (by simp)
  case analysisEnds =>
    intro s w id n start acc hw h
    refine ⟨k.analysisEnds n start acc hw h.1, WatchKept.keeps (.of_monitor (by simp) ?_ ?_) h.2⟩
    · exact (completeAnalysis_grants ..).trans (grants_of_win (by simp))
    · exact (completeAnalysis_monitor ..).trans (monitor_of_ing (by simp))
  all_goals
    intros
    rename_i h
    refine ⟨h.1.of_win ?_, (WatchKept.of_ing ?_ ?_ ?_).keeps h.2⟩ <;>
      simp [editMap, burstBegun, listenBegun, snapshotBegun, converted]

theorem ingressInv_reset : IngressInv State.reset := by
  refine ⟨fun g b hb _ => ?_, by decide, by decide⟩
  rw [reset_ingLeg]
  exact (IngressLeg.reset_bin hb).1

/-- Settles O60: each request and event leaves the bins that are not watched QUIET, and the log within bounds. -/
theorem stepsKeepTheWatch : Obligations.StepsKeepTheWatch := by
  unfold Obligations.StepsKeepTheWatch
  intro s t hw h e
  have hmsg : ∀ {s : State} (m : Message), WindowInv s ∧ IngressInv s → WindowInv (s.setMsg m) ∧ IngressInv (s.setMsg m) :=
    fun {s} m h => ⟨h.1.of_win rfl, WatchKept.keeps (s := s) (.of_ing rfl rfl rfl) h.2⟩
  have hpending : ∀ {s : State} (v : List Instr), WindowInv s ∧ IngressInv s →
      WindowInv (s.setPending v) ∧ IngressInv (s.setPending v) :=
    fun {s} v h => ⟨h.1.of_win rfl, WatchKept.keeps (s := s) (.of_ing rfl rfl rfl) h.2⟩
  have hreset : ∀ {s : State}, WindowInv s ∧ IngressInv s → WindowInv s.afterReset ∧ IngressInv s.afterReset :=
    fun _ => ⟨windowInv_reset.of_win rfl, WatchKept.keeps (s := State.reset) (.of_ing rfl rfl rfl) ingressInv_reset⟩
  exact (ingressInv_blocks.step hmsg hpending hreset ⟨hw, h⟩ e).2

end Sys2Proof.Machine
end

section
/-! PROOFS. Every step leaves the probe transmitting only while its gate's condition holds (R57, R61, R62, R68, R77, R79). -/

namespace Sys2Proof.Machine

open Sys2Proof

/-! ### The invariant, with legs that are being torn down -/

/-- The probe's invariant, but for an acquisition in flight on a leg that LEG_DISABLE is tearing down (R68). -/
structure ProbeLawful (down : LegId → Prop) (s : State) : Prop where
  owner : ∀ a, s.seq.inFlight = some a →
    ((s.leg a.leg).state ≠ .off ∨ down a.leg) ∧ ∃ w ∈ s.seq.queue, w.id = a.sweepId ∧ w.leg = a.leg
  gate  : s.transmitting = true → ∃ a, s.seq.inFlight = some a ∧ gateHolds s a = true

theorem probeInv_iff (s : State) : ProbeInv s ↔ ProbeLawful (fun _ => False) s :=
  ⟨fun h => ⟨fun a ha => ⟨.inl (h.owner a ha).1, (h.owner a ha).2⟩, h.gate⟩,
    fun h => ⟨fun a ha => ⟨(h.owner a ha).1.resolve_right id, (h.owner a ha).2⟩, h.gate⟩⟩

/-- The windows granted tell which window is OPEN (R32). -/
theorem windowIsOpen_of_grants {s t : State} (h : t.grants = s.grants) (id : Nat) : t.windowIsOpen id = s.windowIsOpen id := by
  have hbare : ∀ u : State, u.windowIsOpen id =
      (u.grants.table.find? fun w => w.state == .opened).elim false fun w => w.id == id := fun u => by
    have hfind : (u.grants.table.find? fun w => w.state == .opened) = u.openWindow.map Window.bare := List.find?_map ..
    rw [hfind, State.windowIsOpen]
    cases u.openWindow <;> rfl
  rw [hbare, hbare, h]

theorem legSettings_of_settings {s t : State} {g : LegId} (h : (t.leg g).settings = (s.leg g).settings) :
    t.legSettings g = s.legSettings g := by rw [State.legSettings, h, State.legSettings]

/-- What the gate's condition reads: the map, the leg's settings and the OPEN window (R79). -/
theorem gateHolds_congr {s t : State} {a : InFlight} (hplan : t.plan = s.plan)
    (hset : (t.leg a.leg).settings = (s.leg a.leg).settings) (hwin : ∀ id, t.windowIsOpen id = s.windowIsOpen id) :
    gateHolds t a = gateHolds s a := by
  unfold gateHolds State.windowFree State.admissible
  rw [hplan, legSettings_of_settings hset]
  split
  · rfl
  · rw [hwin]

/-- What leaves all that the probe's invariant reads. -/
structure ProbeSame (s t : State) : Prop where
  flight   : t.seq.inFlight = s.seq.inFlight
  owners   : ∀ w ∈ s.seq.queue, ∃ v ∈ t.seq.queue, v.id = w.id ∧ v.leg = w.leg
  legs     : ∀ g, (t.leg g).state = .off → (s.leg g).state = .off
  settings : ∀ g, (t.leg g).settings = (s.leg g).settings
  plan     : t.plan = s.plan
  grants   : t.grants = s.grants
  probe    : t.probe.phase = s.probe.phase ∧ t.probe.gate = s.probe.gate

section
variable {down : LegId → Prop} {s t : State}

theorem transmitting_congr (h : t.probe.phase = s.probe.phase ∧ t.probe.gate = s.probe.gate) :
    t.transmitting = s.transmitting := by rw [State.transmitting, h.1, h.2, State.transmitting]

theorem ProbeSame.gateHolds (h : ProbeSame s t) (a : InFlight) : gateHolds t a = gateHolds s a :=
  gateHolds_congr h.plan (h.settings a.leg) (windowIsOpen_of_grants h.grants)

theorem ProbeSame.keeps (h : ProbeSame s t) (hs : ProbeLawful down s) : ProbeLawful down t where
  owner a ha := by
    obtain ⟨hleg, w, hw, hid, hwleg⟩ := hs.owner a (h.flight ▸ ha)
    obtain ⟨v, hv, hvid, hvleg⟩ := h.owners w hw
    exact ⟨hleg.imp_left fun hne hoff => hne (h.legs _ hoff), v, hv, hvid.trans hid, hvleg.trans hwleg⟩
  gate ht := by
    obtain ⟨a, ha, hg⟩ := hs.gate (transmitting_congr h.probe ▸ ht)
    exact ⟨a, h.flight ▸ ha, (h.gateHolds a).trans hg⟩

theorem ProbeSame.of_frame (hseq : t.seq = s.seq) (hlegs : t.legs = s.legs) (hplan : t.plan = s.plan)
    (hgrants : t.grants = s.grants) (hprobe : t.probe.phase = s.probe.phase ∧ t.probe.gate = s.probe.gate) : ProbeSame s t := by
  have hleg : ∀ g, t.leg g = s.leg g := fun g => by rw [State.leg, hlegs, State.leg]
  exact ⟨by rw [hseq], fun w hw => ⟨w, by rwa [hseq], rfl, rfl⟩, fun g h => by rwa [hleg] at h, fun g => by rw [hleg], hplan,
    hgrants, hprobe⟩

/-- With nothing in flight and a muted probe there is nothing to say. -/
theorem ProbeLawful.of_idle (hflight : s.seq.inFlight = none) (hprobe : s.transmitting = false) : ProbeLawful down s :=
  { owner := fun a ha => by rw [hflight] at ha; cases ha
    gate  := fun ht => by rw [hprobe] at ht; cases ht }

theorem ProbeLawful.frame (hs : ProbeLawful down s) (hseq : t.seq = s.seq) (hlegs : t.legs = s.legs) (hplan : t.plan = s.plan)
    (hgrants : t.grants = s.grants) (hprobe : t.probe.phase = s.probe.phase ∧ t.probe.gate = s.probe.gate) :
    ProbeLawful down t :=
  (ProbeSame.of_frame hseq hlegs hplan hgrants hprobe).keeps hs

theorem updateSweep_same (s : State) {id : Nat} {f : Sweep → Sweep} (hf : ∀ w, (f w).id = w.id ∧ (f w).leg = w.leg) :
    ProbeSame s (s.updateSweep id f) := by
  refine ⟨rfl, fun w hw => ⟨_, List.mem_map_of_mem hw, ?_⟩, fun g h => h, fun g => rfl, rfl, rfl, rfl, rfl⟩
  split
  exacts [hf w, ⟨rfl, rfl⟩]

/-- A leg's record rewritten with its settings and without turning it OFF. -/
theorem setLeg_same (s : State) (g : LegId) {r : LegRecord} (hoff : r.state = .off → (s.leg g).state = .off)
    (hset : r.settings = (s.leg g).settings) : ProbeSame s (s.setLeg g r) := by
  refine ⟨rfl, fun w hw => ⟨w, hw, rfl, rfl⟩, fun i h => ?_, fun i => ?_, rfl, rfl, rfl, rfl⟩
  · rw [State.setLeg_leg] at h
    split at h
    · next hi => rw [hi]; exact hoff h
    · exact h
  · rw [State.setLeg_leg]
    split
    · next hi => rw [hset, hi]
    · rfl

end

/-! ### What the start of an acquisition writes (R57, R78, R83) -/

section
variable (h : HalfId) (w : Sweep) (s : State)

theorem startAcquisition_seq : (startAcquisition h w s).seq =
    { (s.updateSweep w.id (startedSweep (s.leg w.leg).level)).seq with
      inFlight := some ⟨w.id, w.leg, basisOf s w.leg, s.time.timebase, s.time.clock⟩ } := by
  unfold startAcquisition
  dsimp only
  split <;> simp

theorem startAcquisition_probe : (startAcquisition h w s).probe =
    { s.probe with phase := .settle, gate := false, carrier := some (s.legSettings w.leg).carrier } := by
  unfold startAcquisition
  dsimp only
  split <;> simp

theorem startAcquisition_cap : (startAcquisition h w s).cap =
    { s.cap.setHalf h ((s.cap.half h).grant
        (.acquisition w.id w.leg (s.legSettings w.leg).codeLength (s.legSettings w.leg).profileBins)) with
      stream := .acquisition, coupler := some w.leg, position := 0, sampling := none } := by
  unfold startAcquisition
  dsimp only
  split <;> simp

theorem startAcquisition_prof : (startAcquisition h w s).prof = (s.setSlot w.slot (fillingSlot (s.slot w.slot))).prof := by
  unfold startAcquisition
  dsimp only
  split <;> simp [State.setSlot, State.slot]

end

/-! ### The choice, and the end of an acquisition -/

section
variable {down : LegId → Prop} {s : State}

theorem startAcquisition_lawful (h : HalfId) {w : Sweep} (hw : w ∈ s.seq.queue) (hleg : (s.leg w.leg).state = .enabled) :
    ProbeLawful down (startAcquisition h w s) where
  owner a ha := by
    rw [startAcquisition_seq] at ha ⊢
    obtain rfl := Option.some.inj ha
    have hlegs : (startAcquisition h w s).leg w.leg = s.leg w.leg := by simp [State.leg]
    refine ⟨.inl (by simp [hlegs, hleg]), _, List.mem_map_of_mem hw, ?_⟩
    unfold startedSweep
    split
    · split <;> exact ⟨rfl, rfl⟩
    · exact ⟨rfl, rfl⟩
  gate ht := by
    simp [State.transmitting, startAcquisition_probe] at ht

theorem chosen_enabled {w : Sweep} (h : chosen s = some w) : w ∈ s.seq.queue ∧ (s.leg w.leg).state = .enabled := by
  have hmay := (eligible_iff s w).mp (List.find?_some h)
  obtain ⟨-, -, henabled, -⟩ := hmay
  exact ⟨List.mem_of_find?_eq_some h, henabled⟩

theorem choose_lawful (hs : ProbeLawful down s) : ProbeLawful down (choose s) := by
  unfold choose
  split
  · exact hs
  · split
    · exact hs
    · split
      · next w hw =>
        split at hw
        · obtain ⟨hmem, henabled⟩ := chosen_enabled hw
          exact startAcquisition_lawful _ hmem henabled
        · cases hw
      · split
        · refine hs.frame ?_ ?_ ?_ (grants_of_win ?_) ?_ <;> simp [startSnapshot]
        · exact hs

theorem abandon_lawful (hs : ProbeLawful down s) : ProbeLawful down (abandon s) := by
  unfold abandon
  split
  · exact hs
  · refine .of_idle ?_ ?_
    · simp [State.updateSweep]
    · simp [State.transmitting, probeIdle]

theorem dropSweep_lawful (id : Nat) (hs : ProbeLawful down s) : ProbeLawful down (dropSweep id s) := by
  unfold dropSweep
  dsimp only
  split
  · next a ha =>
    split
    · refine .of_idle ?_ ?_
      · simp [abandon, State.updateSweep, ha]
      · simp [abandon, State.transmitting, probeIdle, ha]
    · next hne =>
      refine ⟨fun b hb => ?_, hs.gate⟩
      obtain ⟨hleg, w, hw, hid, hwleg⟩ := hs.owner b hb
      obtain rfl : a = b := Option.some.inj (ha.symm.trans hb)
      exact ⟨hleg, w, List.mem_filter.mpr ⟨hw, by simpa [hid] using hne⟩, hid, hwleg⟩
  · next hnone =>
    refine ⟨fun b hb => ?_, hs.gate⟩
    rw [State.setSeq_seq, hnone] at hb
    cases hb

theorem endSweep_lawful (id : Nat) (o : SweepOutcome) (m n : Nat) (hs : ProbeLawful down s) :
    ProbeLawful down (endSweep id o m n s) := by
  unfold endSweep
  split
  · exact hs
  · have hdrop := dropSweep_lawful id hs
    dsimp only
    split
    · refine choose_lawful (hdrop.frame ?_ ?_ ?_ (grants_of_win ?_) ?_) <;> simp
    · refine hdrop.frame ?_ ?_ ?_ (grants_of_win ?_) ?_ <;> simp

theorem endSweeps_lawful (o : SweepOutcome) (ids : List Nat) (hs : ProbeLawful down s) : ProbeLawful down (endSweeps o ids s) := by
  unfold endSweeps
  induction ids generalizing s with
  | nil => exact hs
  | cons id ids ih => exact ih (endSweep_lawful id o 0 0 hs)

theorem judgeClasses_lawful (hs : ProbeLawful down s) : ProbeLawful down (judgeClasses s) := by
  unfold judgeClasses
  split
  · exact hs
  · split
    · exact abandon_lawful hs
    · exact hs

/-- The gate judged again holds its condition (R79). -/
theorem judgeGate_lawful (hs : ∀ a, s.seq.inFlight = some a →
    ((s.leg a.leg).state ≠ .off ∨ down a.leg) ∧ ∃ w ∈ s.seq.queue, w.id = a.sweepId ∧ w.leg = a.leg)
    (hidle : s.seq.inFlight = none → s.transmitting = false) : ProbeLawful down (judgeGate s) := by
  unfold judgeGate
  split
  · next hnone => exact .of_idle hnone (hidle hnone)
  · next a ha =>
    refine ⟨hs, fun ht => ⟨a, ha, ?_⟩⟩
    simp only [State.transmitting, State.setProbe_probe, Bool.and_eq_true] at ht
    exact ht.2.2

theorem cancelPairing_lawful (g : LegId) (hs : ProbeLawful down s) : ProbeLawful down (cancelPairing g s) := by
  unfold cancelPairing
  split
  · exact hs
  · split
    · dsimp only
      split
      · refine choose_lawful (hs.frame ?_ ?_ ?_ (grants_of_win ?_) ?_) <;> simp
      · refine hs.frame ?_ ?_ ?_ (grants_of_win ?_) ?_ <;> simp
    · exact hs

theorem disableIngress_lawful (g : LegId) (hs : ProbeLawful down s) : ProbeLawful down (disableIngress g s) := by
  unfold disableIngress
  have hfile : ProbeLawful down (fileRecord g false true s.time.timebase s) := by
    refine hs.frame ?_ ?_ ?_ (grants_of_win ?_) ?_ <;> simp
  exact (cancelPairing_lawful g hfile).frame rfl rfl rfl rfl ⟨rfl, rfl⟩

theorem openRecord_lawful (g : LegId) (r : BurstRecord) (hs : ProbeLawful down s) : ProbeLawful down (openRecord g r s) := by
  have hput : ∀ o, ProbeLawful down (putRecord g r o s) := fun o =>
    hs.frame (by simp) (by simp) (by simp) (grants_of_win (by simp)) (by simp)
  rw [openRecord_eq]
  split
  · exact hput _
  · split
    · exact hput _
    · split
      · exact hput _
      · exact choose_lawful (hs.frame (by simp) (by simp) (by simp) (grants_of_win (by simp)) (by simp))

theorem scanRecord_lawful (g : LegId) (readings : List (Option Int)) (before : List Detector) (hs : ProbeLawful down s) :
    ProbeLawful down (scanRecord g readings before s) := by
  unfold scanRecord
  dsimp only
  split
  · exact hs.frame rfl rfl rfl rfl ⟨rfl, rfl⟩
  · split
    · split
      · exact hs
      · exact openRecord_lawful g _ hs
    · exact hs

theorem scanClose_lawful (g : LegId) (hs : ProbeLawful down s) : ProbeLawful down (scanClose g s) :=
  hs.frame (by simp) (by simp) (by simp) (grants_of_win (by simp)) (by simp)

theorem readingScan_lawful (g : LegId) (held : Bool) (levels : List Int) (hs : ProbeLawful down s) :
    ProbeLawful down (readingScan g held levels s) := by
  have hing : ∀ l, ProbeLawful down (s.setIngLeg g l) := fun l => hs.frame rfl rfl rfl rfl ⟨rfl, rfl⟩
  unfold readingScan
  exact scanClose_lawful g (scanRecord_lawful g _ _ (hing _))

theorem scanned_lawful (g : LegId) (levels : List Int) (hs : ProbeLawful down s) : ProbeLawful down (scanned g levels s) := by
  have hdue : ProbeLawful down (scanDue g s) := by
    refine hs.frame ?_ ?_ ?_ (grants_of_win ?_) ?_ <;> simp [scanDue, State.atClock]
  have hleg : (scanDue g s).leg g = s.leg g := by simp [scanDue, State.leg]
  unfold scanned
  dsimp only
  split
  · exact hdue
  · split
    · exact (setLeg_same _ g (by simp [hleg]) (by simp [hleg])).keeps hdue
    · exact readingScan_lawful g _ levels hdue

/-! ### Reconciliation and the results of the divider -/

theorem faultLeg_lawful (g : LegId) (id : Nat) (hs : ProbeLawful down s) : ProbeLawful down (faultLeg g id s) := by
  unfold faultLeg
  refine choose_lawful (endSweeps_lawful _ _ ?_)
  have hleg := (setLeg_same s g (r := { s.leg g with state := .faulted }) nofun rfl).keeps hs
  exact hleg.frame rfl rfl rfl rfl ⟨rfl, rfl⟩

theorem reconcile_lawful (id : Nat) (hs : ProbeLawful down s) : ProbeLawful down (reconcile id s) := by
  cases hw : s.findSweep id with
  | none => rwa [reconcile_gone hw]
  | some w =>
    have hmeasure : ProbeLawful down (measurePeaks w s) := by
      unfold measurePeaks
      refine ProbeSame.keeps (updateSweep_same _ ?_) (hs.frame rfl rfl rfl rfl ⟨rfl, rfl⟩)
      exact fun _ => ⟨rfl, rfl⟩
    have hlevel : ProbeLawful down (reconciledLevel w s) := by
      have hset := (setLeg_same (measurePeaks w s) w.leg (r := judgedLeg w s) (by simp [judgedLeg, State.leg])
        (by simp [judgedLeg, State.leg])).keeps hmeasure
      refine hset.frame ?_ ?_ ?_ (grants_of_win ?_) ?_
      · simp [reconciledLevel, reconciledElements]
      · rw [reconciledLevel_legs]; simp [State.setLeg]
      all_goals simp [reconciledLevel, reconciledElements]
    rw [reconcile_eq hw]
    dsimp only
    split
    · exact faultLeg_lawful _ _ (endSweep_lawful _ _ _ _ hlevel)
    · exact endSweep_lawful _ _ _ _ hlevel

theorem flagSweep_lawful (id : Nat) (f : SweepFlags → SweepFlags) (hs : ProbeLawful down s) : ProbeLawful down (flagSweep id f s) := by
  refine ProbeSame.keeps (updateSweep_same s ?_) hs
  exact fun _ => ⟨rfl, rfl⟩

theorem calFailed_lawful (id : Nat) (hs : ProbeLawful down s) : ProbeLawful down (calFailed id s) :=
  reconcile_lawful id (flagSweep_lawful id _ hs)

theorem handBatch_lawful (jobs : List (JobOwner × Nat × Nat × Bool)) (hs : ProbeLawful down s) :
    ProbeLawful down (handBatch jobs s) :=
  hs.frame rfl rfl rfl rfl ⟨rfl, rfl⟩

theorem afterRefinement_lawful (w : Sweep) (hs : ProbeLawful down s) : ProbeLawful down (afterRefinement w s) := by
  unfold afterRefinement anchorSearch
  split
  · split
    · exact hs
    · split
      · exact calFailed_lawful _ hs
      · split
        · exact calFailed_lawful _ hs
        · exact handBatch_lawful _ hs
  · exact reconcile_lawful _ hs

theorem judgeCal_lawful (id a d : Nat) (r : Option (Nat × Nat)) (hs : ProbeLawful down s) :
    ProbeLawful down (judgeCal id a d r s) := by
  unfold judgeCal
  split
  · exact hs
  · split
    · split
      · next w _ _ _ _ _ _ _ =>
        have hcal : ∀ c, ProbeLawful down (setCal w.leg c s) := fun c => hs.frame rfl rfl rfl rfl ⟨rfl, rfl⟩
        exact reconcile_lawful _ (flagSweep_lawful _ _ (hcal _))
      · exact calFailed_lawful _ hs
    · exact calFailed_lawful _ hs

theorem completeAnalysis_lawful (w : Sweep) (acc : List Nat) (hs : ProbeLawful down s) :
    ProbeLawful down (completeAnalysis w acc s) := by
  unfold completeAnalysis
  dsimp only
  generalize hu : flagSweep w.id _ (mapContent w.slot _ s) = u
  have hu : ProbeLawful down u := by
    subst hu
    exact flagSweep_lawful _ _ (hs.frame (t := mapContent w.slot _ s) rfl rfl rfl rfl ⟨rfl, rfl⟩)
  split
  · refine endSweep_lawful _ _ _ _ ((setLeg_same u w.leg ?_ ?_).keeps hu)
    · exact id
    · rfl
  · split
    · exact afterRefinement_lawful w hu
    · exact handBatch_lawful _ hu

theorem handResult_lawful (j : Job) (hs : ProbeLawful down s) : ProbeLawful down (handResult j s) := by
  unfold handResult
  split
  · split
    · have hwrite : ∀ w k q, ProbeLawful down (writeRefined w k q s) := fun w k q => hs.frame rfl rfl rfl rfl ⟨rfl, rfl⟩
      split
      · exact afterRefinement_lawful _ (hwrite _ _ _)
      · exact hwrite _ _ _
    · exact hs
  · split
    · split
      · refine hs.frame ?_ ?_ ?_ (grants_of_win ?_) ?_ <;> simp
      · exact hs
    · exact hs
  · exact judgeCal_lawful _ _ _ _ hs

theorem divisionDone_lawful (r : Running) (hs : ProbeLawful down s) : ProbeLawful down (divisionDone r s) := by
  have htime : ProbeLawful down ((s.atClock (r.startClock + r.job.cycles)).setDiv
      { (s.atClock (r.startClock + r.job.cycles)).div with running := none }) := hs.frame rfl rfl rfl rfl ⟨rfl, rfl⟩
  exact (handResult_lawful r.job htime).frame rfl rfl rfl rfl ⟨rfl, rfl⟩

end

end Sys2Proof.Machine
end

section
/-! PROOFS. Every step leaves the probe transmitting only while its gate's condition holds: the windows, the map, LEG_DISABLE, and
every step. -/

namespace Sys2Proof.Machine

open Sys2Proof

section
variable {down : LegId → Prop} {s t : State}

/-! ### The windows and the map -/

/-- A table of windows that serves the acquisition in flight as the old one did (R79). -/
theorem ProbeLawful.window (hs : ProbeLawful down s) (hseq : t.seq = s.seq) (hlegs : t.legs = s.legs) (hplan : t.plan = s.plan)
    (hprobe : t.probe.phase = s.probe.phase ∧ t.probe.gate = s.probe.gate)
    (hwin : ∀ id, s.windowIsOpen id = true → t.windowIsOpen id = true) : ProbeLawful down t where
  owner a ha := by
    rw [hseq] at ha ⊢
    rw [State.leg, hlegs]
    exact hs.owner a ha
  gate ht := by
    obtain ⟨a, ha, hg⟩ := hs.gate (transmitting_congr hprobe ▸ ht)
    refine ⟨a, by rwa [hseq], ?_⟩
    have hset : t.legSettings a.leg = s.legSettings a.leg := by
      rw [State.legSettings, State.leg, hlegs, State.legSettings, State.leg]
    unfold gateHolds State.windowFree State.admissible at hg ⊢
    rw [hplan, hset]
    split at hg
    · exact hg
    · rw [Bool.and_eq_true] at hg ⊢
      exact ⟨hg.1, hwin _ hg.2⟩

theorem windowIsOpen_of_none (h : s.openWindow = none) (id : Nat) : s.windowIsOpen id = false := by
  rw [State.windowIsOpen, h]

theorem openWindowAt_lawful (id : Nat) (hs : ProbeLawful down s) (hnone : s.openWindow = none) :
    ProbeLawful down (openWindowAt id s) :=
  choose_lawful (hs.window rfl rfl rfl ⟨rfl, rfl⟩ fun i hi => by rw [windowIsOpen_of_none hnone] at hi; cases hi)

theorem informClosing_lawful (r : Report) (hs : ProbeLawful down s) : ProbeLawful down (informClosing r s) := by
  have hpost : ∀ u, ProbeLawful down u → ProbeLawful down (post r u) := fun u hu => hu.frame rfl rfl rfl rfl ⟨rfl, rfl⟩
  unfold informClosing
  split
  · exact choose_lawful (hpost s hs)
  · exact together_keeps (fun u n hu => hu.frame rfl rfl rfl rfl ⟨rfl, rfl⟩) _ _
      (closingBlocks_forall (Q := fun f => ∀ u, ProbeLawful down u → ProbeLawful down (f u)) hpost (fun _ => choose_lawful)
        fun g u hu => hu.frame (by simp) (by simp) (by simp) (grants_of_win (by simp)) (by simp)) hs

theorem idle_of_lawful (hs : ProbeLawful down s) (h : s.seq.inFlight = none) : s.transmitting = false := by
  cases ht : s.transmitting with
  | false => rfl
  | true =>
    obtain ⟨a, ha, -⟩ := hs.gate ht
    rw [h] at ha
    cases ha

/-- The gate judged after a change of the windows or the map (R79). -/
theorem ProbeLawful.judged (hs : ProbeLawful down s) (hseq : t.seq = s.seq) (hlegs : t.legs = s.legs)
    (hprobe : t.probe.phase = s.probe.phase ∧ t.probe.gate = s.probe.gate) : ProbeLawful down (judgeGate t) := by
  refine judgeGate_lawful (fun a ha => ?_) fun h => ?_
  · rw [hseq] at ha ⊢
    rw [State.leg, hlegs]
    exact hs.owner a ha
  · rw [transmitting_congr hprobe]
    exact idle_of_lawful hs (hseq ▸ h)

theorem judgeRevoked_judged (id : Nat) (hs : ProbeLawful down s) (hseq : t.seq = s.seq) (hlegs : t.legs = s.legs)
    (hprobe : t.probe.phase = s.probe.phase ∧ t.probe.gate = s.probe.gate) :
    ProbeLawful down (judgeGate (judgeRevoked id t)) := by
  have hjudged := hs.judged hseq hlegs hprobe
  unfold judgeRevoked
  split
  · exact hjudged
  · next a ha =>
    split
    · split
      · refine judgeGate_lawful (fun b hb => ?_) fun h => by cases h
        obtain rfl := Option.some.inj hb
        have ho := hs.owner a (hseq ▸ ha)
        simpa [State.leg, hlegs, hseq] using ho
      · have hidle : (abandon t).seq.inFlight = none ∧ (abandon t).transmitting = false := by
          simp [abandon, ha, State.updateSweep, State.transmitting, probeIdle]
        exact judgeGate_lawful (fun b hb => by rw [hidle.1] at hb; cases hb) fun _ => hidle.2
    · exact hjudged

theorem classBlocks_lawful (hs : ProbeLawful down s) : ProbeLawful down (together (classActions s :: quietBlocks s) s) :=
  classBlocks_keeps (P := ProbeLawful down) (fun u n hu => hu.frame rfl rfl rfl rfl ⟨rfl, rfl⟩)
    (fun u id hu => endSweep_lawful id _ _ _ hu) (fun _ => judgeClasses_lawful) (fun _ => choose_lawful)
    (fun u g hu => hu.frame (by simp) (by simp) (by simp) (grants_of_win (by simp)) (by simp)) s hs

theorem cutRecords_lawful (hs : ProbeLawful down s) : ProbeLawful down (cutRecords s) :=
  hs.frame (by simp) (by simp) (by simp) (grants_of_win (by simp)) (by simp)

/-! ### Sweeps that end while blocks act together -/

/-- The records of a sequencer without those of several ids. -/
def Sequencer.withoutAll (ids : List Nat) (q : Sequencer) : Sequencer :=
  { q with queue := q.queue.filter fun w => !ids.contains w.id }

theorem withoutAll_nil (q : Sequencer) : q.withoutAll [] = q := by
  unfold Sequencer.withoutAll
  rw [List.filter_eq_self.mpr fun w _ => by simp]

theorem withoutAll_without (ids : List Nat) (id : Nat) (q : Sequencer) :
    (q.withoutAll ids).without id = q.withoutAll (id :: ids) := by
  unfold Sequencer.without Sequencer.withoutAll
  simp only [List.filter_filter]
  refine congrArg (Sequencer.mk · q.nextId q.inFlight) (List.filter_congr fun w _ => ?_)
  rw [List.contains_cons, Bool.not_or]
  rfl

/-- Blocks that act together, some of whose actions end the sweeps of `ids` and whose others leave the records: the records of
`ids` have left the queue, in whatever order (R64; log 7). -/
theorem together_roster {blocks : List (List (State → State))} {ids : List Nat}
    (hact : ∀ b ∈ blocks, ∀ f ∈ b, (∃ id ∈ ids, ∀ t : State, (f t).roster = t.roster.without id) ∨ ∀ t, (f t).roster = t.roster)
    (hall : ∀ id ∈ ids, ∃ f ∈ blocks.flatten, ∀ t : State, (f t).roster = t.roster.without id) (s : State) :
    (together blocks s).roster = s.roster.withoutAll ids := by
  have hsome : ∃ gone : List Nat, (∀ i ∈ gone, i ∈ ids) ∧ (together blocks s).roster = s.roster.withoutAll gone := by
    refine together_keeps (P := fun t => ∃ gone : List Nat, (∀ i ∈ gone, i ∈ ids) ∧ t.roster = s.roster.withoutAll gone)
      (fun _ _ h => h) blocks s (fun b hb f hf t ht => ?_) ⟨[], nofun, (withoutAll_nil _).symm⟩
    obtain ⟨gone, hgone, ht⟩ := ht
    rcases hact b hb f hf with ⟨id, hid, hf⟩ | hf
    · exact ⟨id :: gone, List.forall_mem_cons.mpr ⟨hid, hgone⟩, by rw [hf, ht, withoutAll_without]⟩
    · exact ⟨gone, hgone, (hf t).trans ht⟩
  have hnone : ∀ id ∈ ids, ∀ w ∈ (together blocks s).roster.queue, w.id ≠ id := fun id hid => by
    obtain ⟨f, hf, hwithout⟩ := hall id hid
    refine together_reaches (P := fun t => ∀ w ∈ t.roster.queue, w.id ≠ id) (fun _ _ h => h) (fun t w hw => ?_) blocks s hf
      fun b hb k hk t ht w hw => ?_
    · rw [hwithout] at hw
      simpa using (List.mem_filter.mp hw).2
    · rcases hact b hb k hk with ⟨i, -, hk⟩ | hk
      · rw [hk] at hw
        exact ht w (List.mem_of_mem_filter hw)
      · rw [hk] at hw
        exact ht w hw
  obtain ⟨gone, hgone, hroster⟩ := hsome
  rw [hroster] at hnone ⊢
  refine congrArg (Sequencer.mk · s.roster.nextId s.roster.inFlight) (List.filter_congr fun w hw => ?_)
  by_cases hw' : w.id ∈ gone
  · simp [hw', hgone _ hw']
  · have hmem : w ∈ (s.roster.withoutAll gone).queue := List.mem_filter.mpr ⟨hw, by simp [hw']⟩
    have hids : w.id ∉ ids := fun h => hnone _ h w hmem rfl
    simp [hw', hids]

/-! ### LEG_DISABLE -/

/-- The sweeps of the leg have left the queue, and the others stay (R68). -/
theorem disableWork_roster (g : LegId) (s : State) :
    (disableWork g s).roster = s.roster.withoutAll (sweepIdsOf (fun w => w.leg == g) s) := by
  have hact := disableBlocks_forall (Q := fun f => (∃ id ∈ sweepIdsOf (fun w => w.leg == g) s, ∀ t : State,
      (f t).roster = t.roster.without id) ∨ ∀ t : State, (f t).roster = t.roster) (g := g)
    (fun id hid => .inl ⟨id, hid, endSweep_roster id .legOff 0 0⟩) (.inr choose_roster) (.inr (disableIngress_roster g))
  have hall : ∀ id ∈ sweepIdsOf (fun w => w.leg == g) s, endSweep id .legOff 0 0 ∈
      (sweepIdsOf (fun w => w.leg == g) s).map (fun id => endSweep id .legOff 0 0) ++ [choose] := fun id hid =>
    List.mem_append_left _ (List.mem_map_of_mem hid)
  unfold disableWork
  dsimp only
  split
  · exact together_roster hact (fun id hid => ⟨_, List.mem_flatten.mpr ⟨_, List.mem_cons_self, hall id hid⟩,
      endSweep_roster id .legOff 0 0⟩) s
  · rw [together_roster (fun b hb => hact b (by rw [List.mem_singleton.mp hb]; exact List.mem_cons_self))
      (fun id hid => ⟨_, List.mem_flatten.mpr ⟨_, List.mem_cons_self, hall id hid⟩, endSweep_roster id .legOff 0 0⟩),
      disableIngress_roster]

theorem disableWork_leg (g : LegId) (s : State) : ∀ w ∈ (disableWork g s).seq.queue, w.leg ≠ g := by
  intro w hw hleg
  have hkept : w.kept ∈ (disableWork g s).roster.queue := List.mem_map_of_mem hw
  rw [disableWork_roster] at hkept
  obtain ⟨hmem, hids⟩ := List.mem_filter.mp hkept
  obtain ⟨v, hv, he⟩ := List.mem_map.mp hmem
  have he : v.kept = w.kept := he
  have hvleg : v.leg = w.leg := by
    have h : v.kept.leg = w.kept.leg := by rw [he]
    exact h
  have hvid : v.id = w.id := by
    have h : v.kept.id = w.kept.id := by rw [he]
    exact h
  have hin : w.id ∈ sweepIdsOf (fun w => w.leg == g) s :=
    List.mem_map.mpr ⟨v, List.mem_filter.mpr ⟨hv, by simp [hvleg, hleg]⟩, hvid⟩
  have hnotin : w.id ∉ sweepIdsOf (fun w => w.leg == g) s := by simpa [Sweep.kept] using hids
  exact hnotin hin

theorem disableWork_lawful (g : LegId) (hs : ProbeLawful (· = g) s) : ProbeLawful (fun _ => False) (disableWork g s) := by
  have hwork : ProbeLawful (· = g) (disableWork g s) :=
    disableBlocks_keeps (P := ProbeLawful (· = g)) (fun u n hu => hu.frame rfl rfl rfl rfl ⟨rfl, rfl⟩)
      (fun u id hu => endSweep_lawful id _ _ _ hu) (fun _ => choose_lawful) (fun _ => disableIngress_lawful g) s hs
  refine ⟨fun a ha => ?_, hwork.gate⟩
  obtain ⟨hoff, w, hw, hid, hleg⟩ := hwork.owner a ha
  exact ⟨.inl (hoff.resolve_right fun h => disableWork_leg g s w hw (hleg.trans h)), w, hw, hid, hleg⟩

end

@[simp] theorem withdrawSnapshot_leg (g i : LegId) (s : State) : (withdrawSnapshot g s).leg i = s.leg i := rfl

/-! ### The requests -/

section
variable {s : State} (p : List Byte) (hs : ProbeInv s)
include hs

theorem serveTimeSet_probeInv : ProbeInv (serveTimeSet p s).1 := by
  rw [probeInv_iff] at hs ⊢
  unfold serveTimeSet
  dsimp only
  split
  · exact hs
  · next hopen =>
    have hnone : s.openWindow = none := by simpa using hopen
    have hmiss : ∀ b a t, ProbeLawful (fun _ => False) (missWindows b a ((cutRecords s).setTime t)) := fun b a t =>
      (cutRecords_lawful hs).window (by simp) (by simp) (by simp) (by simp) fun id hid => by
        rw [windowIsOpen_of_none (by simpa [State.openWindow] using hnone)] at hid
        cases hid
    unfold openStraddling
    split
    · refine openWindowAt_lawful _ (hmiss _ _ _) ((State.openWindow_eq_none _).mpr fun w hw => ?_)
      rw [missWindows_win] at hw
      simp only [State.setTable_win, State.setTime_win, cutRecords_frame] at hw
      exact (State.openWindow_eq_none s).mp hnone w (List.mem_of_mem_filter hw)
    · exact hmiss _ _ _

theorem serveWindowGrant_probeInv : ProbeInv (serveWindowGrant p s).1 := by
  rw [probeInv_iff] at hs ⊢
  unfold serveWindowGrant
  dsimp only
  split
  · exact hs
  · split
    · exact hs
    · split
      · exact hs
      · split
        · exact hs
        · have hjoin : ∀ w : Window, w.state = .pending → ProbeLawful (fun _ => False) (s.joined w) := fun w hw =>
            hs.window rfl rfl rfl ⟨rfl, rfl⟩ fun id hid => by rwa [State.windowIsOpen, joined_openWindow s hw]
          split
          · next hnow =>
            refine openWindowAt_lawful _ (hjoin _ ?_) ((joined_openWindow s ?_).trans (by simpa using hnow.2))
            · rfl
            · rfl
          · refine hjoin _ ?_
            rfl

theorem serveWindowRevoke_probeInv (hw : WindowInv s) : ProbeInv (serveWindowRevoke p s).1 := by
  rw [probeInv_iff] at hs ⊢
  unfold serveWindowRevoke
  split
  · exact hs
  · next w hfind =>
    dsimp only
    split
    · next hp =>
      refine hs.window rfl rfl rfl ⟨rfl, rfl⟩ fun id hid => ?_
      rwa [State.windowIsOpen, hw.openWindow_revoked (List.mem_of_find?_eq_some hfind) hp]
    · exact informClosing_lawful _ (judgeRevoked_judged _ hs rfl rfl ⟨rfl, rfl⟩)

theorem serveLegSet_probeInv : ProbeInv (serveLegSet p s).1 := by
  rw [probeInv_iff] at hs ⊢
  unfold serveLegSet
  split
  · exact hs
  · next g _ =>
    dsimp only
    split
    · exact hs
    · next hoff =>
      split
      · exact hs
      · have hother : ∀ a, s.seq.inFlight = some a → a.leg ≠ g := fun a ha h =>
          (hs.owner a ha).1.elim (fun hne => hne (h ▸ not_not.mp hoff)) id
        refine ⟨fun a ha => ?_, fun ht => ?_⟩
        · rw [setCal_leg, State.setLeg_leg, if_neg (hother a ha)]
          exact hs.owner a ha
        · obtain ⟨a, ha, hg⟩ := hs.gate ht
          refine ⟨a, ha, Eq.trans (gateHolds_congr (s := s) ?_ ?_ fun _ => ?_) hg⟩
          on_goal 2 => rw [setCal_leg, State.setLeg_leg, if_neg (hother a ha)]
          all_goals rfl

theorem serveLegEnable_probeInv : ProbeInv (serveLegEnable p s).1 := by
  rw [probeInv_iff] at hs ⊢
  unfold serveLegEnable
  split
  · exact hs
  · dsimp only
    split
    · exact hs
    · exact hs
    · refine choose_lawful ((setLeg_same s _ ?_ ?_).keeps hs)
      · nofun
      · rfl

theorem serveLegDisable_probeInv : ProbeInv (serveLegDisable p s).1 := by
  rw [probeInv_iff] at hs ⊢
  unfold serveLegDisable
  split
  · exact hs
  · next g _ =>
    dsimp only
    split
    · exact hs
    · refine disableWork_lawful g ⟨fun a ha => ?_, fun ht => ?_⟩
      · obtain ⟨hoff, hw⟩ := hs.owner a ha
        refine ⟨?_, hw⟩
        by_cases hg : a.leg = g
        · exact .inr hg
        · refine .inl ?_
          rw [withdrawSnapshot_leg, State.setLeg_leg, if_neg hg]
          exact hoff.resolve_right id
      · obtain ⟨a, ha, hg⟩ := hs.gate ht
        refine ⟨a, ha, Eq.trans (gateHolds_congr (s := s) ?_ ?_ fun _ => ?_) hg⟩
        on_goal 2 =>
          rw [withdrawSnapshot_leg, State.setLeg_leg]
          split
          · next h => rw [h]
          · rfl
        all_goals rfl

theorem serveClassSet_probeInv : ProbeInv (serveClassSet p s).1 := by
  rw [probeInv_iff] at hs ⊢
  unfold serveClassSet
  dsimp only
  split
  · exact hs
  · exact classBlocks_lawful (hs.judged rfl rfl ⟨rfl, rfl⟩)

theorem serveSweepReq_probeInv : ProbeInv (serveSweepReq p s).1 := by
  rw [probeInv_iff] at hs ⊢
  unfold serveSweepReq
  dsimp only
  (repeat' split)
  on_goal 6 =>
    refine choose_lawful (ProbeSame.keeps (s := s) ⟨rfl, fun w hw => ⟨w, List.mem_append_left _ hw, rfl, rfl⟩, ?_, ?_, rfl, rfl,
      rfl, rfl⟩ hs)
    · exact fun _ h => h
    · exact fun _ => rfl
  all_goals exact hs

theorem serveSweepCancel_probeInv : ProbeInv (serveSweepCancel p s).1 := by
  rw [probeInv_iff] at hs ⊢
  unfold serveSweepCancel
  split
  · exact hs
  · exact endSweep_lawful _ _ _ _ hs

end

/-! ### The events and every step -/

theorem burstBegun_gateHolds (xs : List Sample) (a : InFlight) (s : State) :
    gateHolds (burstBegun xs a s) a = (burstBegun xs a s).probe.gate := by
  have hgate : (burstBegun xs a s).probe.gate = gateHolds (s.atClock a.burstStart) a := by
    simp [burstBegun, State.after]
  rw [hgate]
  refine gateHolds_congr ?_ ?_ fun id => ?_
  · simp [burstBegun]
  · simp [burstBegun, State.leg]
  · simp [burstBegun, State.windowIsOpen, State.openWindow]

theorem burstBegun_probeInv {s : State} {a : InFlight} (xs : List Sample) (ha : s.seq.inFlight = some a) (hs : ProbeInv s) :
    ProbeInv (burstBegun xs a s) := by
  have hseq : (burstBegun xs a s).seq = s.seq := by simp [burstBegun]
  have hlegs : (burstBegun xs a s).legs = s.legs := by simp [burstBegun]
  refine ⟨fun b hb => ?_, fun ht => ⟨a, by rw [hseq]; exact ha, ?_⟩⟩
  · rw [hseq] at hb
    rw [State.leg, hseq, hlegs]
    exact hs.owner b hb
  · rw [burstBegun_gateHolds]
    simp only [State.transmitting, Bool.and_eq_true] at ht
    exact ht.2

theorem acquisitionAdded_lawful {down : LegId → Prop} {s : State} (n : Nat) (j : CorJob) (id l k : Nat)
    (hs : ProbeLawful down s) : ProbeLawful down (acquisitionAdded n j id l k s) := by
  have htime : ProbeLawful down (s.atEndOfWork n j.takenAt (l * k / 10)) := hs.frame rfl rfl rfl rfl ⟨rfl, rfl⟩
  unfold acquisitionAdded
  dsimp only
  split
  · next w _ =>
    have hupdate := (updateSweep_same (s.atEndOfWork n j.takenAt (l * k / 10)) (id := w.id)
      (f := capturedSweep w (s.cap.half j.half)) fun _ => ⟨rfl, rfl⟩).keeps htime
    refine hupdate.frame (addCapture_seq ..) ?_ ?_ (grants_of_win ?_) ?_ <;> simp
  · exact htime

theorem snapshotSearched_probe (n : Nat) (j : CorJob) (g : LegId) (k : Nat) (s : State) :
    (correlatorTake (endJob j.half (snapshotSearched n j g k s))).probe.phase = s.probe.phase ∧
      (correlatorTake (endJob j.half (snapshotSearched n j g k s))).probe.gate = s.probe.gate := by
  unfold snapshotSearched
  dsimp only
  split <;> simp [State.atEndOfWork, State.atClock]

theorem ProbeInv.frame {s t : State} (h : ProbeInv s) (hseq : t.seq = s.seq) (hlegs : t.legs = s.legs) (hplan : t.plan = s.plan)
    (hwin : t.win = s.win) (hprobe : t.probe.phase = s.probe.phase ∧ t.probe.gate = s.probe.gate) : ProbeInv t := by
  rw [probeInv_iff] at h ⊢
  exact ProbeLawful.frame h hseq hlegs hplan (grants_of_win hwin) hprobe

theorem probeInv_blocks : BlocksKeep fun s => WindowInv s ∧ ProbeInv s := by
  have k := windowInv_blocks
  constructor
  case timeSet => exact fun p h => ⟨k.timeSet p h.1, serveTimeSet_probeInv p h.2⟩
  case windowGrant => exact fun p h => ⟨k.windowGrant p h.1, serveWindowGrant_probeInv p h.2⟩
  case windowRevoke => exact fun p h => ⟨k.windowRevoke p h.1, serveWindowRevoke_probeInv p h.2 h.1⟩
  case legSet => exact fun p h => ⟨k.legSet p h.1, serveLegSet_probeInv p h.2⟩
  case legEnable => exact fun p h => ⟨k.legEnable p h.1, serveLegEnable_probeInv p h.2⟩
  case legDisable => exact fun p h => ⟨k.legDisable p h.1, serveLegDisable_probeInv p h.2⟩
  case classSet => exact fun p hp h => ⟨k.classSet p hp h.1, serveClassSet_probeInv p h.2⟩
  case sweepReq => exact fun p h => ⟨k.sweepReq p h.1, serveSweepReq_probeInv p h.2⟩
  case sweepCancel => exact fun p h => ⟨k.sweepCancel p h.1, serveSweepCancel_probeInv p h.2⟩
  case windowOpens =>
    intro s w hw h
    refine ⟨k.windowOpens hw h.1, ?_⟩
    rw [probeInv_iff] at h ⊢
    refine openWindowAt_lawful _ (h.2.frame rfl rfl rfl rfl ⟨rfl, rfl⟩) ?_
    exact (openWindow_of_nextToOpen hw).1
  case windowShuts =>
    intro s w hw h
    refine ⟨k.windowShuts hw h.1, ?_⟩
    rw [probeInv_iff] at h ⊢
    exact informClosing_lawful _ (h.2.judged rfl rfl ⟨rfl, rfl⟩)
  case burst => exact fun xs ha h => ⟨k.burst xs ha h.1, burstBegun_probeInv xs ha h.2⟩
  case listen =>
    intro s a xs ha h
    refine ⟨k.listen xs ha h.1, h.2.owner, fun ht => ?_⟩
    simp [State.transmitting, listenBegun] at ht
  case acquisitionEnds =>
    intro s a xs ha h
    refine ⟨k.acquisitionEnds xs ha h.1, ?_⟩
    rw [probeInv_iff]
    refine choose_lawful (.of_idle ?_ ?_)
    · simp [acquisitionStopped]
    · simp [acquisitionStopped, State.transmitting, probeIdle]
  case snapshotEnds =>
    intro s xs h
    refine ⟨k.snapshotEnds xs h.1, ?_⟩
    rw [probeInv_iff]
    refine choose_lawful ((probeInv_iff _).mp (h.2.frame ?_ ?_ ?_ ?_ ?_)) <;> simp [snapshotStopped, State.atClock]
  case acquisitionAdds =>
    intro s n j id l c h
    refine ⟨k.acquisitionAdds n j id l c h.1, ?_⟩
    rw [probeInv_iff] at h ⊢
    refine choose_lawful ((acquisitionAdded_lawful n j id l c h.2).frame ?_ ?_ ?_ (grants_of_win ?_) ?_) <;> simp
  case snapshotSearches =>
    intro s n j g c h
    refine ⟨k.snapshotSearches n j g c h.1, ?_⟩
    rw [probeInv_iff] at h ⊢
    refine choose_lawful (h.2.frame ?_ ?_ ?_ (grants_of_win ?_) (snapshotSearched_probe ..)) <;> simp
  case analysisEnds =>
    intro s w id n start acc hw h
    refine ⟨k.analysisEnds n start acc hw h.1, ?_⟩
    rw [probeInv_iff] at h ⊢
    exact completeAnalysis_lawful w acc (h.2.frame rfl rfl rfl rfl ⟨rfl, rfl⟩)
  case divisionEnds =>
    intro s r hr h
    refine ⟨k.divisionEnds hr h.1, ?_⟩
    rw [probeInv_iff] at h ⊢
    exact divisionDone_lawful r h.2
  case scans =>
    intro s g levels h
    refine ⟨k.scans g levels h.1, ?_⟩
    rw [probeInv_iff] at h ⊢
    exact scanned_lawful g levels h.2
  all_goals
    intros
    rename_i h
    refine ⟨h.1.of_win ?_, h.2.frame ?_ ?_ ?_ ?_ ?_⟩ <;> simp [editMap, snapshotBegun, converted, State.atClock]

theorem probeInv_reset : ProbeInv State.reset := ⟨nofun, nofun⟩

/-- Settles O58: each request and event leaves the acquisition in flight with a sweep of the queue on a leg that is not OFF, and the
probe muted unless its gate's condition holds. -/
theorem stepsKeepTheProbeLawful : Obligations.StepsKeepTheProbeLawful := by
  unfold Obligations.StepsKeepTheProbeLawful
  intro s t hw h e
  have hmsg : ∀ {s : State} (m : Message), WindowInv s ∧ ProbeInv s → WindowInv (s.setMsg m) ∧ ProbeInv (s.setMsg m) :=
    fun m h => ⟨h.1.of_win rfl, h.2.frame rfl rfl rfl rfl ⟨rfl, rfl⟩⟩
  have hpending : ∀ {s : State} (v : List Instr), WindowInv s ∧ ProbeInv s →
      WindowInv (s.setPending v) ∧ ProbeInv (s.setPending v) := fun v h => ⟨h.1.of_win rfl, h.2.frame rfl rfl rfl rfl ⟨rfl, rfl⟩⟩
  have hreset : ∀ {s : State}, WindowInv s ∧ ProbeInv s → WindowInv s.afterReset ∧ ProbeInv s.afterReset :=
    fun _ => ⟨windowInv_reset.of_win rfl, probeInv_reset.frame rfl rfl rfl rfl ⟨rfl, rfl⟩⟩
  exact (probeInv_blocks.step hmsg hpending hreset ⟨hw, h⟩ e).2

end Sys2Proof.Machine
end

section
/-! PROOFS. What the blocks do to the message controller: they post reports, and RESTART stops dispatch (R10, R15). -/

namespace Sys2Proof.Machine

open Sys2Proof

/-! ### Reports posted one after another -/

/-- A message controller to which reports have been posted, each at a clock. -/
def Posted (m m' : Message) : Prop := ∃ rs : List (Nat × Report), m' = rs.foldl (fun m x => m.post x.1 x.2) m

/-- What a state does beside posting reports leaves its message controller. -/
def PostsOnly (s t : State) : Prop := Posted s.msg t.msg

namespace PostsOnly

theorem refl' (s : State) : PostsOnly s s := ⟨[], rfl⟩

theorem of_msg {s t : State} (h : t.msg = s.msg) : PostsOnly s t := ⟨[], h⟩

theorem trans {s t u : State} (h : PostsOnly s t) (h' : PostsOnly t u) : PostsOnly s u := by
  obtain ⟨rs, h⟩ := h
  obtain ⟨rs', h'⟩ := h'
  exact ⟨rs ++ rs', by rw [h', h, List.foldl_append]⟩

/-- What the posting of a report keeps, a state that only posts keeps. -/
theorem keeps {s t : State} (h : PostsOnly s t) {M : Message → Prop} (hpost : ∀ clock r m, M m → M (m.post clock r))
    (hs : M s.msg) : M t.msg := by
  obtain ⟨rs, h⟩ := h
  rw [h]
  generalize s.msg = m at hs
  clear h
  induction rs generalizing m with
  | nil => exact hs
  | cons x rs ih => exact ih _ (hpost _ _ _ hs)

theorem post (r : Report) (s : State) : PostsOnly s (post r s) := ⟨[(s.time.clock, r)], rfl⟩

theorem postAll (rs : List Report) (s : State) : PostsOnly s (rs.foldl (fun u r => Machine.post r u) s) := by
  induction rs generalizing s with
  | nil => exact refl' s
  | cons r rs ih => exact (post r s).trans (ih _)

theorem choose (s : State) : PostsOnly s (choose s) := of_msg (by simp)

theorem stopSnapshot (s : State) : PostsOnly s (stopSnapshot s) := of_msg (by simp)

/-! ### Sweeps that end, and records that close -/

theorem endSweep (id : Nat) (o : SweepOutcome) (m n : Nat) (s : State) : PostsOnly s (endSweep id o m n s) := by
  have hdrop : ∀ d i v, PostsOnly s (((dropSweep id s).setDiv d).setSlot i v) := fun d i v => of_msg (by simp)
  unfold Machine.endSweep
  split
  · exact refl' s
  · dsimp only
    split
    · exact ((hdrop _ _ _).trans (post _ _)).trans (choose _)
    · exact (hdrop _ _ _).trans (post _ _)

theorem endSweeps (o : SweepOutcome) (ids : List Nat) (s : State) : PostsOnly s (endSweeps o ids s) := by
  unfold Machine.endSweeps
  induction ids generalizing s with
  | nil => exact refl' s
  | cons id ids ih => exact (endSweep id o 0 0 s).trans (ih _)

theorem faultLeg (g : LegId) (id : Nat) (s : State) : PostsOnly s (faultLeg g id s) := by
  have hleg : ∀ r, PostsOnly s (s.setLeg g r) := fun r => of_msg rfl
  unfold Machine.faultLeg
  exact (((hleg _).trans (post _ _)).trans (endSweeps _ _ _)).trans (choose _)

theorem settlePairing (o : PairingOutcome) (e p n : Option Nat) (s : State) : PostsOnly s (settlePairing o e p n s) := by
  unfold Machine.settlePairing
  split
  · exact refl' s
  · dsimp only
    split
    · refine trans ?_ (post _ _)
      exact of_msg (by simp)
    · exact of_msg rfl

theorem withdrawAtClose (g : LegId) (s : State) : PostsOnly s (withdrawAtClose g s) := by
  unfold Machine.withdrawAtClose
  split
  · exact refl' s
  · split
    · exact settlePairing _ _ _ _ (s.setCap _)
    · exact refl' s

theorem fileRecord (g : LegId) (long cut : Bool) (time : Nat) (s : State) : PostsOnly s (fileRecord g long cut time s) := by
  unfold Machine.fileRecord
  split
  · exact refl' s
  · dsimp only
    split
    · exact of_msg (by simp)
    · refine trans ?_ (post _ _)
      exact of_msg (by simp)

theorem closeRecord (g : LegId) (long cut : Bool) (time : Nat) (s : State) : PostsOnly s (closeRecord g long cut time s) :=
  (withdrawAtClose g s).trans (fileRecord g long cut time _)

theorem closeIfQuiet (g : LegId) (s : State) : PostsOnly s (closeIfQuiet g s) := by
  unfold Machine.closeIfQuiet
  split
  · exact refl' s
  · exact (closeRecord g false false _ s).trans (of_msg rfl)

theorem forceQuiet (g : LegId) (s : State) : PostsOnly s (forceQuiet g s) := closeIfQuiet g (s.setIngLeg g _)

theorem cancelPairing (g : LegId) (s : State) : PostsOnly s (cancelPairing g s) := by
  unfold Machine.cancelPairing
  split
  · exact refl' s
  · split
    · dsimp only
      have hsettled : ∀ d, PostsOnly s (Machine.settlePairing .off none none none ((withdrawSnapshot g s).setDiv d)) := fun d =>
        settlePairing _ _ _ _ ((withdrawSnapshot g s).setDiv d)
      split
      · exact ((hsettled _).trans (stopSnapshot _)).trans (choose _)
      · exact hsettled _
    · exact refl' s

theorem disableIngress (g : LegId) (s : State) : PostsOnly s (disableIngress g s) :=
  ((fileRecord g false true _ s).trans (cancelPairing g _)).trans (of_msg rfl)

theorem cutRecords (s : State) : PostsOnly s (cutRecords s) := by
  unfold Machine.cutRecords
  generalize allLegs = legs
  induction legs generalizing s with
  | nil => exact refl' s
  | cons g legs ih => exact (closeRecord g false true _ s).trans (ih _)

theorem missWindows (before after : Nat) (s : State) : PostsOnly s (missWindows before after s) := by
  unfold Machine.missWindows
  dsimp only
  refine trans (t := s.setTable (s.win.table.filter fun w => decide (after < w.stop))) (of_msg rfl) ?_
  generalize s.setTable _ = u
  generalize s.win.table.filter _ = missed
  induction missed generalizing u with
  | nil => exact refl' u
  | cons w missed ih => exact (post _ u).trans (ih _)

theorem openWindowAt (id : Nat) (s : State) : PostsOnly s (openWindowAt id s) := of_msg (by simp)

theorem draws {s t : State} (n : Nat) (h : PostsOnly s t) : PostsOnly s (t.setDraws n) := h.trans (of_msg rfl)

theorem informClosing (r : Report) (s : State) : PostsOnly s (informClosing r s) := by
  unfold Machine.informClosing
  split
  · exact (post r s).trans (choose _)
  · exact together_keeps (fun _ n h => h.draws n) _ _
      (closingBlocks_forall (Q := fun f => ∀ t, PostsOnly s t → PostsOnly s (f t)) (fun t h => h.trans (post r t))
        (fun t h => h.trans (choose t)) fun g t h => h.trans (forceQuiet g t)) (refl' s)

theorem disableWork (g : LegId) (s : State) : PostsOnly s (disableWork g s) :=
  disableBlocks_keeps (P := PostsOnly s) (fun _ n h => h.draws n) (fun t id h => h.trans (endSweep id _ _ _ t))
    (fun t h => h.trans (choose t)) (fun t h => h.trans (disableIngress g t)) s (refl' s)

theorem classBlocks (s : State) : PostsOnly s (together (classActions s :: quietBlocks s) s) :=
  classBlocks_keeps (P := PostsOnly s) (fun _ n h => h.draws n) (fun t id h => h.trans (endSweep id _ _ _ t))
    (fun t h => h.trans (of_msg (by simp))) (fun t h => h.trans (choose t)) (fun t g h => h.trans (forceQuiet g t)) s (refl' s)

/-! ### The scan, reconciliation and the results of the divider -/

theorem readingScan (g : LegId) (held : Bool) (levels : List Int) (s : State) : PostsOnly s (readingScan g held levels s) := by
  have hclose : ∀ u, PostsOnly u (scanClose g u) := fun u => by
    unfold Machine.scanClose
    dsimp only
    split
    · split
      · split
        · exact (closeRecord g true false _ u).trans (of_msg rfl)
        · exact refl' u
      · exact refl' u
    · exact closeIfQuiet g u
  have hrecord : ∀ l v b, PostsOnly s (scanRecord g v b (s.setIngLeg g l)) := fun l v b => of_msg (by simp)
  exact (hrecord _ _ _).trans (hclose _)

theorem scanned (g : LegId) (levels : List Int) (s : State) : PostsOnly s (scanned g levels s) := by
  have hdue : PostsOnly s (scanDue g s) := of_msg (by simp [scanDue])
  unfold Machine.scanned
  dsimp only
  split
  · exact hdue
  · split
    · exact hdue.trans (of_msg rfl)
    · exact hdue.trans (readingScan g _ levels _)

theorem feedStray (g : LegId) (d a : Nat) (s : State) : PostsOnly s (feedStray g d a s) := by
  unfold Machine.feedStray
  dsimp only
  split
  · exact trans (t := s.setStray _) (of_msg rfl) (post _ _)
  · exact of_msg rfl

theorem feedStrays (g : LegId) (ps : List Peak) (s : State) : PostsOnly s (feedStrays g ps s) := by
  unfold Machine.feedStrays
  induction ps generalizing s with
  | nil => exact refl' s
  | cons p ps ih => exact (feedStray g _ _ s).trans (ih _)

theorem reconcile (id : Nat) (s : State) : PostsOnly s (reconcile id s) := by
  cases hw : s.findSweep id with
  | none => rw [reconcile_gone hw]; exact refl' s
  | some w =>
    have hlevel : PostsOnly s (reconciledLevel w s) := by
      have helements : PostsOnly s (reconciledElements w s) := by
        refine trans (of_msg ?_) (postAll _ _)
        simp
      refine (helements.trans (feedStrays w.leg (matching w s).2 _)).trans (of_msg ?_)
      simp [reconciledLevel]
    have hended : ∀ m n, PostsOnly s (Machine.endSweep id .done m n (reconciledLevel w s)) := fun m n =>
      hlevel.trans (endSweep id _ m n _)
    rw [reconcile_eq hw]
    dsimp only
    split
    · exact (hended _ _).trans (faultLeg _ _ _)
    · exact hended _ _

theorem calFailed (id : Nat) (s : State) : PostsOnly s (calFailed id s) := reconcile id (flagSweep id _ s)

theorem afterRefinement (w : Sweep) (s : State) : PostsOnly s (afterRefinement w s) := by
  unfold Machine.afterRefinement anchorSearch
  split
  · split
    · exact refl' s
    · split
      · exact calFailed _ s
      · split
        · exact calFailed _ s
        · exact of_msg rfl
  · exact reconcile ..

theorem judgeCal (id a d : Nat) (r : Option (Nat × Nat)) (s : State) : PostsOnly s (judgeCal id a d r s) := by
  unfold Machine.judgeCal
  split
  · exact refl' s
  · split
    · split
      · exact reconcile id (flagSweep id _ (setCal _ _ s))
      · exact calFailed ..
    · exact calFailed ..

theorem completeAnalysis (w : Sweep) (acc : List Nat) (s : State) : PostsOnly s (completeAnalysis w acc s) := by
  unfold Machine.completeAnalysis
  dsimp only
  generalize hu : flagSweep w.id _ (mapContent w.slot _ s) = u
  have hu : PostsOnly s u := by subst hu; exact of_msg rfl
  split
  · exact hu.trans (endSweep _ _ _ _ (levelClipped w.leg u))
  · split
    · exact hu.trans (afterRefinement w u)
    · exact hu.trans (of_msg rfl)

theorem searchLag (g : LegId) (s : State) : PostsOnly s (searchLag g s) := by
  unfold Machine.searchLag
  dsimp only
  split
  · exact settlePairing ..
  · exact of_msg rfl

theorem snapshotSearched (n : Nat) (j : CorJob) (g : LegId) (k : Nat) (s : State) : PostsOnly s (snapshotSearched n j g k s) := by
  unfold Machine.snapshotSearched
  dsimp only
  split
  · exact searchLag g ((s.atEndOfWork n j.takenAt (k * k / 10)).setLag _)
  · exact of_msg rfl

theorem pairingResult (g : LegId) (q : Nat) (s : State) : PostsOnly s (pairingResult g q s) := by
  unfold Machine.pairingResult
  split
  · exact refl' s
  · split
    · exact settlePairing ..
    · dsimp only
      split
      · exact settlePairing ..
      · split
        · exact settlePairing ..
        · exact settlePairing _ _ _ _ (chargeScore g _ s)

theorem handResult (j : Job) (s : State) : PostsOnly s (handResult j s) := by
  unfold Machine.handResult
  split
  · split
    · split
      · exact afterRefinement _ (writeRefined _ _ _ s)
      · exact of_msg rfl
    · exact refl' s
  · split
    · split
      · exact pairingResult ..
      · exact refl' s
    · exact refl' s
  · exact judgeCal ..

theorem divisionDone (r : Running) (s : State) : PostsOnly s (divisionDone r s) := by
  have htime : ∀ d, PostsOnly s ((s.atClock (r.startClock + r.job.cycles)).setDiv d) := fun d => of_msg rfl
  exact ((htime _).trans (handResult r.job _)).trans (of_msg rfl)

/-! ### The requests -/

theorem serveTimeSet (p : List Byte) (s : State) : PostsOnly s (serveTimeSet p s).1 := by
  unfold Machine.serveTimeSet
  dsimp only
  split
  · exact refl' s
  · have hmiss : ∀ t v, PostsOnly s (Machine.missWindows s.time.timebase v ((Machine.cutRecords s).setTime t)) := fun t v =>
      ((cutRecords s).trans (of_msg rfl)).trans (missWindows _ _ _)
    unfold openStraddling
    split
    · exact (hmiss _ _).trans (openWindowAt _ _)
    · exact hmiss _ _

theorem serveWindowRevoke (p : List Byte) (s : State) : PostsOnly s (serveWindowRevoke p s).1 := by
  unfold Machine.serveWindowRevoke
  split
  · exact refl' s
  · dsimp only
    split
    · exact of_msg rfl
    · refine trans (of_msg ?_) (informClosing _ _)
      simp

theorem serveLegDisable (p : List Byte) (s : State) : PostsOnly s (serveLegDisable p s).1 := by
  unfold Machine.serveLegDisable
  split
  · exact refl' s
  · next g _ =>
    dsimp only
    split
    · exact refl' s
    · exact trans (of_msg rfl) (disableWork g _)

theorem serveClassSet (p : List Byte) (s : State) : PostsOnly s (serveClassSet p s).1 := by
  unfold Machine.serveClassSet
  dsimp only
  split
  · exact refl' s
  · refine trans (of_msg ?_) (classBlocks _)
    simp

theorem serveSweepCancel (p : List Byte) (s : State) : PostsOnly s (serveSweepCancel p s).1 := by
  unfold Machine.serveSweepCancel
  split
  · exact refl' s
  · exact endSweep ..

end PostsOnly

/-- A property of the message controller that a posted report and a stop of dispatch keep, the blocks keep. -/
theorem msg_blocks {M : Message → Prop} (hpost : ∀ clock r m, M m → M (m.post clock r))
    (hstop : ∀ m : Message, M m → M { m with dispatching := false }) : BlocksKeep fun s => M s.msg := by
  constructor
  case restart => exact fun h => hstop _ h
  case timeSet => exact fun p h => (PostsOnly.serveTimeSet p _).keeps hpost h
  case windowRevoke => exact fun p h => (PostsOnly.serveWindowRevoke p _).keeps hpost h
  case legDisable => exact fun p h => (PostsOnly.serveLegDisable p _).keeps hpost h
  case classSet => exact fun p _ h => (PostsOnly.serveClassSet p _).keeps hpost h
  case sweepCancel => exact fun p h => (PostsOnly.serveSweepCancel p _).keeps hpost h
  case windowShuts =>
    intro s w _ h
    refine (PostsOnly.informClosing _ (windowLeft w s)).keeps hpost ?_
    simpa [windowLeft] using h
  case snapshotSearches =>
    intro s n j g k h
    have hsearch := (PostsOnly.snapshotSearched n j g k s).keeps hpost h
    simpa using hsearch
  case analysisEnds =>
    intro s w id n start acc _ h
    exact (PostsOnly.completeAnalysis w acc _).keeps hpost (by simpa using h)
  case divisionEnds => exact fun _ h => (PostsOnly.divisionDone _ _).keeps hpost h
  case scans => exact fun g levels h => (PostsOnly.scanned g levels _).keeps hpost h
  all_goals
    intros
    rename_i h
    simpa [editMap, windowOpened, burstBegun, listenBegun, acquisitionStopped, snapshotBegun, snapshotStopped, converted] using h

end Sys2Proof.Machine
end

section
/-! PROOFS. The message controller's invariant, kept by every step (R6 to R8, R10 to R12). -/

namespace Sys2Proof.Machine

open Sys2Proof

/-! ### The counts, the transmitter and the request list -/

/-- The capacities and counts of a message controller (R6, R7, R10). -/
structure Bounded (m : Message) : Prop where
  requests    : m.requests.length ≤ 8
  reports     : m.reports.length ≤ 32
  frameErrors : m.frameErrors ≤ 65535
  reportsLost : m.reportsLost ≤ 65535

/-- Nothing waits for an IDLE transmitter (R12). -/
def NothingWaits (m : Message) : Prop := m.tx = none → m.slot = none ∧ m.reports = []

/-- No request waits that could be dispatched (R8). -/
def AllDispatched (m : Message) : Prop := m.requests ≠ [] → m.dispatching = true → m.slot ≠ none

/-- A message controller between dispatches: within bounds, nothing held back and nothing waiting for the transmitter. -/
structure Calm (m : Message) : Prop extends Bounded m where
  noHold : m.hold = false
  idle   : NothingWaits m

theorem lineInv_iff {s : State} : LineInv s ↔ Calm s.msg ∧ AllDispatched s.msg :=
  ⟨fun ⟨hreq, hrep, herr, hlost, hhold, hidle, hwait⟩ => ⟨⟨⟨hreq, hrep, herr, hlost⟩, hhold, hidle⟩, hwait⟩,
    fun ⟨⟨⟨hreq, hrep, herr, hlost⟩, hhold, hidle⟩, hwait⟩ => ⟨hreq, hrep, herr, hlost, hhold, hidle, hwait⟩⟩

/-! ### What the transmitter takes -/

theorem Bounded.kick {m : Message} (h : Bounded m) (clock : Nat) : Bounded (m.kick clock) := by
  rcases m.kick_cases clock with e | ⟨_, _, _, _, e⟩ | ⟨_, _, _, r, rs, hr, e⟩ <;> rw [e]
  · exact h
  · exact ⟨h.requests, h.reports, h.frameErrors, h.reportsLost⟩
  · refine ⟨h.requests, ?_, h.frameErrors, h.reportsLost⟩
    have hle := h.reports
    rw [hr, List.length_cons] at hle
    exact Nat.le_of_succ_le hle

/-- A transmitter that nothing holds back leaves nothing waiting (R12). -/
theorem nothingWaits_kick {m : Message} (h : m.hold = false) (clock : Nat) : NothingWaits (m.kick clock) := by
  unfold NothingWaits Message.kick
  cases htx : m.tx with
  | some x => simp [htx]
  | none => cases hs : m.slot <;> cases hr : m.reports <;> simp [h, htx, hs, hr]

@[simp] theorem Message.kick_keeps (clock : Nat) (m : Message) :
    (m.kick clock).requests = m.requests ∧ (m.kick clock).dispatching = m.dispatching ∧ (m.kick clock).hold = m.hold := by
  rcases m.kick_cases clock with e | ⟨_, _, _, _, e⟩ | ⟨_, _, _, _, _, _, e⟩ <;> rw [e] <;> exact ⟨rfl, rfl, rfl⟩

theorem Calm.kicked {m : Message} (h : Bounded m) (hhold : m.hold = false) (clock : Nat) : Calm (m.kick clock) :=
  { h.kick clock with noHold := (m.kick_keeps clock).2.2.trans hhold, idle := nothingWaits_kick hhold clock }

/-! ### Posted reports and stopped dispatch -/

theorem Bounded.post (clock : Nat) (r : Report) (m : Message) (h : Bounded m) : Bounded (m.post clock r) := by
  unfold Message.post
  split
  · exact ⟨h.requests, h.reports, h.frameErrors, satSucc_le ..⟩
  · next hroom =>
    refine Bounded.kick (m := { m with reports := m.reports ++ [r] }) ⟨h.requests, ?_, h.frameErrors, h.reportsLost⟩ clock
    simp only [List.length_append, List.length_cons, List.length_nil]
    omega

theorem NothingWaits.post {m : Message} (h : NothingWaits m) (hhold : m.hold = false) (clock : Nat) (r : Report) :
    NothingWaits (m.post clock r) := by
  unfold Message.post
  split
  · exact h
  · exact nothingWaits_kick (m := { m with reports := m.reports ++ [r] }) hhold clock

theorem Calm.post (clock : Nat) (r : Report) (m : Message) (h : Calm m) : Calm (m.post clock r) :=
  { h.toBounded.post clock r m with
    noHold := (m.post_keeps clock r).2.2.2.1.trans h.noHold
    idle := h.idle.post h.noHold clock r }

/-- With nothing waiting for an IDLE transmitter, a posted report leaves the reply slot (R12). -/
theorem NothingWaits.post_slot {m : Message} (h : NothingWaits m) (clock : Nat) (r : Report) :
    (m.post clock r).slot = m.slot := by
  unfold Message.post
  split
  · rfl
  · rcases Message.kick_cases clock { m with reports := m.reports ++ [r] } with e | ⟨htx, _, _, hslot, _⟩ | ⟨_, _, _, _, _, _, e⟩
    · rw [e]
    · cases (h htx).1.symm.trans hslot
    · rw [e]

theorem AllDispatched.post {m : Message} (h : AllDispatched m) (hidle : NothingWaits m) (clock : Nat) (r : Report) :
    AllDispatched (m.post clock r) := by
  intro hrequests hdispatching
  rw [(m.post_keeps clock r).2.1] at hrequests
  rw [(m.post_keeps clock r).2.2.1] at hdispatching
  rw [hidle.post_slot]
  exact h hrequests hdispatching

/-- The events of the blocks keep the message controller's invariant. -/
theorem lineInv_blocks : BlocksKeep fun s => Calm s.msg ∧ AllDispatched s.msg :=
  msg_blocks (M := fun m => Calm m ∧ AllDispatched m) (fun clock r m h => ⟨h.1.post clock r m, h.2.post h.1.idle clock r⟩)
    fun _ h => ⟨⟨⟨h.1.requests, h.1.reports, h.1.frameErrors, h.1.reportsLost⟩, h.1.noHold, h.1.idle⟩, nofun⟩

/-! ### Dispatch -/

/-- A block that serves a request keeps the bounds, and the requests that go on waiting. -/
theorem serve_bounded (f : Frame) {s : State} (h : Bounded s.msg) :
    Bounded (serve f s).1.msg ∧ (serve f s).1.msg.requests = s.msg.requests :=
  (msg_blocks (M := fun m => Bounded m ∧ m.requests = s.msg.requests)
    (fun clock r m h => ⟨h.1.post clock r m, (m.post_keeps clock r).2.1.trans h.2⟩)
    fun _ h => ⟨⟨h.1.requests, h.1.reports, h.1.frameErrors, h.1.reportsLost⟩, h.2⟩).serve f ⟨h, rfl⟩

/-- A placed reply goes to an IDLE transmitter, or waits (R8, R11, R12). -/
theorem placeReply_calm (f : Frame) (r : Reply) {s : State} (h : Bounded s.msg) (hhold : s.msg.hold = false) :
    Calm (placeReply f r s).msg ∧ (placeReply f r s).msg.requests = s.msg.requests := by
  refine ⟨Calm.kicked (m := { s.msg with slot := some ⟨r.frame f.kind f.tag, r.restart⟩ }) ?_ hhold _, (Message.kick_keeps ..).1⟩
  exact ⟨h.requests, h.reports, h.frameErrors, h.reportsLost⟩

/-- A dispatch leaves nothing waiting for an IDLE transmitter, and the other requests (R8). -/
theorem dispatch_calm (f : Frame) {s : State} (h : Bounded s.msg) :
    Calm (dispatch f s).msg ∧ (dispatch f s).msg.requests = s.msg.requests := by
  have hheld : Bounded (s.setMsg { s.msg with hold := true }).msg := ⟨h.requests, h.reports, h.frameErrors, h.reportsLost⟩
  obtain ⟨hb, hrequests⟩ := serve_bounded f hheld
  unfold dispatch
  dsimp only
  generalize serve f _ = held at hb hrequests
  have hcalm : Bounded { held.1.msg with hold := false } := ⟨hb.requests, hb.reports, hb.frameErrors, hb.reportsLost⟩
  generalize hc : held.1.setMsg { held.1.msg with hold := false } = calm
  have hm : calm.msg = { held.1.msg with hold := false } := by rw [← hc, State.setMsg_msg]
  have hrequests : calm.msg.requests = s.msg.requests := by rw [hm]; exact hrequests
  have hhold : calm.msg.hold = false := by rw [hm]
  rw [← hm] at hcalm
  split
  · exact (placeReply_calm f _ hcalm hhold).imp_right (·.trans hrequests)
  · split
    · exact (placeReply_calm f held.2 (s := calm.setDraws (calm.draws + 1)) hcalm hhold).imp_right (·.trans hrequests)
    · have hkick := calm.msg.kick_keeps calm.time.clock
      exact (placeReply_calm f held.2 (s := (calm.setDraws (calm.draws + 1)).setMsg (calm.msg.kick calm.time.clock))
        (hcalm.kick _) (hkick.2.2.trans hhold)).imp_right fun e => e.trans (hkick.1.trans hrequests)

/-- As many dispatch tests as there are requests leave none that could be dispatched (R8). -/
theorem dispatchFor_line (n : Nat) {s : State} (hn : s.msg.requests.length ≤ n) (h : Calm s.msg) : LineInv (dispatchFor n s) := by
  induction n generalizing s with
  | zero =>
    have hnone : s.msg.requests = [] := List.eq_nil_of_length_eq_zero (Nat.le_zero.mp hn)
    exact lineInv_iff.mpr ⟨h, fun hsome => absurd hnone hsome⟩
  | succ n ih =>
    unfold dispatchFor
    split
    · next hnone => exact lineInv_iff.mpr ⟨h, fun hsome => absurd hnone hsome⟩
    · next f rest hfront =>
      have hlen : s.msg.requests.length = rest.length + 1 := by rw [hfront, List.length_cons]
      split
      · have hb : Bounded (s.setMsg { s.msg with requests := rest }).msg :=
          ⟨by have := h.requests; simp only [State.setMsg_msg]; omega, h.reports, h.frameErrors, h.reportsLost⟩
        obtain ⟨hcalm, hrest⟩ := dispatch_calm f hb
        refine ih ?_ hcalm
        rw [hrest]
        exact Nat.le_of_succ_le_succ (hlen.symm.le.trans hn)
      · next hblocked =>
        refine lineInv_iff.mpr ⟨h, fun _ hdispatching hslot => hblocked ?_⟩
        rw [hslot, hdispatching]
        rfl

theorem dispatchWaiting_line {s : State} (h : Calm s.msg) : LineInv (dispatchWaiting s) := dispatchFor_line _ le_rfl h

/-! ### The line -/

theorem LineInv.frame {s t : State} (h : LineInv s) (hm : t.msg = s.msg) : LineInv t := by
  rw [lineInv_iff] at h ⊢
  rwa [hm]

theorem LineInv.counted {s : State} (h : LineInv s) : LineInv (countFrameError s) :=
  { h with frameErrors := satSucc_le .. }

theorem LineInv.offer {s : State} (f : Frame) (h : LineInv s) : LineInv (offerRequest f s) := by
  unfold offerRequest
  split
  · exact h.counted
  · next hroom =>
    refine dispatchWaiting_line ⟨⟨?_, h.reports, h.frameErrors, h.reportsLost⟩, h.noHold, h.idle⟩
    simp only [State.setMsg_msg, List.length_append, List.length_cons, List.length_nil]
    omega

theorem LineInv.take {s : State} (input : List TimedByte) (h : LineInv s) : LineInv (takeInput input s) := by
  unfold takeInput
  dsimp only
  have hheld : LineInv (s.setMsg { s.msg with assembler := .holding (scanInput input.length s.time.clock input).held }) := { h with }
  revert hheld
  generalize s.setMsg _ = u
  generalize (scanInput _ _ _).taken = taken
  intro hu
  induction taken generalizing u with
  | nil => exact hu
  | cons o taken ih =>
    cases o with
    | none => exact ih _ hu.counted
    | some f => exact ih _ (hu.offer f)

theorem lineInv_reset : LineInv State.reset := by constructor <;> decide

/-- Every part that leaves reset has its message controller at the reset values, but for HELLO (R15, R16). -/
theorem leaveReset_line (cause : ResetCause) (s : State) : LineInv (leaveReset cause s) := by
  have h : Calm s.afterReset.msg ∧ AllDispatched s.afterReset.msg := lineInv_iff.mp (lineInv_reset.frame rfl)
  exact lineInv_iff.mpr ⟨h.1.post _ _ _, h.2.post h.1.idle _ _⟩

/-- Settles O54: the blocks only post reports and stop dispatch, and the commands of the line keep the list, the slot and the
transmitter served. -/
theorem stepsKeepTheLine : Obligations.StepsKeepTheLine := by
  unfold Obligations.StepsKeepTheLine
  intro s t h e
  unfold step at e
  split at e
  · rw [← Host.Outcome.next.inj e]
    unfold idleCycle
    split
    · exact h
    · exact h.frame rfl
  · next c rest _ =>
    have h : LineInv (s.setPending rest) := h.frame rfl
    revert h e
    generalize s.setPending rest = s
    intro e h
    cases hc : isBlockEvent c with
    | true => exact lineInv_iff.mpr (lineInv_blocks.event hc (lineInv_iff.mp h) e)
    | false =>
      rcases lineCommand_cases c hc with ⟨f, hf⟩ | ⟨n, b, rfl⟩ | rfl | rfl | rfl
      · rw [exec_request hf] at e
        exact live_keeps e h (LineInv.offer f (h.frame rfl))
      · exact live_keeps e h (LineInv.take _ (h.frame rfl))
      · refine live_keeps e h ?_
        split
        · exact h
        · exact LineInv.take _ (LineInv.counted (h.frame rfl))
      · refine live_keeps e h ?_
        split
        · exact h
        · dsimp only
          split
          · exact leaveReset_line _ _
          · exact dispatchWaiting_line (Calm.kicked (m := { s.msg with tx := none }) ⟨h.requests, h.reports, h.frameErrors, h.reportsLost⟩ h.noHold _)
      · rw [← Host.Outcome.next.inj e]
        exact leaveReset_line _ _

end Sys2Proof.Machine
end

section
/-! PROOFS. The step, time and both resets (R15 to R18). -/

namespace Sys2Proof.Machine

open Sys2Proof

/-- Settles O1: a step is the command at the front, or a cycle that passes. -/
theorem stepTakesFrontCommand : Obligations.StepTakesFrontCommand := by
  unfold Obligations.StepTakesFrontCommand
  refine ⟨fun _ _ _ => rfl, fun s h => ?_⟩
  rw [step, h]
  rfl

/-! ### The timebase (R18) -/

theorem Time.advance_micros (t : Time) (k : Nat) : (t.advance (200 * k)).timebase = (t.timebase + k) % 281474976710656 := by
  unfold Time.advance cyclesPerMicro
  dsimp only
  have hmicros : (t.clock + 200 * k) / 200 - t.clock / 200 = k := by omega
  rw [hmicros]
  rfl

/-- Within one microsecond of the reference clock the timebase stays (R18, log 10). -/
theorem Time.advance_within {t : Time} {n : Nat} (ht : t.timebase < 281474976710656) (hn : t.clock % 200 + n < 200) :
    t.advance n = ⟨t.clock + n, t.timebase⟩ := by
  unfold Time.advance cyclesPerMicro
  have hsame : (t.clock + n) / 200 - t.clock / 200 = 0 := by omega
  rw [hsame, Nat.add_zero, Nat.mod_eq_of_lt (show t.timebase < 2 ^ 48 from ht)]

/-- At the end of a microsecond of the reference clock the timebase counts on, or wraps (R18). -/
theorem Time.advance_micro_end {t : Time} (ht : t.timebase < 281474976710656) (hend : t.clock % 200 = 199) :
    (t.advance 1).timebase = if t.timebase = 281474976710655 then 0 else t.timebase + 1 := by
  unfold Time.advance cyclesPerMicro
  dsimp only
  have hnext : (t.clock + 1) / 200 - t.clock / 200 = 1 := by omega
  rw [hnext]
  split <;> omega

/-- Settles O2: the quotient of the reference clock by 200 counts the microseconds; time that passes in two runs is that of one. -/
theorem timebaseCountsMicroseconds : Obligations.TimebaseCountsMicroseconds := by
  unfold Obligations.TimebaseCountsMicroseconds
  exact ⟨Time.advance_micros, fun t m n => Time.advance_advance m n t, fun _ _ => Time.advance_within,
    fun _ => Time.advance_micro_end, fun s m n => State.after_after m n s, fun _ n hs hp => State.passTo_quiet hs hp _⟩

/-! ### The resets (R15, R16) -/

theorem Strays.afterReset_eq_rested (t : Strays) : t.afterReset = t.rested := by
  unfold Strays.afterReset Strays.rested Strays.mapEntries
  simp only [List.map_map]
  rfl

theorem State.afterReset_eq_rested (s : State) : s.afterReset = s.rested := by
  unfold State.afterReset State.rested
  rw [Strays.afterReset_eq_rested]
  rfl

/-- Leaving reset, HELLO finds the transmitter IDLE and is the frame being sent (R15, R16). -/
theorem leaveReset_eq (cause : ResetCause) (s : State) : leaveReset cause s = s.rested.setMsg
    { State.reset.msg with tx := some ⟨⟨0x60, 0, [0x16, 0x04, 0x01] ++ u8 cause.code⟩, false, 0⟩ } := by
  unfold leaveReset
  rw [State.afterReset_eq_rested]
  rfl

/-- Held in reset, the part stays as it is, whatever the command (log 5). -/
theorem exec_inReset {c : Instr} {s : State} (hs : s.inReset = true) (hc : c ≠ .powerUp) : exec c s = .next s := by
  have hlive : ∀ t, s.live t = .next s := fun t => by rw [State.live, hs]; rfl
  cases c
  case powerUp => exact absurd rfl hc
  all_goals exact hlive _

/-- Settles O4: POWER_UP leaves reset; while the part is held there, every other command is without effect. -/
theorem powerUpLeavesReset : Obligations.PowerUpLeavesReset := by
  unfold Obligations.PowerUpLeavesReset
  exact ⟨fun s => congrArg Host.Outcome.next (leaveReset_eq .power s), fun _ _ => exec_inReset⟩

theorem strayInv_reset : StrayInv State.reset := by
  have hinvalid : ∀ i < 16, ∀ w, ((State.reset.stray.set i).ways.get w).valid = false := fun i hi w => by
    rw [reset_straySet hi]
    exact congrArg StrayEntry.valid (Quad.get_all ..)
  refine ⟨rfl, fun i hi w hv => ?_, fun i hi v w hv => ?_, fun g => (Quad.get_all _ g).le.trans (Nat.zero_le _)⟩
  · rw [hinvalid i hi w] at hv
    cases hv
  · rw [hinvalid i hi v] at hv
    cases hv

/-- Settles O5: each invariant at the reset values. -/
theorem invariantsHoldAtReset : Obligations.InvariantsHoldAtReset := by
  unfold Obligations.InvariantsHoldAtReset
  exact ⟨lineInv_reset, windowInv_reset, legInv_reset, queueInv_reset, probeInv_reset, mapInv_reset State.reset, strayInv_reset,
    ingressInv_reset⟩

end Sys2Proof.Machine
end

section
/-! PROOFS. Requests that are refused or wait, posted reports, and the CRC (R3, R7 to R10, R14, R15). -/

namespace Sys2Proof.Machine

open Sys2Proof

/-! ### Requests that wait, and requests refused at dispatch (R7, R8) -/

/-- The dispatch test fails while the reply slot is held or dispatch has stopped (R8). -/
theorem dispatchFor_blocked (n : Nat) {s : State} (h : s.msg.slot ≠ none ∨ s.msg.dispatching = false) : dispatchFor n s = s := by
  have hblocked : (s.msg.slot.isNone && s.msg.dispatching) = false := by
    rcases h with hslot | hstop
    · rw [Option.isNone_eq_false_iff.mpr (Option.isSome_iff_ne_none.mpr hslot), Bool.false_and]
    · rw [hstop, Bool.and_false]
  cases n with
  | zero => rfl
  | succ n =>
    unfold dispatchFor
    split
    · rfl
    · rw [hblocked]
      rfl

theorem exec_frame {c : Instr} {f : Frame} (hc : c.frame = some f) {s : State} (hs : s.inReset = false) :
    exec c s = .next (offerRequest f (s.after c.after)) := by
  rw [exec_request hc, requestArrives, State.live, hs]
  rfl

/-- Settles O6: an overrun is only counted; a request that may not be dispatched joins the list. -/
theorem requestsWaitOrOverrun : Obligations.RequestsWaitOrOverrun := by
  unfold Obligations.RequestsWaitOrOverrun
  intro c f s hc hs
  rw [exec_frame hc hs, offerRequest]
  refine ⟨fun hfull => ?_, fun hroom hblocked => ?_⟩
  · rw [if_pos (show 8 ≤ (s.after c.after).msg.requests.length from hfull)]
    rfl
  · rw [if_neg (show ¬ 8 ≤ (s.after c.after).msg.requests.length from Nat.not_le.mpr hroom), dispatchWaiting]
    exact congrArg Host.Outcome.next (dispatchFor_blocked _ hblocked)

/-- A request that its checks refuse is answered, and changes nothing (R8). -/
theorem exec_refused {c : Instr} {f : Frame} {s : State} {st : Status} (h : Ready s) (hc : c.frame = some f)
    (hs : ∀ t, serve f t = (t, refuse st)) : exec c s = .next ((s.after c.after).replied f.kind f.tag st []) := by
  rw [exec_request hc]
  exact requestArrives_silent h (hs _) rfl rfl

/-- The length that every kind but CLASS_SET asks for (R201). -/
theorem lengthAllowed_eq : ∀ x ∈ requestLengths, kindsInUse.contains x.1 = true ∧
    ∀ (kind : Byte) (p : List Byte), kind.toNat = x.1 → lengthAllowed kind p = (p.length == x.2) := by
  have hempty : ∀ p : List Byte, p.isEmpty = (p.length == 0) := fun p => by cases p <;> rfl
  simp +contextual [requestLengths, lengthAllowed, kindsInUse, hempty]

/-- A CLASS_SET whose payload does not hold what its count says (R201). -/
theorem lengthAllowed_classSet {p : List Byte} (h : ∀ b0 b1 rest, p = b0 :: b1 :: rest → rest.length ≠ 1 + b1.toNat) :
    lengthAllowed 0x14 p = false := by
  match p, h with
  | [], _ => rfl
  | [_], _ => rfl
  | b0 :: b1 :: rest, h =>
    have hcount : field (b0 :: b1 :: rest) 1 1 = b1.toNat := by simp [field, unle]
    have hlength := h b0 b1 rest rfl
    simp only [lengthAllowed, hcount]
    simp
    omega

/-- Settles O7: the kind and the length are checked before a block sees the request. -/
theorem badKindAndBadLength : Obligations.BadKindAndBadLength := by
  unfold Obligations.BadKindAndBadLength
  refine ⟨fun n kind tag p s h hkind => ?_, fun c f s h hc hlength => exec_refused h hc fun t => ?_⟩
  · refine exec_refused (c := .unknownKind n kind tag p) h rfl fun t => ?_
    rw [serve, if_pos (by simpa using hkind)]
  · have hbad : kindsInUse.contains f.kind.toNat = true ∧ lengthAllowed f.kind f.payload = false := by
      rcases hlength with ⟨n, hn, hne⟩ | ⟨hkind, hcount⟩
      · obtain ⟨huse, hlen⟩ := lengthAllowed_eq _ hn
        exact ⟨huse, (hlen _ _ rfl).trans (beq_eq_false_iff_ne.mpr hne)⟩
      · rw [hkind]
        exact ⟨rfl, lengthAllowed_classSet hcount⟩
    rw [serve, hbad.1, hbad.2]
    rfl

/-! ### The line's own requests (R14, R15, R19) -/

/-- The state after a dispatched RESTART: dispatch stopped, the marked reply sent or waiting (R15). -/
def State.restarting (tag : Byte) (s : State) : State :=
  s.setMsg (match s.msg.tx with
    | none => { s.msg with dispatching := false, tx := some ⟨replyFrame 0x02 tag .ok [], true, s.time.clock⟩ }
    | some _ => { s.msg with dispatching := false, slot := some ⟨replyFrame 0x02 tag .ok [], true⟩ })

theorem dispatch_restart (tag : Byte) {s : State} (h : Ready s) : dispatch ⟨0x02, tag, []⟩ s = s.restarting tag := by
  have hready : (s.msg.tx.isSome || s.msg.reports.isEmpty) = true := by
    cases htx : s.msg.tx with
    | none => simp [h.idleEmpty htx]
    | some x => rfl
  have hserve : ∀ t, serve ⟨0x02, tag, []⟩ t = (t.setMsg { t.msg with dispatching := false }, ⟨.ok, [], true⟩) := fun _ => rfl
  rw [dispatch, hserve]
  simp only [State.setMsg_msg, hready, ↓reduceIte]
  rw [placeReply, State.restarting]
  have hslot := h.noReply
  have hhold := h.noHold
  cases hm : s.msg
  rw [hm] at hslot hhold
  dsimp only at hslot hhold
  subst hslot hhold
  rename_i tx _ _ _
  cases tx <;> rfl

/-- Settles O8: the two reads answer with what stands at their dispatch, and RESTART stops dispatch. -/
theorem statusTimeAndRestart : Obligations.StatusTimeAndRestart := by
  unfold Obligations.StatusTimeAndRestart
  intro n tag s h
  refine ⟨?_, requestArrives_read h rfl rfl rfl, ?_⟩
  rotate_left
  · rw [exec_frame (c := .restart n tag []) rfl h.running, offerRequest_ready _ _ (h.after _), dispatch_restart tag (h.after _)]
    rfl
  refine requestArrives_read h rfl rfl ?_
  simp only [serveKind, serveStatusGet, allLegs, List.flatMap_cons, List.flatMap_nil, List.append_nil, List.append_assoc]
  rfl

/-! ### Posted reports (R10, R12) -/

/-- Settles O10: the three cases of a posted report, and each report's bytes. -/
theorem postingAReport : Obligations.PostingAReport := by
  unfold Obligations.PostingAReport
  refine ⟨fun r s => ⟨fun hfull => ?_, fun hroom hbusy => ?_, fun hnone hidle hslot hhold => ?_⟩, fun _ => rfl, ?_, ?_, ?_, ?_, ?_, ?_, ?_⟩
  · rw [post, Message.post, if_pos hfull]
    rfl
  · obtain ⟨x, hx⟩ := Option.ne_none_iff_exists'.mp hbusy
    rw [post, Message.post, if_neg (Nat.not_le.mpr hroom), Message.kick]
    simp [hx]
  · rw [post, Message.post, hnone]
    simp [Message.kick, hidle, hslot, hhold, hnone, Report.frame]
  all_goals
    intros
    rfl

/-! ### The CRC (R3) -/

/-- One bit of the recurrence of R3, on the remainder's value. -/
def crcBit (r : Nat) : Nat := if 32768 ≤ r then (2 * r) % 65536 ^^^ 0x1021 else 2 * r

/-- A shift of the remainder on its value: times two, and the polynomial where the top bit goes out. -/
theorem crcShift_toNat (r : BitVec 16) : (crcShift r).toNat = crcBit r.toNat := by
  have htop : r.msb = decide (32768 ≤ r.toNat) := BitVec.msb_eq_decide r
  have hshift : (r <<< 1).toNat = (2 * r.toNat) % 65536 := by
    rw [BitVec.toNat_shiftLeft, Nat.shiftLeft_eq, Nat.mul_comm]
  unfold crcShift crcBit
  rw [htop]
  by_cases h : 32768 ≤ r.toNat
  · simp only [h, decide_true, ↓reduceIte, BitVec.toNat_xor, hshift]
    rfl
  · have hsmall : 2 * r.toNat < 65536 := by omega
    simp only [h, decide_false, Bool.false_eq_true, ↓reduceIte, hshift, Nat.mod_eq_of_lt hsmall]

theorem crc_append (bs : List Byte) (b : Byte) : crc (bs ++ [b]) = crcByte (crc bs) b := by
  rw [crc, List.foldl_append]
  rfl

/-- Settles O11: the check values, and the recurrence by eight shifts a byte. -/
theorem crcFollowsItsPolynomial : Obligations.CrcFollowsItsPolynomial := by
  unfold Obligations.CrcFollowsItsPolynomial
  refine ⟨by decide +kernel, by decide +kernel, rfl, fun bs b => ?_⟩
  have hbyte : (b.zeroExtend 16 <<< 8).toNat = 256 * b.toNat := by
    rw [BitVec.toNat_shiftLeft, Nat.shiftLeft_eq]
    have := b.isLt
    simp
    omega
  rw [crc_append, crcByte]
  change _ = Nat.repeat crcBit 8 _
  simp only [crcShift_toNat, BitVec.toNat_xor, hbyte, Nat.repeat]

end Sys2Proof.Machine
end

section
/-! PROOFS. The sent line and the end of a frame (R1, R8, R12, R13, R15). -/

namespace Sys2Proof.Machine

open Sys2Proof

/-! ### The bits of the sent line (R1, R2) -/

/-- A byte on the line: a low start bit, its data bits from the least significant, a high stop bit. -/
theorem byteBits_getD (b : Byte) {j : Nat} (hj : j < 10) : (byteBits b).getD j true =
    if j = 0 then false else if j = 9 then true else b.getLsbD (j - 1) := by
  match j, hj with
  | 0, _ | 1, _ | 2, _ | 3, _ | 4, _ | 5, _ | 6, _ | 7, _ | 8, _ | 9, _ => rfl

/-- The level of the line while a frame is sent: the bit of the byte that this cycle lies in (R1). -/
theorem lineLevel_sending {s : State} {x : Sending} (hx : s.msg.tx = some x) :
    (10 * x.frame.bytes.length ≤ bitsSent (s.time.clock - x.startClock) → lineLevel s = true) ∧
      (bitsSent (s.time.clock - x.startClock) < 10 * x.frame.bytes.length → lineLevel s =
        if bitsSent (s.time.clock - x.startClock) % 10 = 0 then false
        else if bitsSent (s.time.clock - x.startClock) % 10 = 9 then true
        else (x.frame.bytes.getD (bitsSent (s.time.clock - x.startClock) / 10) 0).getLsbD
          (bitsSent (s.time.clock - x.startClock) % 10 - 1)) := by
  rw [lineLevel, hx]
  dsimp only [Frame.lineBits]
  generalize bitsSent _ = bit
  refine ⟨flatMap_byteBits_done _ _, fun hbit => ?_⟩
  have hmod : bit % 10 < 10 := Nat.mod_lt _ (by decide)
  have hat := flatMap_byteBits_getD x.frame.bytes (bit / 10) (bit % 10) (by omega) hmod
  rw [Nat.div_add_mod] at hat
  rw [hat, byteBits_getD _ hmod]

/-! ### What the service of a request leaves of the clock and the transmitter -/

theorem serve_clock (f : Frame) (s : State) : (serve f s).1.time.clock = s.time.clock := by
  have htimeSet : (serveTimeSet f.payload s).1.time.clock = s.time.clock := by
    unfold serveTimeSet
    dsimp only
    split <;> simp
  have hedit : ∀ (g : LegId) (es : List Element), (editMap g es s).time = s.time := fun g es => by simp [editMap]
  unfold serve serveKind
  split
  · rfl
  · split
    · rfl
    · split
      case h_3 => exact htimeSet
      case h_20 => rcases serveElementDrop_cases f.payload s with e | ⟨g, es, _, e⟩ <;> rw [e]; rw [hedit]
      case h_21 => rcases serveMapClear_cases f.payload s with e | ⟨g, es, _, e⟩ <;> rw [e]; rw [hedit]
      case h_23 => rcases serveScoreClear_cases f.payload s with e | ⟨g, es, _, e⟩ <;> rw [e]; rfl
      case h_25 => rcases serveStrayClear_cases f.payload s with e | ⟨_, e⟩ <;> rw [e]; rfl
      case h_26 => rcases serveIngressSet_cases f.payload s with e | ⟨_, _, e⟩ <;> rw [e]; rfl
      case h_27 => rcases serveSurveyOpen_cases f.payload s with e | ⟨_, _, e⟩ <;> rw [e]; rfl
      case h_28 => rcases serveSurveyClose_cases f.payload s with e | ⟨_, _, e⟩ <;> rw [e]; rfl
      case h_30 => rcases serveLogTake_cases f.payload s with e | ⟨_, _, e⟩ <;> rw [e]; rfl
      all_goals simp [serveStatusGet, serveRestart, serveTimeGet, serveWindowList, serveClassGet, serveSweepList,
        serveLegGet_state, serveProfileRead_state, servePeaksRead_state, serveMapRead_state, serveStrayList_state,
        serveSurveyRead_state, serveWatchGet_state]

/-- The transmitter that sends a frame goes on with it while a request is served, and the mark `hold` stays. -/
theorem serve_sending (f : Frame) {x : Sending} {s : State} (hx : s.msg.tx = some x) : (serve f s).1.msg.tx = some x := by
  refine (msg_blocks (M := fun m => m.tx = some x) (fun clock r m h => ?_) fun _ h => h).serve f hx
  unfold Message.post
  split
  · exact h
  · rw [Message.kick]
    simp [h]

theorem serve_requests (f : Frame) (s : State) : (serve f s).1.msg.requests = s.msg.requests :=
  (msg_blocks (M := fun m => m.requests = s.msg.requests) (fun clock r m h => (m.post_keeps clock r).2.1.trans h) fun _ h => h).serve
    f rfl

/-- A request dispatched while a frame is sent: the frame goes on, the reply waits in the slot, the other requests wait (R8, R11). -/
theorem dispatch_sending (f : Frame) {x : Sending} {s : State} (hx : s.msg.tx = some x) :
    (dispatch f s).time.clock = s.time.clock ∧ (dispatch f s).msg.tx = some x ∧ (dispatch f s).msg.requests = s.msg.requests ∧
      ∃ y, (dispatch f s).msg.slot = some y ∧ y.frame.kind = f.kind + 0x80 ∧ y.frame.tag = f.tag := by
  have hclock := serve_clock f (s.setMsg { s.msg with hold := true })
  have htx := serve_sending f (s := s.setMsg { s.msg with hold := true }) hx
  have hrequests := serve_requests f (s.setMsg { s.msg with hold := true })
  unfold dispatch
  generalize serve f _ = held at hclock htx hrequests
  simp only [State.setMsg_msg, htx, Option.isSome_some, Bool.true_or, ↓reduceIte, placeReply, Message.kick]
  exact ⟨hclock, trivial, hrequests, _, rfl, rfl, rfl⟩

/-! ### The end of a frame (R8, R12, R13, R15) -/

theorem exec_frameSent {x : Sending} {s : State} (hs : s.inReset = false) (hx : s.msg.tx = some x) :
    exec .frameSent s = .next (if x.restart then leaveReset .restart (s.atClock (x.startClock + frameCycles x.frame))
      else dispatchWaiting ((s.atClock (x.startClock + frameCycles x.frame)).setMsg
        (Message.kick (s.atClock (x.startClock + frameCycles x.frame)).time.clock { s.msg with tx := none }))) := by
  show execFrameSent s = _
  rw [execFrameSent, State.live, hs, hx]
  rfl

/-- No further cycle passes when none is asked for. -/
theorem State.atClock_after_zero (n : Nat) (s : State) : (s.atClock n).after 0 = s.atClock n :=
  State.after_after (n - s.time.clock) 0 s

/-- While a frame is sent and the slot is empty, one request is dispatched, and its reply fills the slot (R8). -/
theorem dispatchFor_sending (n : Nat) {s : State} {f : Frame} {waiting : List Frame} {x : Sending}
    (hrequests : s.msg.requests = f :: waiting) (hslot : s.msg.slot = none) (hdispatching : s.msg.dispatching = true)
    (hx : s.msg.tx = some x) : dispatchFor (n + 1) s = dispatch f (s.setMsg { s.msg with requests := waiting }) := by
  obtain ⟨_, _, _, y, hy, _⟩ := dispatch_sending f (s := s.setMsg { s.msg with requests := waiting }) hx
  rw [dispatchFor, hrequests, hslot, hdispatching]
  exact dispatchFor_blocked n (.inl (by rw [hy]; exact Option.some_ne_none y))

/-- With no request to dispatch, the end of a frame is what the transmitter then takes. -/
theorem frameSent_undispatched {s : State} {x : Sending} (hs : s.inReset = false) (hx : s.msg.tx = some x)
    (hrestart : x.restart = false) (hwait : s.msg.requests = [] ∨ s.msg.dispatching = false) :
    exec .frameSent s = .next ((s.atClock (x.startClock + frameCycles x.frame)).setMsg
      (Message.kick (s.atClock (x.startClock + frameCycles x.frame)).time.clock { s.msg with tx := none })) := by
  rw [exec_frameSent hs hx, hrestart]
  refine congrArg Host.Outcome.next ?_
  generalize s.atClock _ = u
  have hkeeps := Message.kick_keeps u.time.clock { s.msg with tx := none }
  rcases hwait with hnone | hstop
  · exact dispatchFor_none _ _ (hkeeps.1.trans hnone)
  · exact dispatchFor_blocked _ (.inr (hkeeps.2.1.trans hstop))

/-- The message controller as the transmitter takes the waiting reply, with these requests waiting (R12). -/
def Message.replyTaken (clock : Nat) (r : ReplyFrame) (requests : List Frame) (m : Message) : Message :=
  { m with slot := none, requests := requests, tx := some ⟨r.frame, r.restart, clock⟩ }

/-- When a reply is taken and dispatch runs, the oldest waiting request is dispatched at that instant, and no other. -/
theorem frameSent_dispatches {s : State} {x : Sending} (hs : s.inReset = false) (hx : s.msg.tx = some x)
    (hhold : s.msg.hold = false) (hrestart : x.restart = false) (hdispatching : s.msg.dispatching = true) {r : ReplyFrame}
    {f : Frame} {waiting : List Frame} (hslot : s.msg.slot = some r) (hrequests : s.msg.requests = f :: waiting) {u : State}
    (hu : s.atClock (x.startClock + frameCycles x.frame) = u) :
    exec .frameSent s = .next (dispatch f (u.setMsg (s.msg.replyTaken u.time.clock r waiting))) := by
  rw [exec_frameSent hs hx, hrestart, hu]
  refine congrArg Host.Outcome.next ?_
  have hkick : Message.kick u.time.clock { s.msg with tx := none } = s.msg.replyTaken u.time.clock r (f :: waiting) := by
    rw [← hrequests, Message.kick, Message.replyTaken]
    simp only [hhold, hslot, Bool.false_eq_true, ↓reduceIte]
  rw [hkick]
  exact dispatchFor_sending waiting.length (s := u.setMsg (s.msg.replyTaken u.time.clock r (f :: waiting))) rfl rfl
    hdispatching rfl

/-- The same dispatch is that of a request which completes at that instant (R8). -/
theorem exec_arrives_sending {c : Instr} {f : Frame} (hc : c.frame = some f) (hafter : c.after = 0) {s v : State} {n : Nat}
    (hv : v = s.atClock n) (hs : s.inReset = false) {m : Message} (hdispatching : m.dispatching = true) (hslot : m.slot = none)
    (hhold : m.hold = false) (hnone : m.requests = []) {x : Sending} (hx : m.tx = some x) :
    exec c (v.setMsg m) = .next (dispatch f (v.setMsg m)) := by
  have hready : Ready (v.setMsg m) := by
    subst hv
    exact ⟨hs, hdispatching, hnone, hslot, hhold, fun hidle => absurd (hx.symm.trans hidle) (Option.some_ne_none x)⟩
  have hzero : (v.setMsg m).after c.after = v.setMsg m := by
    subst hv
    rw [hafter]
    show ((s.atClock n).after 0).setMsg m = _
    rw [State.atClock_after_zero]
  rw [exec_frame hc hready.running, hzero, offerRequest_ready _ _ hready]

/-- Settles O9: the bits of the line by the position in the frame; the end of a frame by what waits for the transmitter. -/
theorem frameSentTakesNext : Obligations.FrameSentTakesNext := by
  unfold Obligations.FrameSentTakesNext
  refine ⟨fun s => ⟨fun hidle => ?_, fun x hx => lineLevel_sending hx⟩, fun s hs => ⟨fun x hx hhold => ⟨?_, ?_, ?_⟩, ?_⟩⟩
  · rw [lineLevel, hidle]
  · intro hrestart hwait
    have hend := frameSent_undispatched hs hx hrestart hwait
    refine ⟨fun r hslot => ?_, fun r rs hslot hreports => ?_, fun hslot hreports => ?_⟩ <;> rw [hend, frameCycles, Message.kick]
    · simp [hhold, hslot]
    · simp [hhold, hslot, hreports]
    · simp [hhold, hslot, hreports]
  · intro hrestart hdispatching r f waiting hslot hrequests
    have hend := frameSent_dispatches hs hx hhold hrestart hdispatching hslot hrequests rfl
    refine ⟨?_, fun c hnone hc hafter => ?_⟩
    · obtain ⟨hclock, htx, hwaiting, y, hy, hkind, htag⟩ := dispatch_sending f
        (s := (s.atClock (x.startClock + frameCycles x.frame)).setMsg (s.msg.replyTaken _ r waiting)) rfl
      exact ⟨_, y, hend, hclock, hwaiting, htx, hy, hkind, htag⟩
    · subst hnone
      rw [hend]
      exact (exec_arrives_sending hc hafter (s := s) rfl hs
        (m := s.msg.replyTaken (s.atClock (x.startClock + frameCycles x.frame)).time.clock r []) hdispatching rfl hhold rfl rfl).symm
  · intro hrestart
    rw [exec_frameSent hs hx, hrestart]
    exact congrArg Host.Outcome.next (leaveReset_eq .restart _)
  · intro hidle
    show execFrameSent s = _
    rw [execFrameSent, State.live, hs, hidle]
    rfl

end Sys2Proof.Machine
end

section
/-! PROOFS. The receive assembler (R1 to R7). -/

namespace Sys2Proof.Machine

open Sys2Proof

/-! ### Gaps between bytes (R5) -/

/-- Consecutive bytes no more than 5 ms apart (R5). -/
def Unbroken (bs : List TimedByte) : Prop := bs.IsChain fun x y => y.time ≤ x.time + frameDelay

theorem gapTooLong_eq_false {bs : List TimedByte} : gapTooLong bs = false ↔ Unbroken bs := by
  induction bs with
  | nil => simp [gapTooLong, Unbroken]
  | cons a bs ih =>
    cases bs with
    | nil => simp [gapTooLong, Unbroken]
    | cons b bs =>
      rw [Unbroken, List.isChain_cons_cons, gapTooLong, Bool.or_eq_false_iff, ih, decide_eq_false_iff_not, Nat.not_lt]
      rfl

/-- A byte that comes within 5 ms of the last one. -/
theorem Unbroken.arrive {x : TimedByte} {ys : List TimedByte} (h : Unbroken (x :: ys)) {n : Nat} (hn : n ≤ frameDelay) (b : Byte) :
    Unbroken (x :: (ys ++ [⟨b, ((ys.getLast?).getD x).time + n⟩])) := by
  refine List.IsChain.append (l₁ := x :: ys) (l₂ := [_]) h (List.isChain_singleton _) fun z hz y hy => ?_
  have hlast : (ys.getLast?).getD x = z := by
    rw [List.getLast?_cons] at hz
    exact Option.some.inj hz
  obtain rfl := Option.some.inj hy
  rw [hlast]
  exact Nat.add_le_add_left hn _

/-! ### A frame's bytes after its SYNC (R2, R3) -/

/-- The bytes of a frame after its SYNC. -/
def Frame.body (f : Frame) : List Byte := f.covered ++ le 2 (crc f.covered).toNat

theorem Frame.bytes_eq (f : Frame) : f.bytes = sync :: f.body := by
  simp [Frame.bytes, Frame.body]

theorem Frame.covered_length (f : Frame) : f.covered.length = f.payload.length + 4 := by
  simp [Frame.covered]
  omega

theorem Frame.body_length (f : Frame) : f.body.length = f.payload.length + 6 := by
  simp [Frame.body, Frame.covered_length]

section
variable {f : Frame} (hf : f.payload.length ≤ 1024)
include hf

theorem Frame.body_take_two : unle (f.body.take 2) = f.payload.length + 2 := by
  have htwo : f.body.take 2 = le 2 (f.payload.length + 2) := by
    simp [Frame.body, Frame.covered]
  rw [htwo, unle_le]
  omega

/-- A whole frame after a SYNC, its bytes without a long gap, is a good frame, whatever follows (R4). -/
theorem tryFrame_good {now : Nat} {first : TimedByte} {ys : List TimedByte} (rest : List TimedByte) (hy : plain ys = f.body)
    (hgap : Unbroken (first :: ys)) : tryFrame now first (ys ++ rest) = .good f rest := by
  have hlen : ys.length = f.payload.length + 6 := by rw [← f.body_length, ← hy, plain, List.length_map]
  have hshort : (ys ++ rest).take 2 = ys.take 2 := List.take_append_of_le_length (by omega)
  have hvalue : unle (plain (ys.take 2)) = f.payload.length + 2 := by
    rw [plain, List.map_take, ← plain, hy, f.body_take_two hf]
  have hheld : (ys ++ rest).take (f.payload.length + 2 + 4) = ys := by
    rw [List.take_append_of_le_length (by omega), List.take_of_length_le (by omega)]
  have hrest : (ys ++ rest).drop (f.payload.length + 2 + 4) = rest := List.drop_left' (by omega)
  have hgap2 : gapTooLong (first :: ys.take 2) = false := gapTooLong_eq_false.mpr (hgap.take 3)
  have hcovered : f.body.take (f.payload.length + 2 + 2) = f.covered := List.take_left' (by rw [f.covered_length])
  have hcrc : unle (f.body.drop (f.payload.length + 2 + 2)) = (crc f.covered).toNat := by
    rw [Frame.body, List.drop_left' (by rw [f.covered_length]), unle_le]
    exact Nat.mod_eq_of_lt (crc f.covered).isLt
  have hpayload : (f.body.drop 4).take f.payload.length = f.payload := by
    simp [Frame.body, Frame.covered, le]
  unfold tryFrame
  simp only [hshort, hvalue, hheld, hrest, hgap2, gapTooLong_eq_false.mpr hgap, hy, hcovered, hcrc, hpayload,
    Bool.false_eq_true, ↓reduceIte, Nat.add_sub_cancel, List.length_append]
  rw [if_neg (by omega), if_neg (by omega), if_neg (by omega)]
  simp [Frame.body, Frame.covered, le]

/-- A frame of which bytes are still to come, its last byte of now, stays held (R4, R5). -/
theorem tryFrame_incomplete {now : Nat} {first : TimedByte} {ys : List TimedByte} {post : List Byte}
    (hy : plain ys ++ post = f.body) (hpost : post ≠ []) (hgap : Unbroken (first :: ys))
    (hnow : now ≤ ((ys.getLast?).getD first).time + frameDelay) : tryFrame now first ys = .incomplete := by
  have hstale : decide (((ys.getLast?).getD first).time + frameDelay < now) = false := decide_eq_false (Nat.not_lt.mpr hnow)
  have hlen : ys.length < f.payload.length + 6 := by
    have := congrArg List.length hy
    have := List.length_pos_iff.mpr hpost
    rw [List.length_append, f.body_length, plain, List.length_map] at *
    omega
  have hgap2 : gapTooLong (first :: ys.take 2) = false := gapTooLong_eq_false.mpr (hgap.take 3)
  unfold tryFrame
  simp only [hstale, hgap2, Bool.false_eq_true, ↓reduceIte]
  split
  · rfl
  · next htwo =>
    have hvalue : unle (plain (ys.take 2)) = f.payload.length + 2 := by
      rw [← f.body_take_two hf, ← hy, List.take_append_of_le_length (by rw [plain, List.length_map]; omega), plain, plain,
        List.map_take]
    have hheld : ys.take (f.payload.length + 2 + 4) = ys := List.take_of_length_le (by omega)
    simp only [hvalue, hheld, gapTooLong_eq_false.mpr hgap, Bool.false_eq_true, ↓reduceIte]
    rw [if_neg (by omega), if_pos (by omega)]

end

/-! ### The scan of an input (R4, R6) -/

/-- Bytes without a SYNC leave no trace (R4). -/
theorem scanInput_noSync (fuel now : Nat) {input : List TimedByte} (h : ∀ x ∈ input, x.byte ≠ sync) :
    scanInput fuel now input = ⟨[], none⟩ := by
  induction fuel generalizing input with
  | zero => rfl
  | succ fuel ih =>
    cases input with
    | nil => rfl
    | cons x input =>
      rw [scanInput, if_pos (h x List.mem_cons_self)]
      exact ih fun y hy => h y (List.mem_cons_of_mem x hy)

/-- The bytes of good frames, back to back without a long gap, are those frames (R4, R6). -/
theorem scanInput_frames (now : Nat) {fs : List Frame} (hfs : ∀ f ∈ fs, f.payload.length ≤ 1024) {fuel : Nat}
    {input : List TimedByte} (hfuel : input.length ≤ fuel) (hinput : plain input = fs.flatMap Frame.bytes)
    (hgap : Unbroken input) : scanInput fuel now input = ⟨fs.map some, none⟩ := by
  induction fs generalizing input fuel with
  | nil =>
    have hnone : input = [] := List.map_eq_nil_iff.mp hinput
    subst hnone
    cases fuel <;> rfl
  | cons f fs ih =>
    rw [List.flatMap_cons, f.bytes_eq, List.cons_append] at hinput
    obtain ⟨x, ys', rfl, hx, hys'⟩ := List.map_eq_cons_iff.mp hinput
    obtain ⟨ys, rest, rfl, hys, hrest⟩ := List.map_eq_append_iff.mp hys'
    obtain ⟨fuel, rfl⟩ : ∃ n, fuel = n + 1 := ⟨fuel - 1, by simp only [List.length_cons] at hfuel; omega⟩
    have hgap' : Unbroken ((x :: ys) ++ rest) := hgap
    rw [scanInput, if_neg (not_not_intro hx), tryFrame_good (hfs f List.mem_cons_self) rest hys hgap'.left_of_append]
    simp only [List.length_cons, List.length_append] at hfuel
    have hscan := ih (fun f hf => hfs f (List.mem_cons_of_mem _ hf)) (fuel := fuel) (by omega) hrest hgap'.right_of_append
    dsimp only
    rw [hscan]
    rfl

/-! ### The assembler at an arriving byte (R4 to R6) -/

theorem exec_byteArrival (n : Nat) (b : Byte) {s : State} (hs : s.inReset = false) : exec (.byteArrival n b) s =
    .next (takeInput (s.msg.assembler.bytes ++ [⟨b, (s.after n).time.clock⟩]) (s.after n)) := by
  show execByteArrival n b s = _
  rw [execByteArrival, State.live, hs]
  rfl

theorem Assembler.bytes_hunt {a : Assembler} (h : a.mode = .hunt) : a.bytes = [] := by
  rw [Assembler.bytes, h]

theorem Assembler.bytes_held {a : Assembler} (h : a.mode ≠ .hunt) : a.bytes = ⟨sync, a.syncTime⟩ :: a.retained := by
  unfold Assembler.bytes
  split
  · next hmode => exact absurd hmode h
  · rfl

theorem Assembler.bytes_holding {x : TimedByte} (hx : x.byte = sync) (ys : List TimedByte) :
    (Assembler.holding (some (x, ys))).bytes = x :: ys := by
  rw [Assembler.bytes_held]
  · rw [← hx]
    rfl
  · simp only [Assembler.holding]
    split <;> exact nofun

/-- An input that is all held, or all gone, is only retained (R4). -/
theorem takeInput_held {input : List TimedByte} {held : Option (TimedByte × List TimedByte)} {s : State}
    (h : scanInput input.length s.time.clock input = ⟨[], held⟩) :
    takeInput input s = s.setMsg { s.msg with assembler := .holding held } := by
  rw [takeInput, h]
  rfl

/-! ### The bytes of one frame, arriving one after another (R4, R7) -/

/-- A run goes on from where its first step leads. -/
theorem run_of_step {M : Host.Core} {s t : M.State} (k : Nat) (h : M.step s = .next t) : M.run (k + 1) s = M.run k t := by
  rw [Host.Core.run, h]

theorem run_command {c : Instr} {rest : List Instr} {s t : State} (k : Nat) (h : exec c (s.setPending rest) = .next t) :
    Host.Core.run Sys2Proof.core (k + 1) (s.setPending (c :: rest)) = Host.Core.run Sys2Proof.core k t :=
  run_of_step (M := Sys2Proof.core) (s := s.setPending (c :: rest)) k h

/-- The state while a frame is held: the assembler alone tells it from `s`. -/
def State.assembling (held : Option (TimedByte × List TimedByte)) (s : State) : State :=
  s.setMsg { s.msg with assembler := .holding held }

theorem takeInput_frame {f : Frame} {input : List TimedByte} {held : Option (TimedByte × List TimedByte)} {s : State}
    (h : scanInput input.length s.time.clock input = ⟨[some f], none⟩) :
    takeInput input (s.assembling held) = offerRequest f (s.assembling none) := by
  rw [takeInput, show scanInput input.length (s.assembling held).time.clock input = _ from h]
  rfl

section
variable {f : Frame} (hf : f.payload.length ≤ 1024) {x : TimedByte} (hx : x.byte = sync)
include hf hx

theorem scanInput_incomplete {now : Nat} {ys : List TimedByte} {post : List Byte} (hy : plain ys ++ post = f.body)
    (hpost : post ≠ []) (hgap : Unbroken (x :: ys)) (hnow : now ≤ ((ys.getLast?).getD x).time + frameDelay) :
    scanInput (x :: ys).length now (x :: ys) = ⟨[], some (x, ys)⟩ := by
  rw [List.length_cons, scanInput, if_neg (not_not_intro hx), tryFrame_incomplete hf hy hpost hgap hnow]

/-- The bytes of the frame still to come, arriving with the assembler holding those before them, bring the frame (R4, R7). -/
theorem run_body {post : List Byte} (hpost : post ≠ []) {ys : List TimedByte} (hy : plain ys ++ post = f.body)
    {gaps : List Nat} (hgaps : gaps.length = post.length) (hshort : ∀ n ∈ gaps, n ≤ frameDelay) (hgap : Unbroken (x :: ys))
    {s : State} (hs : s.inReset = false) (hlast : ((ys.getLast?).getD x).time = s.time.clock) :
    Host.Core.run Sys2Proof.core post.length ((s.assembling (some (x, ys))).setPending (List.zipWith Instr.byteArrival gaps post)) =
      .next (offerRequest f (((s.after gaps.sum).setPending []).assembling none)) := by
  induction post generalizing ys gaps s with
  | nil => exact absurd rfl hpost
  | cons b post ih =>
    obtain ⟨n, gaps, rfl⟩ : ∃ n gaps', gaps = n :: gaps' := List.exists_cons_of_length_eq_add_one hgaps
    have hn : n ≤ frameDelay := hshort n List.mem_cons_self
    have hgap' := hgap.arrive hn b
    rw [hlast] at hgap'
    have hexec := exec_byteArrival n b
      (s := (s.assembling (some (x, ys))).setPending (List.zipWith Instr.byteArrival gaps post)) hs
    have hbytes : (s.assembling (some (x, ys))).msg.assembler.bytes = x :: ys := Assembler.bytes_holding hx ys
    rw [State.setPending_msg, hbytes] at hexec
    rw [List.zipWith_cons_cons, List.length_cons, run_command _ hexec]
    have hy' : plain (ys ++ [⟨b, s.time.clock + n⟩]) ++ post = f.body := by
      rw [← hy, plain, plain, List.map_append, List.append_assoc]
      rfl
    cases post with
    | nil =>
      have hnone : gaps = [] := List.eq_nil_of_length_eq_zero (Nat.succ.inj hgaps)
      have hscan := scanInput_frames (s.time.clock + n) (fs := [f]) (by simpa using hf) le_rfl
        (by rw [List.flatMap_singleton, f.bytes_eq, ← hy', List.append_nil, ← hx]; rfl) hgap'
      subst hnone
      exact congrArg Host.Outcome.next (takeInput_frame (s := (s.after n).setPending []) (held := some (x, ys)) hscan)
    | cons c post =>
      have hscan := scanInput_incomplete hf hx (now := s.time.clock + n) hy' (List.cons_ne_nil c post) hgap' (by simp)
      have hrun := ih (List.cons_ne_nil c post) hy' (gaps := gaps) (Nat.succ.inj hgaps)
        (fun m hm => hshort m (List.mem_cons_of_mem n hm)) hgap' (s := s.after n) hs (by simp)
      rw [State.after_after] at hrun
      rw [List.sum_cons, ← hrun]
      refine congrArg _ (takeInput_held (s := ((s.after n).assembling (some (x, ys))).setPending _) hscan)

end

/-- Settles O12: the byte as received; and, from the SYNC on, the bytes one by one. -/
theorem frameBytesBringTheFrame : Obligations.FrameBytesBringTheFrame := by
  unfold Obligations.FrameBytesBringTheFrame
  refine ⟨fun b start stop => ?_, fun f gaps s hf hs hhunt hgaps hshort => ?_⟩
  · have hbits : (List.ofFn fun i : Fin 8 => b.getLsbD i.val) = (List.range 8).map fun i => b.getLsbD i := rfl
    rw [hbits]
    exact receivedByte_data b start stop
  · rw [f.bytes_eq] at hgaps ⊢
    obtain ⟨n, gaps, rfl⟩ : ∃ n gaps', gaps = n :: gaps' := List.exists_cons_of_length_eq_add_one hgaps
    have hbody : f.body ≠ [] := List.ne_nil_of_length_pos (by rw [f.body_length]; omega)
    have hexec := exec_byteArrival n sync (s := s.setPending (List.zipWith Instr.byteArrival gaps f.body)) hs
    have hnone : s.msg.assembler.bytes = [] := Assembler.bytes_hunt hhunt
    rw [State.setPending_msg, hnone, List.nil_append] at hexec
    have hscan := scanInput_incomplete hf (x := ⟨sync, s.time.clock + n⟩) rfl (now := s.time.clock + n) (ys := []) (post := f.body)
      rfl hbody (List.isChain_singleton _) (by simp)
    have hrun := run_body hf (x := ⟨sync, s.time.clock + n⟩) rfl hbody (ys := []) rfl (gaps := gaps) (Nat.succ.inj hgaps) hshort
      (List.isChain_singleton _) (s := s.after n) hs (by simp)
    rw [State.after_after] at hrun
    rw [List.zipWith_cons_cons, List.length_cons, run_command _ hexec, List.sum_cons]
    refine Eq.trans ?_ hrun
    exact congrArg _ (takeInput_held (s := (s.after n).setPending _) hscan)

/-! ### Discards and the rescan (R4 to R6) -/

/-- A discard with no SYNC after it leaves the assembler in HUNT with nothing retained (R4, R6). -/
theorem scanInput_discard {now : Nat} {x : TimedByte} (hx : x.byte = sync) {input : List TimedByte}
    (hd : tryFrame now x input = .discard) (hnone : ∀ y ∈ input, y.byte ≠ sync) :
    scanInput (x :: input).length now (x :: input) = ⟨[none], none⟩ := by
  rw [List.length_cons, scanInput, if_neg (not_not_intro hx), hd]
  dsimp only
  rw [scanInput_noSync _ _ hnone]

/-- A LENGTH out of range, or a whole frame whose CRC does not match, is a discard (R4). -/
theorem tryFrame_discard {now : Nat} {first : TimedByte} {input : List TimedByte} (htwo : 2 ≤ input.length)
    (hbad : unle (plain (input.take 2)) < 2 ∨ 1026 < unle (plain (input.take 2)) ∨
      (input.length = unle (plain (input.take 2)) + 4 ∧
        (crc ((plain input).take (unle (plain (input.take 2)) + 2))).toNat ≠
          unle ((plain input).drop (unle (plain (input.take 2)) + 2)))) : tryFrame now first input = .discard := by
  unfold tryFrame
  dsimp only
  split
  · rfl
  · rw [if_neg (by omega)]
    split
    · rfl
    · next hrange =>
      obtain ⟨hlength, hcrc⟩ := (hbad.resolve_left (fun h => hrange (.inl h))).resolve_left (fun h => hrange (.inr h))
      split
      · rfl
      · rw [← hlength, List.take_length, if_neg (lt_irrefl _), if_neg hcrc]

theorem unle_pair {bs : List Byte} (h : bs.length = 2) : unle bs = (bs.getD 0 0).toNat + 256 * (bs.getD 1 0).toNat := by
  match bs, h with
  | [a, b], _ => rfl

/-- The end of 5 ms of silence: the error is counted, and what was retained is read again (R5, R6). -/
theorem exec_frameDelayExpiry {s : State} (hs : s.inReset = false) (hheld : s.msg.assembler.mode ≠ .hunt) :
    exec .frameDelayExpiry s = .next (takeInput s.msg.assembler.retained (countFrameError (s.atClock
      (((s.msg.assembler.retained.map (·.time)).getLast?.getD s.msg.assembler.syncTime) + frameDelay)))) := by
  show execFrameDelayExpiry s = _
  rw [execFrameDelayExpiry, State.live, hs, Assembler.bytes_held hheld, List.getLast?_map]
  simp only [Bool.false_eq_true, ↓reduceIte]
  cases s.msg.assembler.retained.getLast? <;> rfl

/-- An error counted, with the assembler back in HUNT (R6). -/
theorem countFrameError_reset {u : State} {m : Message} (hm : u.msg = m) :
    (countFrameError u).setMsg { (countFrameError u).msg with assembler := .reset } =
      u.setMsg { m with assembler := .reset, frameErrors := min 65535 (m.frameErrors + 1) } := by
  subst hm
  rfl

/-- A byte that brings a discard, with no SYNC to resume at (R4, R6). -/
theorem byteArrival_discards {n : Nat} {b : Byte} {s : State} (hs : s.inReset = false) (hheld : s.msg.assembler.mode ≠ .hunt)
    (hnone : ∀ x ∈ s.msg.assembler.retained.map (·.byte) ++ [b], x ≠ sync)
    (hd : tryFrame (s.after n).time.clock ⟨sync, s.msg.assembler.syncTime⟩
      (s.msg.assembler.retained ++ [⟨b, (s.after n).time.clock⟩]) = .discard) :
    exec (.byteArrival n b) s = .next ((s.after n).setMsg
      { s.msg with assembler := .reset, frameErrors := min 65535 (s.msg.frameErrors + 1) }) := by
  have hscan := scanInput_discard rfl hd fun y hy => hnone y.byte (by
    have := List.mem_map_of_mem (f := TimedByte.byte) hy
    rwa [List.map_append] at this)
  rw [exec_byteArrival n b hs, Assembler.bytes_held hheld, List.cons_append, takeInput, hscan]
  rfl

/-- Settles O13: HUNT, the discards of R4, and the silence of R5 with its rescan. -/
theorem assemblerHuntsAndDiscards : Obligations.AssemblerHuntsAndDiscards := by
  unfold Obligations.AssemblerHuntsAndDiscards
  refine ⟨fun n b s hs hreset => ⟨fun hb => ?_, ?_⟩, fun n b s hs hheld => ?_, fun s hs => ⟨fun hheld => ?_, fun hhunt => ?_⟩⟩
  · rw [exec_byteArrival n b hs, hreset]
    refine congrArg Host.Outcome.next ((takeInput_held (held := none) ?_).trans ?_)
    · exact scanInput_noSync _ _ (by simpa [Assembler.bytes, Assembler.reset, sync] using hb)
    · show (s.after n).setMsg { s.msg with assembler := .reset } = _
      rw [← hreset]
      rfl
  · rw [exec_byteArrival n _ hs, hreset]
    refine congrArg Host.Outcome.next (takeInput_held (held := some (⟨sync, (s.after n).time.clock⟩, [])) ?_)
    exact scanInput_incomplete (f := ⟨0, 0, []⟩) (Nat.zero_le _) rfl (ys := []) (post := Frame.body ⟨0, 0, []⟩) rfl
      (List.ne_nil_of_length_pos (by rw [Frame.body_length]; exact Nat.succ_pos _)) (List.isChain_singleton _) (by simp)
  · dsimp only
    intro htwo hnone hbad
    refine byteArrival_discards hs hheld hnone (tryFrame_discard (by simpa using htwo) ?_)
    have hplain : plain (s.msg.assembler.retained ++ [⟨b, (s.after n).time.clock⟩]) = s.msg.assembler.retained.map (·.byte) ++ [b] := by
      simp [plain]
    rw [← hplain] at hbad htwo
    generalize s.msg.assembler.retained ++ [⟨b, (s.after n).time.clock⟩] = input at hbad htwo
    rw [plain, List.length_map] at htwo
    have hvalue : unle (plain (input.take 2)) = ((plain input).getD 0 0).toNat + 256 * ((plain input).getD 1 0).toNat := by
      rw [unle_pair (by rw [plain, List.length_map, List.length_take]; omega)]
      simp [plain, List.getD_eq_getElem?_getD]
    rw [hvalue]
    refine hbad.imp_right fun h => h.imp_right fun ⟨hlength, hcrc⟩ => ⟨by rwa [plain, List.length_map] at hlength, ?_⟩
    rw [unle_pair (by rw [List.length_drop, hlength]; omega)]
    simpa [List.getD_eq_getElem?_getD, List.getElem?_drop] using hcrc
  · have hend := exec_frameDelayExpiry hs hheld
    have hcounted := countFrameError_reset (u := s.atClock
      (((s.msg.assembler.retained.map (·.time)).getLast?.getD s.msg.assembler.syncTime) + frameDelay)) (m := s.msg) (by simp)
    revert hend hcounted
    generalize hu : s.atClock _ = u
    intro hend hcounted
    have hu' : s.atClock (((s.msg.assembler.retained.map (·.time)).getLast?.getD s.msg.assembler.syncTime) + 1000000) = u := hu
    dsimp only
    rw [hend, hu']
    refine ⟨fun hnone => ?_, fun fs hfs hbytes hgap => ?_⟩
    · rw [← hcounted]
      exact congrArg Host.Outcome.next (takeInput_held (held := none) (scanInput_noSync _ _ hnone))
    · rw [takeInput, scanInput_frames _ hfs le_rfl hbytes hgap, ← hcounted]
      dsimp only
      rw [List.foldl_map]
      rfl
  · show execFrameDelayExpiry s = _
    rw [execFrameDelayExpiry, State.live, hs, Assembler.bytes_hunt hhunt]
    rfl

end Sys2Proof.Machine
end

section
/-! PROOFS. What a served request leaves: its reply and the reports it posted (R8 to R12, log 8). -/

namespace Sys2Proof.Machine

open Sys2Proof

/-! ### A message controller that holds its transmitter back (log 8) -/

/-- A message controller inside a dispatch: no reply yet, and an IDLE transmitter held back. -/
structure Held (m : Message) : Prop where
  slot : m.slot = none
  hold : m.hold = true

theorem Message.post_room {m : Message} (hhold : m.hold = true) (hroom : m.reports.length < 32) (clock : Nat) (r : Report) :
    m.post clock r = { m with reports := m.reports ++ [r] } := by
  rw [Message.post, if_neg (Nat.not_le.mpr hroom), Message.kick]
  cases htx : m.tx <;> simp [hhold]

theorem Held.post (clock : Nat) (r : Report) (m : Message) (h : Held m) : Held (m.post clock r) := by
  rcases Nat.lt_or_ge m.reports.length 32 with hroom | hfull
  · rw [Message.post_room h.hold hroom]
    exact ⟨h.slot, h.hold⟩
  · rw [Message.post, if_pos hfull]
    exact ⟨h.slot, h.hold⟩

theorem held_of_ready {s : State} (h : Ready s) : Held s.holding.msg := ⟨h.noReply, rfl⟩

/-- The state `t` that answers a request whose service left `v`: the reply is sent or waits, and an IDLE transmitter took the reply
or the oldest report (R8, R11, R12). -/
structure Answers (v t : State) (kind tag : Byte) (st : Status) (fields : List Byte) : Prop where
  state    : t = (v.setDraws t.draws).setMsg t.msg
  answered : Answered t kind tag st fields
  reports  : t.msg.reports = v.msg.reports ∨ ∃ r c, v.msg.reports = r :: t.msg.reports ∧ t.msg.tx = some ⟨r.frame, false, c⟩
  kept     : ∀ x, v.msg.tx = some x → t.msg.tx = some x
  lost     : t.msg.reportsLost = v.msg.reportsLost
  busy     : v.msg.tx ≠ none → t.msg.reports = v.msg.reports

/-- The reply placed while a frame is being sent waits behind it (R11). -/
theorem placeReply_sending (f : Frame) (st : Status) (fields : List Byte) {v : State} {x : Sending} (htx : v.msg.tx = some x) :
    (placeReply f ⟨st, fields, false⟩ v).msg = { v.msg with slot := some ⟨replyFrame f.kind f.tag st fields, false⟩ } := by
  simp [placeReply, Message.kick, htx, Reply.frame, replyFrame, u8, le]

/-- The reply placed with an IDLE transmitter that nothing holds back is sent (R12). -/
theorem placeReply_idle (f : Frame) (st : Status) (fields : List Byte) {v : State} (htx : v.msg.tx = none)
    (hhold : v.msg.hold = false) : (placeReply f ⟨st, fields, false⟩ v).msg =
      { v.msg with slot := none, tx := some ⟨replyFrame f.kind f.tag st fields, false, v.time.clock⟩ } := by
  simp [placeReply, Message.kick, htx, hhold, Reply.frame, replyFrame, u8, le]

/-- The message controller of which the transmitter has taken the oldest report, at the end of a dispatch. -/
def Message.reportTaken (clock : Nat) (r : Report) (rs : List Report) (m : Message) : Message :=
  { m with hold := false, reports := rs, tx := some ⟨r.frame, false, clock⟩ }

/-- A dispatched request is answered with what its service replied. -/
theorem dispatch_answers {f : Frame} {s v : State} {st : Status} {fields : List Byte}
    (hs : serve f s.holding = (v, ⟨st, fields, false⟩)) (hslot : v.msg.slot = none) : Answers v (dispatch f s) f.kind f.tag st fields := by
  have hplain : ∀ {w : State} {d : Nat} {m : Message}, w = (v.setDraws d).setMsg m → m.hold = false →
      m.reports = v.msg.reports → m.tx = v.msg.tx → m.reportsLost = v.msg.reportsLost →
      Answers v (placeReply f ⟨st, fields, false⟩ w) f.kind f.tag st fields := by
    intro w d m hw hhold hreports htx hlost
    subst hw
    cases hm : m.tx with
    | none =>
      have hmsg := placeReply_idle f st fields (v := (v.setDraws d).setMsg m) hm hhold
      refine ⟨rfl, .inr ⟨_, by rw [hmsg]⟩, .inl (by rw [hmsg]; exact hreports), fun x hx => ?_, by rw [hmsg]; exact hlost,
        fun _ => by rw [hmsg]; exact hreports⟩
      cases hx.symm.trans (htx.symm.trans hm)
    | some y =>
      have hmsg := placeReply_sending f st fields (v := (v.setDraws d).setMsg m) hm
      exact ⟨rfl, .inl (by rw [hmsg]), .inl (by rw [hmsg]; exact hreports), fun x hx => by rw [hmsg]; exact htx.trans hx,
        by rw [hmsg]; exact hlost, fun _ => by rw [hmsg]; exact hreports⟩
  unfold dispatch
  rw [show s.setMsg { s.msg with hold := true } = s.holding from rfl, hs]
  dsimp only
  generalize hc : v.setMsg { v.msg with hold := false } = calm
  have hm : calm.msg = { v.msg with hold := false } := by rw [← hc, State.setMsg_msg]
  split
  · exact hplain (d := v.draws) hc.symm rfl rfl rfl rfl
  · next hidle =>
    have hstate : ∀ m, (calm.setDraws (calm.draws + 1)).setMsg m = (v.setDraws (calm.draws + 1)).setMsg m := fun m => by
      rw [← hc]
      rfl
    split
    · exact hplain (w := calm.setDraws (calm.draws + 1)) (d := calm.draws + 1) (m := calm.msg) (hstate _) (by rw [hm])
        (by rw [hm]) (by rw [hm]) (by rw [hm])
    · rw [hm] at hidle
      have htx : v.msg.tx = none := by
        cases h : v.msg.tx with
        | none => rfl
        | some x => simp [h] at hidle
      obtain ⟨r, rs, hreports⟩ : ∃ r rs, v.msg.reports = r :: rs := List.exists_cons_of_ne_nil fun h => by simp [h] at hidle
      have hkick : calm.msg.kick calm.time.clock = v.msg.reportTaken calm.time.clock r rs := by
        rw [hm, Message.kick]
        simp [htx, hslot, hreports, Message.reportTaken]
      rw [show (calm.setDraws (calm.draws + 1)).time.clock = calm.time.clock from rfl,
        show (calm.setDraws (calm.draws + 1)).msg = calm.msg from rfl, hkick, hstate]
      have hmsg := placeReply_sending f st fields
        (v := (v.setDraws (calm.draws + 1)).setMsg (v.msg.reportTaken calm.time.clock r rs)) rfl
      refine ⟨rfl, .inl (by rw [hmsg]), .inr ⟨r, calm.time.clock, by rw [hmsg]; exact hreports, by rw [hmsg]; rfl⟩,
        fun x hx => ?_, by rw [hmsg]; rfl, fun hbusy => absurd htx hbusy⟩
      cases htx.symm.trans hx

/-- A request dispatched at once is answered with what its service replied (R7, R8). -/
theorem exec_answers {c : Instr} {f : Frame} {s v : State} {st : Status} {fields : List Byte} (h : Ready s) (hc : c.frame = some f)
    (huse : kindsInUse.contains f.kind.toNat = true) (hlength : lengthAllowed f.kind f.payload = true)
    (hs : serveKind f.kind f.payload (s.after c.after).holding = (v, ⟨st, fields, false⟩)) (hslot : v.msg.slot = none) :
    ∃ t, exec c s = .next t ∧ Answers v t f.kind f.tag st fields := by
  refine ⟨_, exec_frame hc h.running, ?_⟩
  rw [offerRequest_ready _ _ (h.after _)]
  refine dispatch_answers ?_ hslot
  rw [serve, huse, hlength]
  exact hs

/-- The answer leaves every block but the message controller as the service left it. -/
theorem Answers.frame {v t : State} {kind tag : Byte} {st : Status} {fields : List Byte} (h : Answers v t kind tag st fields) :
    t.pending = v.pending ∧ t.inReset = v.inReset ∧ t.time = v.time ∧ t.win = v.win ∧ t.plan = v.plan ∧ t.legs = v.legs ∧
      t.seq = v.seq ∧ t.probe = v.probe ∧ t.cap = v.cap ∧ t.cor = v.cor ∧ t.prof = v.prof ∧ t.div = v.div ∧
      t.arith = v.arith ∧ t.map = v.map ∧ t.stray = v.stray ∧ t.ing = v.ing := by
  rw [h.state]
  simp

/-- A service that only posts reports leaves the reply slot to the dispatch. -/
theorem PostsOnly.slot {s t : State} (h : PostsOnly s t) (hs : Held s.msg) : t.msg.slot = none := (h.keeps Held.post hs).slot

/-! ### The reports of an answered request -/

/-- What stands in the report queue or with the transmitter after the service, stands there after the answer. -/
theorem Answers.reported {v t : State} {kind tag : Byte} {st : Status} {fields : List Byte} (h : Answers v t kind tag st fields)
    {r : Report} (hr : Reported v r) : Reported t r := by
  rcases hr with hr | ⟨c, hc⟩
  · rcases h.reports with e | ⟨r', c, e, htx⟩
    · exact .inl (e ▸ hr)
    · rw [e, List.mem_cons] at hr
      rcases hr with rfl | hr
      · exact .inr ⟨c, htx⟩
      · exact .inl hr
  · exact .inr ⟨c, h.kept _ hc⟩

/-- The reports that a service appended have joined the queue. -/
theorem Answers.joined {s v t : State} {kind tag : Byte} {st : Status} {fields : List Byte} (h : Answers v t kind tag st fields)
    {rs : List Report} (hv : v.msg.reports = s.msg.reports ++ rs) : Joined s t rs := by
  rcases h.reports with e | ⟨r, c, e, htx⟩
  · exact .inl (e.trans hv)
  · exact .inr ⟨r, c, hv.symm.trans e, htx⟩

/-- A report in the queue that the transmitter takes is with the transmitter; any other stays in the queue (R12). -/
theorem reported_kick {m : Message} {r : Report} (h : r ∈ m.reports ∨ ∃ c, m.tx = some ⟨r.frame, false, c⟩) (clock : Nat) :
    r ∈ (m.kick clock).reports ∨ ∃ c, (m.kick clock).tx = some ⟨r.frame, false, c⟩ := by
  rcases m.kick_cases clock with e | ⟨htx, _, _, _, e⟩ | ⟨htx, _, _, r', rs, hrs, e⟩ <;> rw [e]
  · exact h
  · exact .inl (h.resolve_right fun ⟨c, hc⟩ => by cases htx.symm.trans hc)
  · have hmem := h.resolve_right fun ⟨c, hc⟩ => by cases htx.symm.trans hc
    rw [hrs, List.mem_cons] at hmem
    rcases hmem with rfl | hmem
    · exact .inr ⟨clock, rfl⟩
    · exact .inl hmem

/-- A report that is in the queue or with the transmitter stays there when others are posted (R10, R12). -/
theorem PostsOnly.reported {s t : State} (h : PostsOnly s t) {r : Report} (hr : Reported s r) : Reported t r := by
  refine h.keeps (M := fun m => r ∈ m.reports ∨ ∃ c, m.tx = some ⟨r.frame, false, c⟩) (fun clock r' m hm => ?_) hr
  rcases m.post_cases clock r' with ⟨_, e⟩ | ⟨_, e⟩ <;> rw [e]
  · exact hm
  · have hm' : r ∈ m.reports ++ [r'] ∨ ∃ c, m.tx = some ⟨r.frame, false, c⟩ := hm.imp_left fun hr => List.mem_append_left _ hr
    exact reported_kick hm' clock

end Sys2Proof.Machine
end

section
/-! PROOFS. The timebase reached, and the windows that open and close (R23, R26 to R29, R31). -/

namespace Sys2Proof.Machine

open Sys2Proof

/-! ### Ids (R23, R52) -/

/-- Settles O14: five tries pass at most four ids in use, since the ids tried are distinct. -/
theorem firstFreeIdIsGiven : Obligations.FirstFreeIdIsGiven := by
  unfold Obligations.FirstFreeIdIsGiven
  intro next used h1 h2 hroom
  obtain ⟨k, hk, hid, hpast, hfree⟩ := allocateId_search 5 next used
  have hlast : allocateId 5 next used ∉ used := allocateId_fresh h1 h2 (by decide) (by omega)
  simp only [nextIdAfter_iterate h1 h2] at hid hpast
  have hk4 : k ≤ 4 := by
    by_contra hlt
    obtain rfl : k = 5 := by omega
    have hnodup : ((List.range 5).map fun j => (next - 1 + j) % 255 + 1).Nodup := by
      refine List.nodup_range.map_on fun i hi j hj hij => ?_
      rw [List.mem_range] at hi hj
      omega
    have hsub : ((List.range 5).map fun j => (next - 1 + j) % 255 + 1) ⊆ used := fun id hmem => by
      obtain ⟨j, hj, rfl⟩ := List.mem_map.mp hmem
      exact hpast j (List.mem_range.mp hj)
    have hle := (List.subperm_of_subset hnodup hsub).length_le
    rw [List.length_map, List.length_range] at hle
    omega
  refine ⟨k, hk4, hid, hid ▸ hlast, hpast, ?_⟩
  have hnext := nextIdAfter_iterate h1 h2 (k + 1)
  rw [Function.iterate_succ_apply', nextIdAfter_iterate h1 h2] at hnext
  rw [hid, hnext]
  omega

/-! ### The timebase reached (R26, R27; log 2) -/

theorem Time.reachTimebase_timebase {v : Nat} (hv : v < 281474976710656) (t : Time) :
    (t.reachTimebase v).timebase = max t.timebase v := by
  unfold Time.reachTimebase
  split
  · next hpast => exact (Nat.max_eq_left hpast).symm
  · next hahead =>
    unfold Time.reach Time.advance cyclesPerMicro
    dsimp only
    have hmicros : (t.clock + ((t.clock / 200 + (v - t.timebase)) * 200 - t.clock)) / 200 - t.clock / 200 = v - t.timebase := by omega
    rw [hmicros]
    omega

/-! ### What the windows granted tell of the table -/

theorem table_map_of_grants {α : Type} {s t : State} (h : t.grants = s.grants) {f : Window → α} (hf : ∀ w, f w.bare = f w) :
    t.win.table.map f = s.win.table.map f := by
  have hbare : ∀ u : State, u.win.table.map f = u.grants.table.map f := fun u => by
    rw [State.grants, List.map_map]
    exact List.map_congr_left fun w _ => (hf w).symm
  rw [hbare, h, ← hbare]

theorem openWindow_of_grants {s t : State} (h : t.grants = s.grants) :
    t.openWindow.map Window.bare = s.openWindow.map Window.bare := by
  have hbare : ∀ u : State, u.openWindow.map Window.bare = u.grants.table.find? fun w => w.state == .opened := fun u => by
    rw [State.grants, List.find?_map]
    rfl
  rw [hbare, h, ← hbare]

theorem openWindow_eq_some_of_grants {s t : State} (h : t.grants = s.grants) {w : Window} (hw : s.openWindow = some w) :
    ∃ x, t.openWindow = some x ∧ x.bare = w.bare := by
  have hmap := openWindow_of_grants h
  rw [hw] at hmap
  exact Option.map_eq_some_iff.mp hmap

theorem openWindow_eq_none_of_grants {s t : State} (h : t.grants = s.grants) (hw : s.openWindow = none) : t.openWindow = none := by
  have hmap := openWindow_of_grants h
  rw [hw] at hmap
  exact Option.map_eq_none_iff.mp hmap

/-- With no window OPEN no acquisition is counted, and the choice leaves the windows (R22). -/
theorem choose_win_closed {s : State} (h : s.openWindow = none) : (choose s).win = s.win := by
  rcases choose_win s with e | e
  · exact e
  · rw [State.openWindow_eq_none] at h
    rw [e, countAcquisition_win]
    have hkeep : s.win.table.map Window.counted = s.win.table :=
      (List.map_congr_left fun w hw => by simp [Window.counted, h w hw]).trans (List.map_id' _)
    rw [hkeep]

theorem openTable_ids (id : Nat) (table : List Window) : (openedTable id table).map (·.id) = table.map (·.id) := by
  rw [openedTable, List.map_map]
  exact List.map_congr_left fun w _ => by
    rw [Function.comp_apply]
    split <;> rfl

/-! ### WINDOW_OPEN (R26) -/

theorem exec_windowOpen {s : State} (hs : s.inReset = false) {w : Window} (hw : nextToOpen s = some w) :
    exec .windowOpen s = .next (windowOpened w s) := by
  show execWindowOpen s = _
  rw [execWindowOpen, State.live, hs, hw]
  rfl

/-- Settles O18: the window at the head of the table opens at the timebase reached. -/
theorem windowOpensAtItsStart : Obligations.WindowOpensAtItsStart := by
  unfold Obligations.WindowOpensAtItsStart
  intro w rest s hs hinv htable hnone hstart
  have hnext : nextToOpen s = some w := by rw [nextToOpen, hnone, htable]; rfl
  obtain ⟨-, made, hopen⟩ := openWindowAt_openWindow (s := s.passTo (s.time.reachTimebase w.start)) (before := []) htable nofun nofun
  have hids : (windowOpened w s).win.table.map (·.id) = s.win.table.map (·.id) :=
    (table_map_of_grants (choose_grants _) fun _ => rfl).trans (openTable_ids w.id s.win.table)
  refine ⟨_, _, exec_windowOpen hs hnext, hopen, rfl, rfl, rfl, rfl, ?_, hids, ?_, ?_, ?_, ?_, ?_, ?_, ?_⟩
  · rw [← Time.reachTimebase_timebase hstart]
    simp [windowOpened]
  all_goals simp [windowOpened]

/-! ### The news of a window that closes (R27 to R29, R31; log 7) -/

/-- A bound of the reports that stand in the queue or that the pairing may still bring. -/
def State.reportsDue (s : State) : Nat := s.msg.reports.length + s.ing.pairing.toList.length

@[simp] theorem setIngLeg_pairing (g : LegId) (l : IngressLeg) (s : State) : (s.setIngLeg g l).ing.pairing = s.ing.pairing := rfl

@[simp] theorem updateLog_pairing (serial : Nat) (r : BurstRecord) (s : State) :
    (updateLog serial r s).ing.pairing = s.ing.pairing := rfl

@[simp] theorem logRecord_pairing (r : BurstRecord) (s : State) : (logRecord r s).ing.pairing = s.ing.pairing := by
  unfold logRecord
  split <;> rfl

theorem Message.post_length (clock : Nat) (r : Report) (m : Message) : (m.post clock r).reports.length ≤ m.reports.length + 1 := by
  rcases m.post_cases clock r with ⟨_, e⟩ | ⟨_, e⟩ <;> rw [e]
  · exact Nat.le_succ _
  · rcases Message.kick_cases clock { m with reports := m.reports ++ [r] } with e | ⟨_, _, _, _, e⟩ | ⟨_, _, _, _, _, hrs, e⟩ <;> rw [e]
    · simp
    · simp
    · have := congrArg List.length hrs
      simp at this
      simp
      omega

theorem post_reportsDue (r : Report) (s : State) : (post r s).reportsDue ≤ s.reportsDue + 1 := by
  have hlength := Message.post_length s.time.clock r s.msg
  have hmsg : (post r s).msg = s.msg.post s.time.clock r := rfl
  have hing : (post r s).ing = s.ing := by simp
  unfold State.reportsDue
  rw [hmsg, hing]
  omega

theorem reportsDue_of_same {s t : State} (hmsg : t.msg = s.msg) (hing : t.ing.pairing = s.ing.pairing) :
    t.reportsDue = s.reportsDue := by
  rw [State.reportsDue, hmsg, hing, State.reportsDue]

theorem settlePairing_reportsDue (o : PairingOutcome) (e p n : Option Nat) (s : State) :
    (settlePairing o e p n s).reportsDue ≤ s.reportsDue := by
  unfold settlePairing
  split
  · exact le_rfl
  · next pr hp =>
    dsimp only
    have hdue : s.reportsDue = s.msg.reports.length + 1 := by rw [State.reportsDue, hp]; rfl
    have hgone : ∀ u : State, u.msg = s.msg → u.ing.pairing = none → u.reportsDue + 1 = s.reportsDue := fun u hm hpair => by
      rw [hdue, State.reportsDue, hm, hpair]
      rfl
    split
    · refine (post_reportsDue _ _).trans (hgone _ ?_ ?_).le <;> simp
    · refine (Nat.le_succ _).trans (hgone _ ?_ ?_).le <;> simp

theorem fileRecord_reportsDue (g : LegId) (long cut : Bool) (time : Nat) (s : State) :
    (fileRecord g long cut time s).reportsDue ≤ s.reportsDue + 1 := by
  unfold fileRecord
  split
  · exact Nat.le_succ _
  · dsimp only
    split
    · refine le_of_eq_of_le ?_ (Nat.le_succ s.reportsDue)
      unfold State.reportsDue
      cases hp : s.ing.pairing <;> simp [hp]
    · refine (post_reportsDue _ _).trans (Nat.add_le_add_right (reportsDue_of_same ?_ ?_).le 1) <;> simp

theorem closeRecord_reportsDue (g : LegId) (long cut : Bool) (time : Nat) (s : State) :
    (closeRecord g long cut time s).reportsDue ≤ s.reportsDue + 1 := by
  have hwithdraw : (withdrawAtClose g s).reportsDue ≤ s.reportsDue := by
    unfold withdrawAtClose
    split
    · exact le_rfl
    · split
      · exact settlePairing_reportsDue _ _ _ _ (s.setCap _)
      · exact le_rfl
  exact (fileRecord_reportsDue g long cut time _).trans (Nat.add_le_add_right hwithdraw 1)

theorem forceQuiet_reportsDue (g : LegId) (s : State) : (forceQuiet g s).reportsDue ≤ s.reportsDue + 1 := by
  have hquiet : ∀ u : State, (closeIfQuiet g u).reportsDue ≤ u.reportsDue + 1 := fun u => by
    unfold closeIfQuiet
    split
    · exact Nat.le_succ _
    · exact closeRecord_reportsDue g false false _ u
  exact hquiet _

theorem choose_reportsDue (s : State) : (choose s).reportsDue = s.reportsDue :=
  have hpairing : (choose s).monitor.pairing = s.monitor.pairing := by rw [choose_monitor]
  reportsDue_of_same (by simp) hpairing


theorem reported_of_room {s : State} (r : Report) (hroom : s.msg.reports.length < 32) : Reported (post r s) r := by
  have hpost : (post r s).msg = Message.kick s.time.clock { s.msg with reports := s.msg.reports ++ [r] } :=
    (s.msg.post_cases s.time.clock r).resolve_left (fun h => absurd h.1 (Nat.not_le.mpr hroom)) |>.2
  rw [Reported, hpost]
  exact reported_kick (.inl (by simp)) _

/-- With room for it and for the BURST_END reports of the close, the news of a closing window is reported (R31). -/
theorem informClosing_reported (r : Report) {s : State} (hroom : s.msg.reports.length + 7 ≤ 32) :
    Reported (informClosing r s) r := by
  unfold informClosing
  split
  · exact (PostsOnly.choose _).reported (reported_of_room r (by omega))
  · have hdue : s.reportsDue ≤ s.msg.reports.length + 1 := by
      unfold State.reportsDue
      cases s.ing.pairing <;> simp
    refine together_reaches_room (count := State.reportsDue) (c := 32) (f := post r) (fun _ _ h => h) (fun _ _ => rfl)
      (fun t ht => reported_of_room r (Nat.lt_of_le_of_lt (Nat.le_add_right _ _) ht)) _ _ (by simp)
      (closingBlocks_forall (fun t h => (PostsOnly.post _ t).reported h) (fun t h => (PostsOnly.choose t).reported h)
        fun g t h => (PostsOnly.forceQuiet g t).reported h)
      (closingBlocks_forall (post_reportsDue r) (fun t => (choose_reportsDue t).trans_le (Nat.le_succ _))
        fun g t => forceQuiet_reportsDue g t) ?_
    have hlegs : (quietBlocks s).flatten.length ≤ 4 := by
      have hflat : ∀ gs : List LegId, (gs.map fun g => [forceQuiet g]).flatten.length = gs.length := fun gs => by
        induction gs with
        | nil => rfl
        | cons g gs ih => simp [ih]
      rw [quietBlocks, hflat]
      exact (List.length_filter_le ..).trans_eq rfl
    simp only [List.flatten_cons, List.length_append, List.length_singleton]
    omega

/-! ### WINDOW_CLOSE and WINDOW_REVOKE (R27 to R29) -/

theorem exec_windowClose {s : State} (hs : s.inReset = false) {w : Window} (hw : s.openWindow = some w) :
    exec .windowClose s = .next (windowShut w s) := by
  show execWindowClose s = _
  rw [execWindowClose, State.live, hs, hw]
  rfl

/-- Once its only OPEN window has left the table, none is OPEN (R22). -/
theorem WindowInv.openWindow_left {s : State} (h : WindowInv s) {w : Window} (hw : s.openWindow = some w) :
    (s.setTable (s.win.table.filter fun x => x.id != w.id)).openWindow = none := by
  refine (State.openWindow_eq_none _).mpr fun x hx ho => ?_
  obtain ⟨hx, hid⟩ := List.mem_filter.mp hx
  rw [h.openWindow_unique hw hx ho] at hid
  simp at hid

theorem windowShut_grants (w : Window) (s : State) : (windowShut w s).grants =
    (s.setTable (closedTable w.stop (s.win.table.filter fun x => x.id != w.id))).grants :=
  (informClosing_grants _ _).trans (grants_of_win (by simp [windowLeft]))

theorem closedTable_ids (stop : Nat) (table : List Window) : (closedTable stop table).map (·.id) = table.map (·.id) := by
  unfold closedTable
  split
  · split <;> rfl
  · rfl

/-- After a close the OPEN window, if there is one, is the adjacent window at the head of the table (R27). -/
theorem openWindow_closedTable {s : State} {stop : Nat} {table : List Window} (hnone : (s.setTable table).openWindow = none) :
    (s.setTable (closedTable stop table)).openWindow = (table.head?.filter fun x => x.start == stop).map Window.opens := by
  rw [State.openWindow_eq_none] at hnone
  cases table with
  | nil => rfl
  | cons x rest =>
    by_cases hx : x.start = stop
    · simp [closedTable, hx, State.openWindow, Window.opens]
    · have hfind : (x :: rest).find? (fun w => w.state == .opened) = none := by simpa using hnone
      rw [closedTable, if_neg hx, List.head?_cons, Option.filter_some, if_neg (by simpa using hx)]
      exact hfind

theorem filter_other (id : Nat) (table : List Window) :
    (table.filter fun x => decide (x.id ≠ id)) = table.filter fun x => x.id != id :=
  List.filter_congr fun x _ => Bool.eq_iff_iff.mpr (by simp)

/-- Settles O19: the table after the close, and the news of it. -/
theorem windowClosesAtItsEnd : Obligations.WindowClosesAtItsEnd := by
  unfold Obligations.WindowClosesAtItsEnd
  intro w s hs hinv _ hw hstop hroom
  have hopen := openWindow_closedTable (stop := w.stop) (hinv.openWindow_left hw)
  have hgrants := windowShut_grants w s
  rw [filter_other]
  refine ⟨_, exec_windowClose hs hw, ?_, ?_, fun x hx => ?_, fun x hx hadjacent => ?_, ?_, ?_, ?_, ?_, ?_, ?_, ?_⟩
  · rw [← Time.reachTimebase_timebase hstop]
    simp [windowShut, windowLeft]
  · exact (table_map_of_grants hgrants fun _ => rfl).trans (closedTable_ids _ _)
  · obtain ⟨y, hy, hbare⟩ := openWindow_eq_some_of_grants hgrants.symm hx
    rw [hopen] at hy
    obtain ⟨z, hz, rfl⟩ := Option.map_eq_some_iff.mp hy
    rw [Option.filter_eq_some_iff] at hz
    have hstart : z.opens.bare.start = x.bare.start := by rw [hbare]
    exact hstart.symm.trans (show z.start = w.stop by simpa using hz.2)
  · have hsome : (s.setTable (closedTable w.stop (s.win.table.filter fun x => x.id != w.id))).openWindow = some x.opens := by
      rw [hopen, hx]
      simp [hadjacent]
    obtain ⟨y, hy, hbare⟩ := openWindow_eq_some_of_grants hgrants hsome
    have hid : y.bare.id = x.opens.bare.id := by rw [hbare]
    exact ⟨y, hy, hid⟩
  · rw [← Time.reachTimebase_timebase hstop]
    exact informClosing_reported _ (s := windowLeft w s) (by simpa [windowLeft] using hroom)
  all_goals simp [windowShut, windowLeft]

/-- The blocks that hear of a closing window leave a table in which none is OPEN (R22). -/
theorem informClosing_win {s : State} (hnone : s.openWindow = none) (r : Report) : (informClosing r s).win = s.win := by
  have hstep : ∀ {t u : State}, t.win = s.win → u.win = t.win → u.win = s.win := fun h h' => h'.trans h
  have hchoose : ∀ t : State, t.win = s.win → (choose t).win = s.win := fun t h =>
    (choose_win_closed (by rw [State.openWindow, h]; exact hnone)).trans h
  unfold informClosing
  split
  · exact hchoose _ (by simp)
  · exact together_keeps (P := fun t => t.win = s.win) (fun _ _ h => h) _ _
      (closingBlocks_forall (fun t h => hstep h (by simp)) hchoose fun g t h => hstep h (by simp)) rfl

/-- The state as a WINDOW_REVOKE of the OPEN window leaves it, before the blocks hear of it (R28, R29). -/
def windowRevoked (w : Window) (s : State) : State :=
  judgeGate (judgeRevoked w.id (s.setTable (s.win.table.filter fun x => x.id != w.id)))

theorem serveWindowRevoke_pending {p : List Byte} {s : State} {w : Window}
    (hw : s.win.table.find? (fun x => x.id == field p 0 1) = some w) (hstate : w.state = .pending) :
    serveWindowRevoke p s = (s.setTable (s.win.table.filter fun x => x.id != w.id), okReply [0]) := by
  rw [serveWindowRevoke, hw]
  dsimp only
  rw [hstate]
  rfl

theorem serveWindowRevoke_opened {p : List Byte} {s : State} {w : Window}
    (hw : s.win.table.find? (fun x => x.id == field p 0 1) = some w) (hstate : w.state = .opened) :
    serveWindowRevoke p s = (informClosing (windowClosed w s.time.timebase true) (windowRevoked w s), okReply [1]) := by
  rw [serveWindowRevoke, hw]
  dsimp only
  rw [hstate]
  rfl

/-- A window of the table found by its id is the OPEN window if it is OPEN (R22). -/
theorem WindowInv.openWindow_of_find {s : State} (h : WindowInv s) {q : Window → Bool} {w : Window}
    (hw : s.win.table.find? q = some w) (hstate : w.state = .opened) : s.openWindow = some w :=
  h.openWindow_of_mem (List.mem_of_find?_eq_some hw) hstate

/-- Settles O17: the record leaves the table, and the close of an OPEN window is heard of by the other blocks. -/
theorem windowRevokeRemoves : Obligations.WindowRevokeRemoves := by
  unfold Obligations.WindowRevokeRemoves
  intro n id tag s h
  have hfield : field [id] 0 1 = id.toNat := by simp [field, unle]
  refine ⟨fun hnone => ?_, fun w hw => ⟨fun hpending => ?_, fun hopened hinv hroom => ?_⟩⟩
  · refine requestArrives_unchanged h rfl rfl ?_
    show serveWindowRevoke [id] (s.after n).holding = _
    rw [serveWindowRevoke, hfield, show (s.after n).holding.win = s.win from rfl, hnone]
    rfl
  · rw [filter_other]
    refine requestArrives_served h rfl rfl (f := ⟨9, tag, [id]⟩) (t := (s.after n).holding.setTable _) ?_ rfl rfl
    exact serveWindowRevoke_pending (hfield.symm ▸ hw) hpending
  · have hserve := serveWindowRevoke_opened (s := (s.after n).holding) (p := [id]) (hfield.symm ▸ hw) hopened
    have hslot := (PostsOnly.serveWindowRevoke [id] (s.after n).holding).slot (held_of_ready (h.after n))
    rw [hserve] at hslot
    obtain ⟨t, ht, hans⟩ := exec_answers (c := .windowRevoke n tag [id]) h rfl rfl rfl hserve hslot
    obtain ⟨-, -, htime, hwin, hplan, hlegs, -, -, -, -, -, hdiv, harith, hmap, hstray, -⟩ := hans.frame
    have hnone : (windowRevoked w (s.after n).holding).openWindow = none := by
      have hleft := hinv.openWindow_left (hinv.openWindow_of_find hw hopened)
      have hkept : (windowRevoked w (s.after n).holding).win = (s.setTable (s.win.table.filter fun x => x.id != w.id)).win := by
        simp [windowRevoked, State.holding]
      rw [State.openWindow, hkept]
      exact hleft
    rw [informClosing_win hnone] at hwin
    have hroom' : (windowRevoked w (s.after n).holding).msg.reports.length + 7 ≤ 32 := by simpa [windowRevoked, State.holding] using hroom
    have hreported := hans.reported (informClosing_reported _ hroom')
    rw [filter_other]
    refine ⟨t, ht, ?_, ?_, hans.answered, ?_, ?_, ?_, ?_, ?_, ?_, ?_, hreported⟩
    · rw [hwin]
      simp [windowRevoked, State.holding, State.setTable]
    · rw [State.openWindow, hwin]
      exact hnone
    all_goals simp [htime, hplan, hlegs, hdiv, harith, hmap, hstray, windowRevoked, State.holding]

end Sys2Proof.Machine
end

section
/-! PROOFS. The choice of what is captured next, and the burst records as they open and close (R56, R84, R185 to R190, R195). -/

namespace Sys2Proof.Machine

open Sys2Proof

/-! ### The choice (R56, R84) -/

section
variable {s : State}

/-- With a half FILLING, or none FREE, nothing starts (R84). -/
theorem choose_blocked (h : s.cap.inState .filling ≠ none ∨ s.cap.inState .free = none) : choose s = s := by
  unfold choose
  rcases h with hfilling | hfree
  · obtain ⟨k, hk⟩ := Option.ne_none_iff_exists'.mp hfilling
    rw [hk]
  · split
    · rfl
    · rw [hfree]

/-- No acquisition starts beside one in flight, or with no record eligible (R56). -/
theorem noStart (hnot : s.seq.inFlight ≠ none ∨ chosen s = none) : (if s.seq.inFlight.isNone then chosen s else none) = none := by
  rcases hnot with hfly | hnone
  · rw [if_neg (by simpa using hfly)]
  · rw [hnone, ite_self]

variable {h : HalfId} (hfilling : s.cap.inState .filling = none) (hfree : s.cap.inState .free = some h)
include hfilling hfree

/-- The oldest eligible record starts (R56). -/
theorem choose_starts (hnone : s.seq.inFlight = none) {w : Sweep} (hw : chosen s = some w) : choose s = startAcquisition h w s := by
  simp [choose, hfilling, hfree, hnone, hw]

/-- A waiting snapshot starts when no acquisition does (R84). -/
theorem choose_snapshot (hnot : s.seq.inFlight ≠ none ∨ chosen s = none) {g : LegId} (hg : s.cap.waiting = some g) :
    choose s = startSnapshot h g s := by
  simp only [choose, hfilling, hfree, noStart hnot, hg]

/-- With nothing to start, nothing happens (R84). -/
theorem choose_nothing (hnot : s.seq.inFlight ≠ none ∨ chosen s = none) (hwait : s.cap.waiting = none) : choose s = s := by
  simp only [choose, hfilling, hfree, noStart hnot, hwait]

end

theorem chosen_eq_none {s : State} : chosen s = none ↔ ∀ w ∈ s.seq.queue, ¬ MayStart s w := by
  rw [chosen, List.find?_eq_none]
  exact forall₂_congr fun w _ => not_congr (eligible_iff s w)

/-- Whether a record may start is told by the legs, the plan, the windows and the time (R56). -/
theorem mayStart_congr {s t : State} (hlegs : t.legs = s.legs) (hplan : t.plan = s.plan) (hwin : t.win = s.win)
    (htime : t.time = s.time) (w : Sweep) : MayStart t w ↔ MayStart s w := by
  unfold MayStart State.admissible State.windowFree State.openWindow State.legSettings State.leg
  rw [hlegs, hplan, hwin, htime]

/-- The oldest record that may start is the one before which none may (R56). -/
theorem chosen_eq_some {s : State} {before after : List Sweep} {w : Sweep} (hq : s.seq.queue = before ++ w :: after)
    (hbefore : ∀ v ∈ before, ¬ MayStart s v) (hw : MayStart s w) : chosen s = some w := by
  have hnone : before.find? (eligible s) = none :=
    List.find?_eq_none.mpr fun v hv => (not_congr (eligible_iff s v)).mpr (hbefore v hv)
  rw [chosen, hq, List.find?_append, hnone, Option.none_or, List.find?_cons_of_pos ((eligible_iff s w).mpr hw)]

/-- What the grant of a snapshot writes (R82, R84). -/
theorem startSnapshot_writes (h : HalfId) (g : LegId) (s : State) :
    (startSnapshot h g s).cap.waiting = none ∧ (startSnapshot h g s).cap.stream = .snapshot ∧
      (startSnapshot h g s).cap.coupler = some g ∧ (startSnapshot h g s).cap.snapStart = s.time.clock ∧
      (startSnapshot h g s).cap.position = 0 ∧ (startSnapshot h g s).cap.sampling = none ∧
      ((startSnapshot h g s).cap.half h).state = .filling ∧
      ((startSnapshot h g s).cap.half h).owner = some (.snapshot g (s.legSettings g).profileBins) ∧
      (startSnapshot h g s).probe = { s.probe with carrier := some (s.legSettings g).carrier } := by
  have hhalf : (startSnapshot h g s).cap.half h = (s.cap.half h).grant (.snapshot g (s.legSettings g).profileBins) := by
    cases h <;> rfl
  rw [hhalf]
  exact ⟨rfl, rfl, rfl, rfl, rfl, rfl, rfl, rfl, rfl⟩

/-! ### A record closes (R187 to R190) -/

/-- A record as it stands in the log. -/
def BurstRecord.shut (long cut : Bool) (time : Nat) (r : BurstRecord) : BurstRecord :=
  { r with endTime := some time, long := long, cut := cut }

theorem pairingOf_eq_true {s : State} {r : BurstRecord} {p : Pairing} (hp : s.ing.pairing = some p) (hr : p.serial = r.serial) :
    pairingOf s r = true := by
  rw [pairingOf, hp]
  exact beq_iff_eq.mpr hr

theorem pairingOf_eq_false {s : State} {r : BurstRecord} (h : ∀ p, s.ing.pairing = some p → p.serial ≠ r.serial) :
    pairingOf s r = false := by
  unfold pairingOf
  split
  · next p hp => exact beq_eq_false_iff_ne.mpr (h p hp)
  · rfl

section
variable {s : State} {g : LegId} {r : BurstRecord} (hr : (s.ingLeg g).record = some r) (long cut : Bool) (time : Nat)
include hr

/-- A record joins the log, the discards counted (R189). -/
theorem fileRecord_log : (fileRecord g long cut time s).ing.log = loggedWith s.ing.log (r.shut long cut time) ∧
    (fileRecord g long cut time s).ing.discards =
      (if 128 ≤ s.ing.log.length then min 65535 (s.ing.discards + 1) else s.ing.discards) := by
  have hlog : ∀ (x : BurstRecord) (u : State), (logRecord x u).ing.log = loggedWith u.ing.log x ∧
      (logRecord x u).ing.discards = (if 128 ≤ u.ing.log.length then min 65535 (u.ing.discards + 1) else u.ing.discards) := by
    intro x u
    unfold logRecord loggedWith
    split <;> exact ⟨rfl, rfl⟩
  have h := hlog (r.shut long cut time) (s.setIngLeg g { s.ingLeg g with record := none })
  unfold fileRecord
  rw [hr]
  dsimp only
  split
  · exact h
  · have hpost : ∀ (x : Report) (u : State), (post x u).ing = u.ing := fun x u => rfl
    rw [hpost]
    exact h

/-- The leg has no record any more; the other legs are as they were. -/
theorem fileRecord_legs (i : LegId) : (fileRecord g long cut time s).ingLeg i =
    if i = g then { s.ingLeg g with record := none } else s.ingLeg i := by
  have hlog : ∀ x : BurstRecord, (logRecord x (s.setIngLeg g { s.ingLeg g with record := none })).ingLeg i =
      if i = g then { s.ingLeg g with record := none } else s.ingLeg i := fun x => by
    rw [logRecord_ingLeg, State.setIngLeg_ingLeg]
  unfold fileRecord
  rw [hr]
  dsimp only
  split
  · exact hlog _
  · rw [post_ingLeg]
    exact hlog _

/-- A pairing that still runs keeps the closed record, to report it when it settles (R190). -/
theorem fileRecord_paired (hp : pairingOf s r = true) :
    (fileRecord g long cut time s).ing.pairing = s.ing.pairing.map (fun p => { p with closed := some (r.shut long cut time) }) ∧
      (fileRecord g long cut time s).msg = s.msg := by
  unfold fileRecord
  rw [hr]
  dsimp only
  rw [hp, if_pos rfl]
  simp [BurstRecord.shut]

/-- Without a pairing that runs, BURST_END is posted (R190). -/
theorem fileRecord_unpaired (hp : pairingOf s r = false) : (fileRecord g long cut time s).ing.pairing = s.ing.pairing ∧
    (fileRecord g long cut time s).msg = s.msg.post s.time.clock (.burstEnd (r.shut long cut time)) := by
  unfold fileRecord
  rw [hr]
  dsimp only
  rw [hp, if_neg Bool.false_ne_true]
  simp [BurstRecord.shut, post]

end

theorem fileRecord_absent {s : State} {g : LegId} (h : (s.ingLeg g).record = none) (long cut : Bool) (time : Nat) :
    fileRecord g long cut time s = s := by
  rw [fileRecord, h]

/-- Without a waiting snapshot of the record, its close withdraws none (R86). -/
theorem withdrawAtClose_stays {s : State} {g : LegId} (h : ∀ r, (s.ingLeg g).record = some r → pairingOf s r = true →
    s.cap.waiting = none) : withdrawAtClose g s = s := by
  unfold withdrawAtClose
  split
  · rfl
  · next r hr =>
    split
    · next hwait =>
      obtain ⟨hp, hsome⟩ := Bool.and_eq_true_iff.mp hwait
      rw [h r hr hp] at hsome
      cases hsome
    · rfl

/-- The waiting snapshot of a record that closes is withdrawn, and its pairing settles (R86). -/
theorem withdrawAtClose_withdraws {s : State} {g : LegId} {r : BurstRecord} (hr : (s.ingLeg g).record = some r)
    (hp : pairingOf s r = true) (hwait : s.cap.waiting ≠ none) :
    withdrawAtClose g s = settlePairing .captureBusy none none none (s.setCap { s.cap with waiting := none }) := by
  rw [withdrawAtClose, hr]
  dsimp only
  rw [hp, Option.isSome_iff_ne_none.mpr hwait]
  rfl

/-! ### A pairing settles (R195) -/

/-- The records after a pairing has settled: the open record of its own leg and number has the outcome (R195). -/
theorem settlePairing_record {s : State} {p : Pairing} (hp : s.ing.pairing = some p) (o : PairingOutcome)
    (e n m : Option Nat) (i : LegId) : ((settlePairing o e n m s).ingLeg i).record =
      if p.closed = none ∧ i = p.leg then
        (s.ingLeg i).record.map fun r => if r.serial = p.serial then r.settled o e n m else r
      else (s.ingLeg i).record := by
  unfold settlePairing
  rw [hp]
  dsimp only
  cases hclosed : p.closed with
  | some r =>
    rw [if_neg (fun h => by cases h.1)]
    rfl
  | none =>
    rw [State.setIngLeg_ingLeg]
    by_cases hi : i = p.leg
    · rw [if_pos hi, if_pos ⟨rfl, hi⟩, hi]
      rfl
    · rw [if_neg hi, if_neg (fun h => hi h.2)]
      rfl

/-- A pairing that settles leaves the number of log entries and the discards. -/
theorem settlePairing_counts (o : PairingOutcome) (e n m : Option Nat) (s : State) :
    (settlePairing o e n m s).ing.log.length = s.ing.log.length ∧ (settlePairing o e n m s).ing.discards = s.ing.discards := by
  unfold settlePairing
  split
  · exact ⟨rfl, rfl⟩
  · dsimp only
    split
    · exact ⟨List.length_map .., rfl⟩
    · exact ⟨rfl, rfl⟩

section
variable {s : State} {g : LegId} {r : BurstRecord} (hr : (s.ingLeg g).record = some r) (long cut : Bool) (time : Nat)
include hr

/-- At the close of a record a record still stands open for the log (R188, R189). -/
theorem withdrawAtClose_record : ∃ r', ((withdrawAtClose g s).ingLeg g).record = some r' ∧
    (withdrawAtClose g s).ing.log.length = s.ing.log.length ∧ (withdrawAtClose g s).ing.discards = s.ing.discards := by
  rw [withdrawAtClose, hr]
  dsimp only
  split
  · next hwait =>
    obtain ⟨hlength, hdiscards⟩ := settlePairing_counts .captureBusy none none none (s.setCap { s.cap with waiting := none })
    obtain ⟨p, hp⟩ : ∃ p, (s.setCap { s.cap with waiting := none }).ing.pairing = some p := by
      refine Option.ne_none_iff_exists'.mp fun hnone => ?_
      rw [pairingOf, show s.ing.pairing = none from hnone] at hwait
      cases hwait
    have hrecord := settlePairing_record hp .captureBusy none none none g
    rw [show ((s.setCap { s.cap with waiting := none }).ingLeg g).record = some r from hr] at hrecord
    split at hrecord
    · exact ⟨_, hrecord, hlength, hdiscards⟩
    · exact ⟨r, hrecord, hlength, hdiscards⟩
  · exact ⟨r, hr, rfl, rfl⟩

theorem closeRecord_closed : ((closeRecord g long cut time s).ingLeg g).record = none ∧
    (closeRecord g long cut time s).ing.discards =
      (if 128 ≤ s.ing.log.length then min 65535 (s.ing.discards + 1) else s.ing.discards) := by
  obtain ⟨r', hr', hlength, hdiscards⟩ := withdrawAtClose_record hr
  unfold closeRecord
  rw [fileRecord_legs hr', if_pos rfl, (fileRecord_log hr' long cut time).2, hlength, hdiscards]
  exact ⟨rfl, rfl⟩

/-- A record without a pairing that runs goes to the log and is reported (R189, R190). -/
theorem closeRecord_unpaired (hp : ∀ p, s.ing.pairing = some p → p.serial ≠ r.serial) :
    (closeRecord g long cut time s).ing.log = loggedWith s.ing.log (r.shut long cut time) ∧
      (closeRecord g long cut time s).ing.pairing = s.ing.pairing ∧ (closeRecord g long cut time s).cap = s.cap ∧
      (closeRecord g long cut time s).prof = s.prof ∧
      (closeRecord g long cut time s).msg = s.msg.post s.time.clock (.burstEnd (r.shut long cut time)) := by
  have hno := pairingOf_eq_false hp
  have hstays : withdrawAtClose g s = s := withdrawAtClose_stays fun r' hr' h => by
    obtain rfl := Option.some.inj (hr.symm.trans hr')
    rw [hno] at h
    cases h
  obtain ⟨hpairing, hmsg⟩ := fileRecord_unpaired hr long cut time hno
  unfold closeRecord
  rw [hstays]
  exact ⟨(fileRecord_log hr long cut time).1, hpairing, by simp, by simp, hmsg⟩

variable {p : Pairing} (hp : s.ing.pairing = some p) (hserial : p.serial = r.serial)
include hp hserial

/-- A record whose snapshot has started goes to the log, and its pairing keeps it for the report (R189, R190). -/
theorem closeRecord_paired (hwait : s.cap.waiting = none) :
    (closeRecord g long cut time s).ing.log = loggedWith s.ing.log (r.shut long cut time) ∧
      (closeRecord g long cut time s).ing.pairing = some { p with closed := some (r.shut long cut time) } ∧
      (closeRecord g long cut time s).cap = s.cap ∧ (closeRecord g long cut time s).prof = s.prof ∧
      (closeRecord g long cut time s).msg = s.msg := by
  have hstays : withdrawAtClose g s = s := withdrawAtClose_stays fun _ _ _ => hwait
  obtain ⟨hpairing, hmsg⟩ := fileRecord_paired hr long cut time (pairingOf_eq_true hp hserial)
  rw [hp] at hpairing
  unfold closeRecord
  rw [hstays]
  exact ⟨(fileRecord_log hr long cut time).1, hpairing, by simp, by simp, hmsg⟩

/-- A record whose snapshot still waits: the snapshot is withdrawn, and the pairing settles CAPTURE_BUSY (R86). -/
theorem closeRecord_withdrawn (hwait : s.cap.waiting ≠ none) (hleg : p.leg = g) (hclosed : p.closed = none) :
    (closeRecord g long cut time s).ing.log =
        loggedWith s.ing.log ((r.settled .captureBusy none none none).shut long cut time) ∧
      (closeRecord g long cut time s).ing.pairing = none ∧
      (closeRecord g long cut time s).cap = { s.cap with waiting := none } ∧
      (closeRecord g long cut time s).prof.lag = ⟨.free, none, none, none⟩ ∧
      (closeRecord g long cut time s).msg =
        s.msg.post s.time.clock (.burstEnd ((r.settled .captureBusy none none none).shut long cut time)) := by
  have hw := withdrawAtClose_withdraws hr (pairingOf_eq_true hp hserial) hwait
  generalize hu : s.setCap { s.cap with waiting := none } = u at hw
  have hup : u.ing.pairing = some p := by rw [← hu]; exact hp
  have hurecord : (u.ingLeg g).record = some r := by rw [← hu]; exact hr
  obtain ⟨hnone, hlag, hopen, -⟩ := settlePairing_settled hup .captureBusy none none none
  obtain ⟨hmsg, hlog, hrecord⟩ := hopen hclosed
  have hjudged := hrecord r (by rw [hleg]; exact hurecord) hserial.symm
  rw [hleg] at hjudged
  generalize hv : settlePairing .captureBusy none none none u = v at *
  obtain ⟨hpairing, hreported⟩ := fileRecord_unpaired (s := v) hjudged long cut time
    (pairingOf_eq_false fun q hq => by rw [hnone] at hq; cases hq)
  have hfiled := (fileRecord_log (s := v) hjudged long cut time).1
  have hcap : v.cap = { s.cap with waiting := none } := by rw [← hv, ← hu]; simp
  have htime : v.time = s.time := by rw [← hv, ← hu]; simp
  have hsame : v.msg = s.msg ∧ v.ing.log = s.ing.log := by rw [hmsg, hlog, ← hu]; exact ⟨rfl, rfl⟩
  unfold closeRecord
  rw [hw, hfiled, hpairing, hreported, htime, hsame.1, hsame.2]
  refine ⟨rfl, hnone, ?_, ?_, rfl⟩
  · simpa using hcap
  · simpa using hlag

end

/-! ### A record opens (R185, R195) -/

theorem putRecord_record (g : LegId) (r : BurstRecord) (o : PairingOutcome) (s : State) :
    ((putRecord g r o s).ingLeg g).record = some { r with serial := s.ing.serial, outcome := o } := by
  rw [putRecord, State.setIngLeg_ingLeg, if_pos rfl]

/-- What is asked for a record whose pairing runs, before the grant decision (R195). -/
theorem snapshotAsked_asks (g : LegId) (r : BurstRecord) (s : State) :
    (snapshotAsked g r s).ing.pairing = some ⟨g, s.ing.serial, none, none⟩ ∧
      (snapshotAsked g r s).ing.serial = s.ing.serial + 1 ∧ (snapshotAsked g r s).ing.log = s.ing.log ∧
      ((snapshotAsked g r s).ingLeg g).record = some { r with serial := s.ing.serial, outcome := .pending } ∧
      (snapshotAsked g r s).prof.lag = ⟨.capturing, some g, some (s.legSettings g).profileBins, none⟩ ∧
      (snapshotAsked g r s).cap = { s.cap with waiting := some g } :=
  ⟨rfl, rfl, rfl, putRecord_record g r .pending s, rfl, rfl⟩

/-! ### What a choice leaves of the monitor and the lag slot -/

theorem unmarked_of_monitor {s t : State} (h : t.monitor = s.monitor) (g : LegId) :
    (t.ingLeg g).unmarked = (s.ingLeg g).unmarked := by
  rw [← monitor_legs, h, monitor_legs]

theorem record_of_monitor {s t : State} (h : t.monitor = s.monitor) (g : LegId) : (t.ingLeg g).record = (s.ingLeg g).record := by
  have hrecord : (t.ingLeg g).unmarked.record = (s.ingLeg g).unmarked.record := by rw [unmarked_of_monitor h]
  exact hrecord

theorem log_of_monitor {s t : State} (h : t.monitor = s.monitor) : t.ing.log = s.ing.log ∧ t.ing.discards = s.ing.discards ∧
    t.ing.pairing = s.ing.pairing ∧ t.ing.serial = s.ing.serial := by
  have hlog : t.monitor.log = s.monitor.log ∧ t.monitor.discards = s.monitor.discards ∧
    t.monitor.pairing = s.monitor.pairing ∧ t.monitor.serial = s.monitor.serial := by rw [h]; exact ⟨rfl, rfl, rfl, rfl⟩
  exact hlog

@[simp] theorem choose_lag (s : State) : (choose s).prof.lag = s.prof.lag := by
  unfold choose
  split
  · rfl
  · split
    · rfl
    · split
      · rw [startAcquisition_prof]; rfl
      · split
        · simp
        · rfl

/-! ### The obligation on records -/

/-- The outcome that the rows of R195 decide for a record that opens. -/
def openingOutcome (s : State) (g : LegId) : PairingOutcome :=
  if (s.ingLeg g).settings.pairing = false then .off
  else if s.anchor g = none then .noAnchor
  else if s.prof.lag.state ≠ .free then .slotBusy
  else .pending

theorem openRecord_decided {g : LegId} {s : State} (h : openingOutcome s g ≠ .pending) (r : BurstRecord) :
    openRecord g r s = putRecord g r (openingOutcome s g) s := by
  rw [openRecord_eq]
  revert h
  unfold openingOutcome
  cases (s.ingLeg g).settings.pairing <;> cases s.anchor g <;> by_cases hlag : s.prof.lag.state = .free <;> simp [hlag]

theorem openRecord_pending {g : LegId} {s : State} (h : openingOutcome s g = .pending) (r : BurstRecord) :
    openRecord g r s = choose (snapshotAsked g r s) := by
  rw [openRecord_eq]
  revert h
  unfold openingOutcome
  cases (s.ingLeg g).settings.pairing <;> cases s.anchor g <;> by_cases hlag : s.prof.lag.state = .free <;> simp [hlag]

theorem openRecord_record (g : LegId) (r : BurstRecord) (s : State) : ((openRecord g r s).ingLeg g).record =
    some { r with serial := s.ing.serial, outcome := openingOutcome s g } ∧ (openRecord g r s).ing.serial = s.ing.serial + 1 ∧
      (openRecord g r s).ing.log = s.ing.log := by
  by_cases hpending : openingOutcome s g = .pending
  · obtain ⟨_, hserial, hlog, hrecord, _⟩ := snapshotAsked_asks g r s
    obtain ⟨hlog', _, _, hserial'⟩ := log_of_monitor (choose_monitor (snapshotAsked g r s))
    rw [openRecord_pending hpending, record_of_monitor (choose_monitor _), hrecord, hserial', hlog', hserial, hlog, hpending]
    exact ⟨rfl, rfl, rfl⟩
  · rw [openRecord_decided hpending, putRecord_record]
    exact ⟨rfl, rfl, rfl⟩

theorem chosen_snapshotAsked (g : LegId) (r : BurstRecord) {s : State} (h : ∀ w ∈ s.seq.queue, ¬ MayStart s w) :
    chosen (snapshotAsked g r s) = none := by
  refine chosen_eq_none.mpr fun w hw => ?_
  rw [(snapshotAsked_frame g r s).2.2.2.2.2.2.2.2.1] at hw
  rw [mayStart_congr (s := s) (by simp) (by simp) (by simp) (by simp)]
  exact h w hw

theorem Capture.inState_congr {c d : Capture} (h0 : c.half0 = d.half0) (h1 : c.half1 = d.half1) (st : HalfState) :
    c.inState st = d.inState st := by
  rw [Capture.inState, h0, h1, Capture.inState]

@[simp] theorem snapshotAsked_inState (g : LegId) (r : BurstRecord) (s : State) (st : HalfState) :
    (snapshotAsked g r s).cap.inState st = s.cap.inState st := by
  obtain ⟨_, _, _, _, _, hcap⟩ := snapshotAsked_asks g r s
  rw [hcap]
  exact Capture.inState_congr rfl rfl st

section
variable {g : LegId} {s : State} (hpending : openingOutcome s g = .pending) (r : BurstRecord)
include hpending

theorem openRecord_asks : (openRecord g r s).ing.pairing = some ⟨g, s.ing.serial, none, none⟩ ∧
    (openRecord g r s).prof.lag = ⟨.capturing, some g, some (s.legSettings g).profileBins, none⟩ := by
  obtain ⟨hpairing, _, _, _, hlag, _⟩ := snapshotAsked_asks g r s
  rw [openRecord_pending hpending, choose_lag, (log_of_monitor (choose_monitor _)).2.2.1]
  exact ⟨hpairing, hlag⟩

/-- With no half to grant the snapshot waits (R84). -/
theorem openRecord_waits (hblocked : s.cap.inState .filling ≠ none ∨ s.cap.inState .free = none) :
    (openRecord g r s).cap = { s.cap with waiting := some g } := by
  rw [openRecord_pending hpending, choose_blocked (by simpa using hblocked)]
  rfl

variable {h : HalfId} (hfilling : s.cap.inState .filling = none) (hfree : s.cap.inState .free = some h)
include hfilling hfree

/-- With a half to grant and no acquisition to start, the snapshot starts at once (R84). -/
theorem openRecord_starts (hnot : s.seq.inFlight ≠ none ∨ ∀ w ∈ s.seq.queue, ¬ MayStart s w) :
    openRecord g r s = startSnapshot h g (snapshotAsked g r s) := by
  rw [openRecord_pending hpending]
  exact choose_snapshot (by simpa using hfilling) (by simpa using hfree)
    (hnot.imp (fun hfly => by simpa using hfly) (chosen_snapshotAsked g r)) rfl

/-- An acquisition that may start goes before the snapshot (R56). -/
theorem openRecord_yields (hnone : s.seq.inFlight = none) (hmay : ∃ w ∈ s.seq.queue, MayStart s w) :
    (openRecord g r s).cap.waiting = some g ∧ (openRecord g r s).cap.stream = .acquisition := by
  cases hw : chosen (snapshotAsked g r s) with
  | none =>
    obtain ⟨v, hv, hstart⟩ := hmay
    refine absurd ((mayStart_congr (t := snapshotAsked g r s) (s := s) ?_ ?_ ?_ ?_ v).mpr hstart)
      (chosen_eq_none.mp hw v ?_) <;> simp [hv]
  | some w =>
    have hstart := choose_starts (s := snapshotAsked g r s) (h := h) (by simpa using hfilling) (by simpa using hfree)
      (by simpa using hnone) hw
    rw [openRecord_pending hpending, hstart, startAcquisition_cap]
    refine ⟨?_, rfl⟩
    rw [(Capture.setHalf_frame _ _ _).2.1]
    rfl

end

/-- Settles O52: the rows of R195 for a record that opens; the log and the pairing of one that closes. -/
theorem recordsOpenAndAreLogged : Obligations.RecordsOpenAndAreLogged := by
  unfold Obligations.RecordsOpenAndAreLogged
  refine ⟨fun g r s => ?_, fun g r long cut time s hr => ?_⟩
  · obtain ⟨hrecord, hserial, hlog⟩ := openRecord_record g r s
    dsimp only
    rw [show (if (s.ingLeg g).settings.pairing = false then PairingOutcome.off
      else if s.anchor g = none then .noAnchor
      else if s.prof.lag.state ≠ .free then .slotBusy
      else .pending) = openingOutcome s g from rfl]
    refine ⟨hrecord, hserial, hlog, by simp, by simp, by simp, by simp, by simp, fun hdecided => ?_, fun hpending => ?_⟩
    · rw [openRecord_decided hdecided]
      exact ⟨rfl, rfl, rfl, rfl⟩
    · refine ⟨(openRecord_asks hpending r).1, (openRecord_asks hpending r).2, openRecord_waits hpending r,
        fun h hfilling hfree => ⟨fun hnot => ?_, openRecord_yields hpending r hfilling hfree⟩⟩
      rw [openRecord_starts hpending r hfilling hfree hnot]
      have hwrites := startSnapshot_writes h g (snapshotAsked g r s)
      have hsettings : (snapshotAsked g r s).legSettings g = s.legSettings g := by simp [State.legSettings, State.leg]
      rw [hsettings] at hwrites
      simpa using hwrites
  · obtain ⟨hrecord, hdiscards⟩ := closeRecord_closed hr long cut time
    exact ⟨hrecord, by simp, by simp, by simp, by simp, by simp, by simp, hdiscards, closeRecord_unpaired hr long cut time,
      fun p hp hserial => ⟨closeRecord_paired hr long cut time hp hserial, closeRecord_withdrawn hr long cut time hp hserial⟩⟩

end Sys2Proof.Machine
end

section
/-! PROOFS. TIME_SET (R20, R21, R31, R188). -/

namespace Sys2Proof.Machine

open Sys2Proof

/-! ### A record that its pairing does not touch, up to its place in the log -/

/-- A leg's open record, apart from whatever snapshot waits. -/
def OpenApart (g : LegId) (r : BurstRecord) (s : State) : Prop :=
  (s.ingLeg g).record = some r ∧ (s.cap.waiting = none ∨ ∀ p, s.ing.pairing = some p → p.serial ≠ r.serial)

/-- A record among the last `k + 1` of a log. -/
def NearEnd (k : Nat) (r : BurstRecord) (log : List BurstRecord) : Prop := ∃ before after, log = before ++ r :: after ∧ after.length ≤ k

theorem NearEnd.map {k : Nat} {r : BurstRecord} {log : List BurstRecord} (h : NearEnd k r log) {f : BurstRecord → BurstRecord}
    (hf : f r = r) : NearEnd k r (log.map f) := by
  obtain ⟨before, after, rfl, hlength⟩ := h
  exact ⟨before.map f, after.map f, by rw [List.map_append, List.map_cons, hf], (List.length_map f).trans_le hlength⟩

/-- A record among the last of the log, apart from whatever snapshot waits. -/
def LoggedApart (k : Nat) (r : BurstRecord) (s : State) : Prop :=
  NearEnd k r s.ing.log ∧
    (s.cap.waiting = none ∨ ∀ p, s.ing.pairing = some p → p.serial ≠ r.serial)

theorem loggedWith_last (log : List BurstRecord) (r : BurstRecord) : ∃ before, loggedWith log r = before ++ [r] := by
  unfold loggedWith
  split
  · exact ⟨_, rfl⟩
  · exact ⟨_, rfl⟩

/-- A record that is not the oldest of a full log stays in it when another joins. -/
theorem loggedWith_keeps {before after : List BurstRecord} {r : BurstRecord} (hk : after.length < 127) (x : BurstRecord) :
    ∃ before', loggedWith (before ++ r :: after) x = before' ++ r :: (after ++ [x]) := by
  unfold loggedWith
  split
  · next hfull =>
    cases before with
    | nil =>
      simp only [List.nil_append, List.length_cons] at hfull
      omega
    | cons b before => exact ⟨before, by simp⟩
  · exact ⟨before, by simp⟩

/-- What a close withdraws of a snapshot leaves a record apart from it as it is. -/
theorem OpenApart.withdraw {g : LegId} {r : BurstRecord} {s : State} (h : OpenApart g r s) (i : LegId) :
    OpenApart g r (withdrawAtClose i s) := by
  obtain ⟨hr, happ⟩ := h
  unfold withdrawAtClose
  split
  · exact ⟨hr, happ⟩
  · next x _ =>
    split
    · next hwait =>
      obtain ⟨hpair, hsome⟩ := Bool.and_eq_true_iff.mp hwait
      have happ := happ.resolve_left fun hnone => by rw [hnone] at hsome; cases hsome
      refine ⟨?_, .inl (by simp)⟩
      unfold pairingOf at hpair
      split at hpair
      · next p hp =>
        have hrecord := settlePairing_record (s := s.setCap { s.cap with waiting := none }) hp .captureBusy none none none g
        rw [show ((s.setCap { s.cap with waiting := none }).ingLeg g).record = some r from hr] at hrecord
        rw [hrecord]
        simp [Ne.symm (happ p hp)]
      · cases hpair
    · exact ⟨hr, happ⟩

/-- The numbers of the pairing are those it had when a record is filed. -/
theorem fileRecord_apart {serial : Nat} {s : State} (happ : s.cap.waiting = none ∨ ∀ p, s.ing.pairing = some p → p.serial ≠ serial)
    (i : LegId) (long cut : Bool) (time : Nat) : (fileRecord i long cut time s).cap.waiting = none ∨
      ∀ p, (fileRecord i long cut time s).ing.pairing = some p → p.serial ≠ serial := by
  have hcap : (fileRecord i long cut time s).cap = s.cap := by simp
  rw [hcap]
  refine happ.imp_right fun hne p hp => ?_
  cases hr : (s.ingLeg i).record with
  | none =>
    rw [fileRecord_absent hr] at hp
    exact hne p hp
  | some r =>
    cases hpair : pairingOf s r with
    | true =>
      rw [(fileRecord_paired hr long cut time hpair).1] at hp
      obtain ⟨q, hq, rfl⟩ := Option.map_eq_some_iff.mp hp
      exact hne q hq
    | false =>
      rw [(fileRecord_unpaired hr long cut time hpair).1] at hp
      exact hne p hp

section
variable {g : LegId} {r : BurstRecord} {s : State} (long cut : Bool) (time : Nat)

/-- Another leg's record filed leaves a leg's open record as it is. -/
theorem OpenApart.file_other (h : OpenApart g r s) {i : LegId} (hi : g ≠ i) : OpenApart g r (fileRecord i long cut time s) := by
  obtain ⟨hr, happ⟩ := h
  refine ⟨?_, fileRecord_apart happ i long cut time⟩
  cases hx : (s.ingLeg i).record with
  | none => rwa [fileRecord_absent hx]
  | some x => rwa [fileRecord_legs hx, if_neg hi]

/-- The record filed is at the end of the log. -/
theorem OpenApart.file (h : OpenApart g r s) : LoggedApart 0 (r.shut long cut time) (fileRecord g long cut time s) := by
  obtain ⟨hr, happ⟩ := h
  refine ⟨?_, fileRecord_apart (serial := (r.shut long cut time).serial) happ g long cut time⟩
  obtain ⟨before, hlast⟩ := loggedWith_last s.ing.log (r.shut long cut time)
  exact ⟨before, [], by rw [(fileRecord_log hr long cut time).1, hlast], le_rfl⟩

theorem OpenApart.close_other (h : OpenApart g r s) {i : LegId} (hi : g ≠ i) : OpenApart g r (closeRecord i long cut time s) :=
  (h.withdraw i).file_other long cut time hi

theorem OpenApart.close (h : OpenApart g r s) : LoggedApart 0 (r.shut long cut time) (closeRecord g long cut time s) :=
  (h.withdraw g).file long cut time

end

/-! ### A record whose snapshot waits (R86) -/

/-- A leg's open record whose pairing runs, its snapshot still waiting. -/
structure OpenWaiting (g : LegId) (p : Pairing) (r : BurstRecord) (s : State) : Prop where
  record  : (s.ingLeg g).record = some r
  pairing : s.ing.pairing = some p
  leg     : p.leg = g
  serial  : p.serial = r.serial
  closed  : p.closed = none
  waiting : s.cap.waiting ≠ none

/-- A record whose snapshot is withdrawn at a close. -/
def BurstRecord.busy (r : BurstRecord) : BurstRecord := r.settled .captureBusy none none none

/-- Once the snapshot is withdrawn, the record is CAPTURE_BUSY and no pairing runs. -/
theorem OpenWaiting.withdraw {g : LegId} {p : Pairing} {r : BurstRecord} {s : State} (h : OpenWaiting g p r s) {i : LegId}
    {x : BurstRecord} (hx : (s.ingLeg i).record = some x) (hserial : p.serial = x.serial) :
    OpenApart g r.busy (withdrawAtClose i s) := by
  obtain ⟨hr, hp, hleg, hs, hclosed, hwait⟩ := h
  rw [withdrawAtClose_withdraws hx (pairingOf_eq_true hp hserial) hwait]
  obtain ⟨-, -, hopen, -⟩ := settlePairing_settled (s := s.setCap { s.cap with waiting := none }) hp .captureBusy none none none
  have hrecord := (hopen hclosed).2.2 r (by rw [hleg]; exact hr) hs.symm
  rw [hleg] at hrecord
  exact ⟨hrecord, .inl (by simp)⟩

theorem OpenWaiting.close_other {g : LegId} {p : Pairing} {r : BurstRecord} {s : State} (h : OpenWaiting g p r s) {i : LegId}
    (hi : g ≠ i) (long cut : Bool) (time : Nat) :
    OpenWaiting g p r (closeRecord i long cut time s) ∨ OpenApart g r.busy (closeRecord i long cut time s) := by
  cases hx : (s.ingLeg i).record with
  | none =>
    refine .inl ?_
    have hstays : withdrawAtClose i s = s := withdrawAtClose_stays fun y hy => by rw [hx] at hy; cases hy
    rw [closeRecord, hstays, fileRecord_absent hx]
    exact h
  | some x =>
    by_cases hserial : p.serial = x.serial
    · exact .inr ((h.withdraw hx hserial).file_other long cut time hi)
    · have hno : ∀ q, s.ing.pairing = some q → q.serial ≠ x.serial := fun q hq => by
        obtain rfl := Option.some.inj (h.pairing.symm.trans hq)
        exact hserial
      obtain ⟨-, hpairing, hcap, -⟩ := closeRecord_unpaired hx long cut time hno
      have hstays : withdrawAtClose i s = s := withdrawAtClose_stays fun y hy hpair => by
        obtain rfl := Option.some.inj (hx.symm.trans hy)
        rw [pairingOf_eq_false hno] at hpair
        cases hpair
      have hrecord : ((closeRecord i long cut time s).ingLeg g).record = some r := by
        rw [closeRecord, hstays, fileRecord_legs hx, if_neg hi]
        exact h.record
      exact .inl ⟨hrecord, hpairing.trans h.pairing, h.leg, h.serial, h.closed, by rw [hcap]; exact h.waiting⟩

/-- Another record that closes leaves one of the last of the log in it. -/
theorem LoggedApart.close {k : Nat} {r : BurstRecord} {s : State} (h : LoggedApart k r s) (hk : k < 127) (i : LegId)
    (long cut : Bool) (time : Nat) : LoggedApart (k + 1) r (closeRecord i long cut time s) := by
  have hwithdrawn : LoggedApart k r (withdrawAtClose i s) := by
    obtain ⟨hnear, happ⟩ := h
    unfold withdrawAtClose
    split
    · exact ⟨hnear, happ⟩
    · next x _ =>
      split
      · next hwait =>
        obtain ⟨hpair, hsome⟩ := Bool.and_eq_true_iff.mp hwait
        have happ := happ.resolve_left fun hnone => by rw [hnone] at hsome; cases hsome
        refine ⟨?_, .inl (by simp)⟩
        unfold pairingOf at hpair
        split at hpair
        · next p hp =>
          have hsettled := settlePairing_settled (s := s.setCap { s.cap with waiting := none }) hp .captureBusy none none none
          obtain ⟨-, -, hopen, hclosed⟩ := hsettled
          cases hc : p.closed with
          | none =>
            rw [(hopen hc).2.1]
            exact hnear
          | some y =>
            rw [(hclosed y hc).1]
            exact hnear.map (if_neg (Ne.symm (happ p hp)))
        · cases hpair
      · exact ⟨hnear, happ⟩
  obtain ⟨⟨before, after, hlog, hlength⟩, happ⟩ := hwithdrawn
  refine ⟨?_, fileRecord_apart happ i long cut time⟩
  unfold closeRecord
  cases hx : ((withdrawAtClose i s).ingLeg i).record with
  | none =>
    rw [fileRecord_absent hx]
    exact ⟨before, after, hlog, Nat.le_succ_of_le hlength⟩
  | some x =>
    rw [(fileRecord_log hx long cut time).1, hlog]
    obtain ⟨before', hkeep⟩ := loggedWith_keeps (before := before) (r := r) (Nat.lt_of_le_of_lt hlength hk) (x.shut long cut time)
    exact ⟨before', _, hkeep, by rw [List.length_append, List.length_singleton]; omega⟩

/-! ### The cut of all open records (R188) -/

/-- The legs' records closed one after another, each with CUT. -/
def cutLegs (legs : List LegId) (s : State) : State :=
  legs.foldl (fun t g => closeRecord g false true t.time.timebase t) s

@[simp] theorem cutLegs_time (legs : List LegId) (s : State) : (cutLegs legs s).time = s.time := by
  unfold cutLegs
  induction legs generalizing s with
  | nil => rfl
  | cons g legs ih => rw [List.foldl_cons, ih]; simp

theorem LoggedApart.cut {k : Nat} {r : BurstRecord} {s : State} (h : LoggedApart k r s) {legs : List LegId}
    (hk : k + legs.length ≤ 127) : LoggedApart (k + legs.length) r (cutLegs legs s) := by
  unfold cutLegs
  induction legs generalizing s k with
  | nil => exact h
  | cons i legs ih =>
    rw [List.length_cons] at hk ⊢
    rw [show k + (legs.length + 1) = k + 1 + legs.length by omega]
    exact ih (h.close (by omega) i _ _ _) (by omega)

/-- A record that the waiting snapshot does not touch stands in the log after the cut. -/
theorem OpenApart.cut {g : LegId} {r : BurstRecord} {s : State} (h : OpenApart g r s) {legs : List LegId} (hg : g ∈ legs)
    (hlegs : legs.length ≤ 127) : r.shut false true s.time.timebase ∈ (cutLegs legs s).ing.log := by
  induction legs generalizing s with
  | nil => cases hg
  | cons i legs ih =>
    rw [List.length_cons] at hlegs
    by_cases hi : g = i
    · subst hi
      obtain ⟨⟨before, after, hlog, -⟩, -⟩ := (h.close false true s.time.timebase).cut (legs := legs) (by omega)
      rw [show cutLegs (g :: legs) s = cutLegs legs (closeRecord g false true s.time.timebase s) from rfl, hlog]
      exact List.mem_append_right _ List.mem_cons_self
    · have hlog := ih (h.close_other false true s.time.timebase hi) ((List.mem_cons.mp hg).resolve_left hi) (by omega)
      have htime : (closeRecord i false true s.time.timebase s).time = s.time := by simp
      rw [htime] at hlog
      exact hlog

/-- A record whose snapshot still waited stands in the log as CAPTURE_BUSY after the cut. -/
theorem OpenWaiting.cut {g : LegId} {p : Pairing} {r : BurstRecord} {s : State} (h : OpenWaiting g p r s) {legs : List LegId}
    (hg : g ∈ legs) (hlegs : legs.length ≤ 127) : r.busy.shut false true s.time.timebase ∈ (cutLegs legs s).ing.log := by
  induction legs generalizing s with
  | nil => cases hg
  | cons i legs ih =>
    have htime : (closeRecord i false true s.time.timebase s).time = s.time := by simp
    rw [List.length_cons] at hlegs
    by_cases hi : g = i
    · subst hi
      obtain ⟨⟨before, after, hlog, -⟩, -⟩ := (((h.withdraw h.record h.serial).file false true s.time.timebase)).cut
        (legs := legs) (by omega)
      rw [show cutLegs (g :: legs) s = cutLegs legs (fileRecord g false true s.time.timebase (withdrawAtClose g s)) from rfl, hlog]
      exact List.mem_append_right _ List.mem_cons_self
    · have hg' := (List.mem_cons.mp hg).resolve_left hi
      rw [show cutLegs (i :: legs) s = cutLegs legs (closeRecord i false true s.time.timebase s) from rfl]
      rcases h.close_other hi false true s.time.timebase with hwaiting | hopen
      · have hlog := ih hwaiting hg' (by omega)
        rwa [htime] at hlog
      · have hlog := hopen.cut hg' (legs := legs) (by omega)
        rwa [htime] at hlog

/-- Where no record is open, the close of another opens none. -/
theorem closeRecord_none {g : LegId} {s : State} (h : (s.ingLeg g).record = none) (i : LegId) (long cut : Bool) (time : Nat) :
    ((closeRecord i long cut time s).ingLeg g).record = none := by
  have hwithdrawn : ((withdrawAtClose i s).ingLeg g).record = none := by
    unfold withdrawAtClose
    split
    · exact h
    · split
      · cases hp : s.ing.pairing with
        | none => rwa [settlePairing, show (s.setCap { s.cap with waiting := none }).ing.pairing = none from hp]
        | some p =>
          rw [settlePairing_record (s := s.setCap { s.cap with waiting := none }) hp]
          rw [show ((s.setCap { s.cap with waiting := none }).ingLeg g).record = none from h, Option.map_none, ite_self]
      · exact h
  unfold closeRecord
  cases hx : ((withdrawAtClose i s).ingLeg i).record with
  | none => rwa [fileRecord_absent hx]
  | some x =>
    rw [fileRecord_legs hx]
    split
    · rfl
    · exact hwithdrawn

theorem cutLegs_record {legs : List LegId} {g : LegId} {s : State} (h : g ∈ legs ∨ (s.ingLeg g).record = none) :
    ((cutLegs legs s).ingLeg g).record = none := by
  induction legs generalizing s with
  | nil => exact h.resolve_left nofun
  | cons i legs ih =>
    rw [show cutLegs (i :: legs) s = cutLegs legs (closeRecord i false true s.time.timebase s) from rfl]
    cases hr : (s.ingLeg g).record with
    | none => exact ih (.inr (closeRecord_none hr i _ _ _))
    | some r =>
      by_cases hi : g = i
      · subst hi
        exact ih (.inr (closeRecord_closed hr false true _).1)
      · refine ih (.inl ((List.mem_cons.mp (h.resolve_right fun hnone => ?_)).resolve_left hi))
        rw [hnone] at hr
        cases hr

@[simp] theorem cutLegs_recordless (legs : List LegId) (s : State) (g : LegId) :
    ((cutLegs legs s).ingLeg g).recordless = (s.ingLeg g).recordless := by
  unfold cutLegs
  induction legs generalizing s with
  | nil => rfl
  | cons i legs ih => rw [List.foldl_cons, ih, closeRecord_recordless]

/-- The reports that the cut may bring: one for each leg, and one of the pairing (R190). -/
theorem cutLegs_reportsDue (legs : List LegId) (s : State) : (cutLegs legs s).reportsDue ≤ s.reportsDue + legs.length := by
  unfold cutLegs
  induction legs generalizing s with
  | nil => exact le_rfl
  | cons i legs ih =>
    have hclose : (closeRecord i false true s.time.timebase s).reportsDue ≤ s.reportsDue + 1 := closeRecord_reportsDue ..
    have := ih (closeRecord i false true s.time.timebase s)
    rw [List.foldl_cons, List.length_cons]
    omega

/-! ### The windows passed over (R21) -/

/-- Reports posted with room for all of them are all reported (R10). -/
theorem postAll_reported {α : Type} (f : α → Report) (xs : List α) {s : State} (hroom : s.msg.reports.length + xs.length ≤ 32) {x : α}
    (hx : x ∈ xs) : Reported (xs.foldl (fun t x => post (f x) t) s) (f x) := by
  have hkeeps : ∀ (ys : List α) (t : State), PostsOnly t (ys.foldl (fun t x => post (f x) t) t) := fun ys => by
    induction ys with
    | nil => exact PostsOnly.refl'
    | cons y ys ih => exact fun t => (PostsOnly.post (f y) t).trans (ih _)
  induction xs generalizing s with
  | nil => cases hx
  | cons y ys ih =>
    rw [List.length_cons] at hroom
    rw [List.foldl_cons]
    rcases List.mem_cons.mp hx with rfl | hx
    · exact (hkeeps ys _).reported (reported_of_room _ (by omega))
    · refine ih ?_ hx
      have := Message.post_length s.time.clock (f y) s.msg
      show (s.msg.post s.time.clock (f y)).reports.length + ys.length ≤ 32
      omega

/-- The table as a load of the timebase judges it (R21). -/
def judgedTable (v : Nat) (table : List Window) : List Window :=
  match table.find? fun w => decide (w.start ≤ v) with
  | some w => openedTable w.id table
  | none => table

/-- The window that the value straddles is OPEN, and the others keep their state (R21). -/
theorem judgedTable_eq {v : Nat} {table : List Window} (hahead : ∀ w ∈ table, v < w.stop)
    (hordered : table.Pairwise fun v w => v.stop ≤ w.start) (hids : (table.map (·.id)).Nodup)
    (hpending : ∀ w ∈ table, w.state = .pending) :
    (judgedTable v table).map (fun w => (w.id, w.start, w.stop, w.legs, w.state)) =
      table.map fun w => (w.id, w.start, w.stop, w.legs, if w.start ≤ v then WindowState.opened else .pending) := by
  unfold judgedTable
  split
  · next x hx =>
    have hmem := List.mem_of_find?_eq_some hx
    have hstart : x.start ≤ v := by simpa using List.find?_some hx
    rw [openedTable, List.map_map]
    refine List.map_congr_left fun w hw => ?_
    have hsame : w.id = x.id ↔ w.start ≤ v := by
      refine ⟨fun hid => ?_, fun hw' => ?_⟩
      · rwa [List.inj_on_of_nodup_map hids hw hmem hid]
      · by_contra hne
        have hapart : w = x ∨ w.stop ≤ x.start ∨ x.stop ≤ w.start :=
          List.Pairwise.forall_of_forall_of_flip (R := fun a b : Window => a = b ∨ a.stop ≤ b.start ∨ b.stop ≤ a.start)
            (fun _ _ => .inl rfl) (hordered.imp fun h => .inr (.inl h)) (hordered.imp fun h => .inr (.inr h)) hw hmem
        have := hapart.resolve_left fun heq => hne (by rw [heq])
        have := hahead w hw
        have := hahead x hmem
        omega
    rw [Function.comp_apply]
    by_cases hw' : w.start ≤ v
    · rw [if_pos (hsame.mpr hw'), if_pos hw']
      rfl
    · rw [if_neg (fun h => hw' (hsame.mp h)), if_neg hw', hpending w hw]
  · next hnone =>
    refine List.map_congr_left fun w hw => ?_
    have hw' : ¬ w.start ≤ v := by simpa using List.find?_eq_none.mp hnone w hw
    rw [if_neg hw', hpending w hw]

/-! ### TIME_SET (R20, R21) -/

/-- The state after the cut of the records and the load of the timebase (R20, R188). -/
def timeLoaded (v : Nat) (s : State) : State :=
  (cutRecords s).setTime { (cutRecords s).time with timebase := v }

theorem serveTimeSet_busy {p : List Byte} {s : State} (h : s.openWindow ≠ none) : serveTimeSet p s = (s, refuse .busy) := by
  rw [serveTimeSet, if_pos (Option.isSome_iff_ne_none.mpr h)]

theorem serveTimeSet_loads {p : List Byte} {v : Nat} (hv : field p 0 6 = v) {s : State} (h : s.openWindow = none) :
    serveTimeSet p s = (openStraddling v (missWindows s.time.timebase v (timeLoaded v s)), okReply (le 6 s.time.timebase)) := by
  rw [serveTimeSet, h, hv]
  rfl

theorem openStraddling_grants (v : Nat) (s : State) :
    (openStraddling v s).grants = (s.setTable (judgedTable v s.win.table)).grants := by
  unfold openStraddling judgedTable
  cases s.win.table.find? fun w => decide (w.start ≤ v) with
  | none => rfl
  | some w => exact choose_grants _

theorem missWindows_table (before v : Nat) (s : State) :
    (missWindows before v s).win.table = s.win.table.filter (fun w => decide (v < w.stop)) ∧
      (missWindows before v s).win.nextId = s.win.nextId := by
  rw [missWindows_win]
  exact ⟨rfl, rfl⟩

theorem openStraddling_nextId (v : Nat) (s : State) : (openStraddling v s).win.nextId = s.win.nextId := by
  have h : (openStraddling v s).grants.nextId = (s.setTable (judgedTable v s.win.table)).grants.nextId := by
    rw [openStraddling_grants]
  exact h

@[simp] theorem openStraddling_monitor (v : Nat) (s : State) : (openStraddling v s).monitor = s.monitor := by
  unfold openStraddling
  split
  · exact openWindowAt_monitor _ _
  · rfl

/-- The windows after a load of the timebase (R21). -/
theorem timeSet_table {s u : State} {v before : Nat} (hinv : WindowInv s) (hnone : s.openWindow = none) (hu : u.win = s.win) :
    (openStraddling v (missWindows before v u)).win.table.map (fun w => (w.id, w.start, w.stop, w.legs, w.state)) =
      (s.win.table.filter fun w => v < w.stop).map fun w =>
        (w.id, w.start, w.stop, w.legs, if w.start ≤ v then WindowState.opened else .pending) := by
  obtain ⟨htable, -⟩ := missWindows_table before v u
  rw [table_map_of_grants (openStraddling_grants v _) (fun _ => rfl), htable, hu]
  have hpending : ∀ w ∈ s.win.table, w.state = .pending := fun w hw => by
    have := (State.openWindow_eq_none s).mp hnone w hw
    cases hstate : w.state
    · rfl
    · exact absurd hstate this
  exact judgedTable_eq (fun w hw => by simpa using (List.mem_filter.mp hw).2)
    (hinv.ordered.sublist List.filter_sublist) (hinv.ids.sublist (List.filter_sublist.map _))
    fun w hw => hpending w (List.mem_filter.mp hw).1

/-- Each window passed over is reported, with room for it behind the BURST_END reports of the cut (R21, R31). -/
theorem timeSet_missed {s : State} {v before : Nat} (hinv : WindowInv s) (hroom : s.msg.reports.length + 9 ≤ 32) {w : Window}
    (hw : w ∈ s.win.table) (hpast : w.stop ≤ v) : Reported (openStraddling v (missWindows before v (timeLoaded v s)))
      (.windowMissed w.id w.legs w.start w.stop before v) := by
  have hopened : ∀ t, PostsOnly t (openStraddling v t) := fun t => by
    unfold openStraddling
    split
    · exact PostsOnly.openWindowAt _ t
    · exact PostsOnly.refl' t
  refine (hopened _).reported ?_
  have hdue := cutLegs_reportsDue allLegs s
  have hstart : s.reportsDue ≤ s.msg.reports.length + 1 := by
    unfold State.reportsDue
    cases s.ing.pairing <;> simp
  have hlength : (cutLegs allLegs s).msg.reports.length ≤ (cutLegs allLegs s).reportsDue := Nat.le_add_right _ _
  have hlegs : allLegs.length = 4 := rfl
  have htable : (timeLoaded v s).win.table = s.win.table := by simp [timeLoaded]
  refine postAll_reported (fun w : Window => .windowMissed w.id w.legs w.start w.stop before v) _ ?_ ?_
  · have := List.length_filter_le (fun w => decide (w.stop ≤ v)) s.win.table
    have := hinv.room
    rw [htable]
    show (cutLegs allLegs s).msg.reports.length + _ ≤ 32
    omega
  · rw [htable]
    exact List.mem_filter.mpr ⟨hw, by simpa using hpast⟩

theorem timeSet_monitor (v before : Nat) (s : State) :
    (openStraddling v (missWindows before v (timeLoaded v s))).monitor = (cutLegs allLegs s).monitor :=
  (openStraddling_monitor v _).trans (monitor_of_ing (by simp only [missWindows_frame, timeLoaded, State.setTime_ing]; rfl))

/-- A load of the timebase as the reply finds it: the records cut, the windows judged (R20, R21, R188). -/
theorem timeSet_records {s : State} {v before : Nat} {g : LegId} {r : BurstRecord} (hr : (s.ingLeg g).record = some r) :
    let t := openStraddling v (missWindows before v (timeLoaded v s))
    let closed := { r with endTime := some s.time.timebase, long := false, cut := true }
    (s.cap.waiting = none ∨ (∀ p, s.ing.pairing = some p → p.serial ≠ r.serial) → closed ∈ t.ing.log) ∧
      ∀ p, s.ing.pairing = some p → p.leg = g → p.serial = r.serial → p.closed = none → s.cap.waiting ≠ none →
        { closed with outcome := .captureBusy, echo := none, position := none, element := none } ∈ t.ing.log := by
  dsimp only
  rw [(log_of_monitor (timeSet_monitor v before s)).1]
  exact ⟨fun happ => OpenApart.cut (legs := allLegs) ⟨hr, happ⟩ (mem_allLegs g) (by decide), fun p hp hleg hserial hclosed hwait =>
    OpenWaiting.cut (legs := allLegs) ⟨hr, hp, hleg, hserial, hclosed, hwait⟩ (mem_allLegs g) (by decide)⟩

/-- Settles O15: the records go to the log, the timebase is loaded, and the windows are judged by it. -/
theorem timeSetLoadsTheTimebase : Obligations.TimeSetLoadsTheTimebase := by
  unfold Obligations.TimeSetLoadsTheTimebase
  intro n v tag s h hv
  have hfield : field (le 6 v) 0 6 = v := field_le (before := []) (after := []) (by simp) rfl hv
  refine ⟨fun hopen => ?_, fun hnone hinv => ?_⟩
  · exact requestArrives_unchanged h rfl (by simp [lengthAllowed]) (serveTimeSet_busy (s := (s.after n).holding) hopen)
  · have hserve := serveTimeSet_loads hfield (s := (s.after n).holding) hnone
    have hslot := (PostsOnly.serveTimeSet (le 6 v) (s.after n).holding).slot (held_of_ready (h.after n))
    rw [hserve] at hslot
    obtain ⟨t, ht, hans⟩ := exec_answers (c := .timeSet n tag (le 6 v)) h rfl rfl (by simp [lengthAllowed]) hserve hslot
    have hframe := serveTimeSet_frame (le 6 v) (s.after n).holding
    rw [hserve] at hframe
    obtain ⟨hpending, -, -, hplan, hlegs, hcor, hdiv, harith, hmap, hstray⟩ := hframe
    obtain ⟨hpending', -, htime', hwin', hplan', hlegs', -, -, -, hcor', -, hdiv', harith', hmap', hstray', hing'⟩ := hans.frame
    have hinv' : WindowInv (s.after n).holding := hinv.of_win rfl
    refine ⟨t, ht, ?_, hans.answered, fun g => ?_, fun g r hr => ?_, fun hroom w hw hpast => ?_, ?_, ?_, hplan'.trans hplan,
      hlegs'.trans hlegs, hcor'.trans hcor, hdiv'.trans hdiv, harith'.trans harith, hmap'.trans hmap, hstray'.trans hstray,
      hpending'.trans hpending, fun g => ?_⟩
    · rw [htime']
      simp [timeLoaded, State.holding]
    · rw [ingLeg_of_ing hing', record_of_monitor (timeSet_monitor ..)]
      exact cutLegs_record (.inl (mem_allLegs g))
    · rw [hing']
      have hwait : (s.after n).holding.cap.waiting = s.cap.waiting := by simp [State.holding, State.after, State.passTo]
      have hrecords := timeSet_records (s := (s.after n).holding) (v := v) (before := (s.after n).time.timebase) hr
      rw [hwait] at hrecords
      exact hrecords
    · exact hans.reported (timeSet_missed hinv' hroom hw hpast)
    · rw [hwin', openStraddling_nextId, (missWindows_table ..).2]
      simp [timeLoaded, State.holding]
    · rw [hwin']
      exact timeSet_table (s := (s.after n).holding) hinv' hnone (by simp [timeLoaded])
    · rw [ingLeg_of_ing hing']
      have hcut := detectors_of_recordless (cutLegs_recordless allLegs (s.after n).holding g)
      have hunmarked : _ = _ := congrArg IngressLeg.detectors (unmarked_of_monitor
        (timeSet_monitor v (s.after n).holding.time.timebase (s.after n).holding) g)
      exact hunmarked.trans hcut

end Sys2Proof.Machine
end

section
/-! PROOFS. Speed, distance and temperature; the leg, the watch and the survey read (R47, R118 to R122, R192, R194). -/

namespace Sys2Proof.Machine

open Sys2Proof

/-! ### The effective speed (R118, R121, R122) -/

theorem scaleByCode_eq (code : Nat) (d : Int) : scaleByCode code d =
    if code = 1 then d else if code = 2 then d.tdiv 2 else if code = 3 then d.tdiv 4 else if code = 4 then d.tdiv 8 else 0 := by
  match code with
  | 0 | 1 | 2 | 3 | 4 => rfl
  | n + 5 => simp [scaleByCode]

/-- The correction by the coefficient of the side of the calibration on which the reading lies (R121). -/
theorem correction_eq (t : Settings) (c : Cal) (x : Int) :
    correction t c x = scaleByCode (if c.t < x then t.ctUp else if x < c.t then t.ctDn else 0) (x - c.t) := by
  unfold correction
  dsimp only
  by_cases hup : c.t < x
  · rw [if_pos (by omega), if_pos hup]
  · rw [if_neg (by omega), if_neg hup]
    by_cases hdown : x < c.t
    · rw [if_pos (by omega), if_pos hdown]
    · rw [if_neg (by omega), if_neg hdown]
      rfl

theorem qEffective_eq (t : Settings) (c : Cal) (x : Int) :
    (qEffective t c x : Int) = max 9593 (min 19187 (c.q - correction t c x)) := by
  have hrange := clampInt_range (lo := 9593) (hi := 19187) (by decide) ((c.q : Int) - correction t c x)
  rw [qEffective, Int.toNat_of_nonneg (by omega)]
  rfl

theorem exec_temperatureConversion (x : Int) {s : State} (hs : s.inReset = false) :
    exec (.temperatureConversion x) s = .next (converted x s) := by
  show execTemperatureConversion x s = _
  rw [execTemperatureConversion, State.live, hs]
  rfl

/-- Settles O40: the formulas of 7.5 to 7.7, and the conversion. -/
theorem speedDistanceAndTemperature : Obligations.SpeedDistanceAndTemperature := by
  unfold Obligations.SpeedDistanceAndTemperature
  refine ⟨fun vf h1 h2 => ⟨rfl, qNominal_range h1 h2⟩, fun t c x => ?_, fun q t16 d => rfl, fun x s hs => ?_⟩
  · rw [qEffective_eq, correction_eq, scaleByCode_eq]
  · exact exec_temperatureConversion x hs

/-! ### The reads of a leg (R47, R192, R194) -/

/-- A refused read of a leg that is none. -/
theorem field_leg (leg : Byte) : field [leg] 0 1 = leg.toNat := by simp [field, unle]

theorem legOf_field {leg : Byte} {g : LegId} (h : leg.toNat = g.val) : legOf (field [leg] 0 1) = some g := by
  rw [field_leg, h, legOf_val]

theorem legOf_field_none {leg : Byte} (h : 4 ≤ leg.toNat) : legOf (field [leg] 0 1) = none := by
  rw [field_leg, legOf_eq_none h]

theorem yesNo_isSome {α : Type} (o : Option α) : yesNo o.isSome = u8 (if o = none then 0 else 1) := by
  cases o <;> rfl

/-- A value that is sent as zeros where it is absent. -/
theorem leOpt_map {α : Type} (n : Nat) (f : α → Nat) (o : Option α) : leOpt n (o.map f) = le n (o.elim 0 f) := by
  cases o <;> rfl

/-- The onset that WATCH_GET answers with: relative to the latched mean where there is one, else the one set (R182, log 31). -/
theorem onsetOf_eq (l : IngressLeg) (b : Nat) : l.onsetOf b =
    match l.settings.mode, l.result.bind fun r => r.bins.getD b none with
    | .relative, some (mean, _) => min 240 (mean + l.settings.margin)
    | _, _ => l.settings.onset := by
  have hmean : l.mean b = (l.result.bind fun r => r.bins.getD b none).map (·.1) := by
    unfold IngressLeg.mean
    cases l.result <;> rfl
  unfold IngressLeg.onsetOf
  rw [hmean]
  cases l.settings.mode <;> cases l.result.bind fun r => r.bins.getD b none <;> rfl

theorem acquiringOn_eq (s : State) (g : LegId) : acquiringOn s g = s.seq.inFlight.elim false fun a => a.leg == g := by
  unfold acquiringOn
  cases s.seq.inFlight <;> rfl

/-- A read of one leg that leaves the state and answers as it does. -/
theorem exec_legRead {n : Nat} {kind leg tag : Byte} {s : State} {st : Status} {fields : List Byte} (h : Ready s)
    (huse : kindsInUse.contains kind.toNat = true) (hlength : lengthAllowed kind [leg] = true)
    (hs : serveKind kind [leg] (s.after n).holding = ((s.after n).holding, ⟨st, fields, false⟩)) :
    requestArrives n ⟨kind, tag, [leg]⟩ s = .next ((s.after n).replied kind tag st fields) :=
  requestArrives_unchanged h huse hlength hs

section
variable {p : List Byte} {g : LegId} {s : State} (hleg : legOf (field p 0 1) = some g)
include hleg

theorem serveLegGet_unset (h : (s.leg g).settings = none) : serveLegGet p s = (s, okReply
    (u8 (s.leg g).state.code ++ u8 (if (s.leg g).settings = none then 0 else 1) ++ u8 (s.leg g).level ++ u8 (s.leg g).faults
      ++ le 2 (s.leg g).settle ++ List.replicate 33 0)) := by
  rw [serveLegGet, hleg]
  dsimp only
  rw [yesNo_isSome, h]
  rfl

theorem serveLegGet_set {t : Settings} {c : Cal} (h : (s.leg g).settings = some t) (hc : s.arith.cal.get g = some c) :
    serveLegGet p s = (s, okReply (u8 (s.leg g).state.code ++ u8 (if (s.leg g).settings = none then 0 else 1)
      ++ u8 (s.leg g).level ++ u8 (s.leg g).faults ++ le 2 (s.leg g).settle ++ (le 2 t.codeLength ++ u8 t.chipDivider
        ++ le 2 t.profileBins ++ u8 t.blank ++ le 2 t.floor ++ u8 t.carrier ++ u8 t.startLevel ++ le 2 t.aLo ++ le 2 t.aHi
        ++ u8 t.upStep ++ u8 t.downStep ++ u8 t.faultLimit ++ le 2 t.vfMilli ++ u8 t.tolerance ++ u8 t.missLimit
        ++ u8 t.confirmCount ++ u8 t.ageLimit ++ u8 t.trim ++ u8 t.ctUp ++ u8 t.ctDn ++ u8 (t.carrier - t.halfWidth)
        ++ u8 (t.carrier + t.halfWidth) ++ yesNo (s.plan.admissible t) ++ yesNo (s.plan.windowFree t) ++ le 2 c.q
        ++ leSigned 1 c.t))) := by
  rw [serveLegGet, hleg]
  dsimp only
  rw [yesNo_isSome, h, hc]
  rfl

theorem serveSurveyRead_absent (h : (s.ingLeg g).result = none) : serveSurveyRead p s = (s, refuse .notFound) := by
  rw [serveSurveyRead, hleg]
  dsimp only
  rw [h]

theorem serveSurveyRead_latched {v : SurveyResult} (h : (s.ingLeg g).result = some v) : serveSurveyRead p s = (s, okReply
    (v.layout ++ u8 (if (s.ingLeg g).survey = none then 0 else 1) ++ le 4 ((s.ingLeg g).survey.elim 0 (·.scans)))) := by
  rw [serveSurveyRead, hleg]
  dsimp only
  rw [h]
  dsimp only
  rw [yesNo_isSome, leOpt_map]

theorem serveWatchGet_layout : serveWatchGet p s = (s, okReply ((s.ingLeg g).settings.layout ++ le 2 (s.leg g).settle
    ++ yesNo (s.ingLeg g).longHeld ++ watchRecordLayout (s.ingLeg g).record
    ++ u8 (if (s.ingLeg g).survey = none then 0 else 1) ++ le 4 ((s.ingLeg g).survey.elim 0 (·.scans))
    ++ allBins.flatMap (watchBinLayout g s))) := by
  rw [serveWatchGet, hleg]
  dsimp only
  rw [yesNo_isSome, leOpt_map]

end

/-- What WATCH_GET answers of a record (R192). -/
theorem watchRecordLayout_eq (o : Option BurstRecord) : watchRecordLayout o = match o with
    | none => List.replicate 21 0
    | some x => [1] ++ le 6 x.startTime ++ le 2 x.scans ++ binSet x.bins ++ leSigned 2 x.peakLevel ++ u8 x.peakBin
      ++ u8 x.outcome.code := by
  cases o <;> rfl

/-- Settles O42: the fields of the three reads. -/
theorem legAndWatchAreRead : Obligations.LegAndWatchAreRead := by
  unfold Obligations.LegAndWatchAreRead
  intro n leg tag s h
  refine ⟨fun hnone => ⟨?_, ?_, ?_⟩, fun g hg => ⟨fun hset => ?_, fun t c hset hc => ?_, fun hnone => ?_, fun v hv => ?_, ?_⟩⟩
  · refine exec_legRead h rfl rfl ?_
    show serveLegGet [leg] _ = _
    rw [serveLegGet, legOf_field_none hnone]
    rfl
  · refine exec_legRead h rfl rfl ?_
    show serveWatchGet [leg] _ = _
    rw [serveWatchGet, legOf_field_none hnone]
    rfl
  · refine exec_legRead h rfl rfl ?_
    show serveSurveyRead [leg] _ = _
    rw [serveSurveyRead, legOf_field_none hnone]
    rfl
  · exact exec_legRead h rfl rfl (serveLegGet_unset (s := (s.after n).holding) (legOf_field hg) hset)
  · have hserve := serveLegGet_set (s := (s.after n).holding) (legOf_field hg) hset hc
    refine exec_legRead h rfl rfl (hserve.trans ?_)
    simp only [← List.append_assoc]
    rfl
  · exact exec_legRead h rfl rfl (serveSurveyRead_absent (s := (s.after n).holding) (legOf_field hg) hnone)
  · have hserve := serveSurveyRead_latched (s := (s.after n).holding) (legOf_field hg) hv
    rw [SurveyResult.layout_eq] at hserve
    exact exec_legRead h rfl rfl hserve
  · have hserve := serveWatchGet_layout (s := (s.after n).holding) (legOf_field hg)
    rw [watchRecordLayout_eq] at hserve
    have hbins : watchBinLayout g (s.after n).holding = fun b =>
        u8 (bitsOf [s.watched g b, (s.seq.inFlight.elim false fun a => a.leg == g) && (s.legSettings g).inBand b,
            (s.ingLeg g).detector b == .burst, ((s.ingLeg g).readings.getD b none).isSome])
          ++ leSigned 2 (if s.watched g b then
              match (s.ingLeg g).settings.mode, (s.ingLeg g).result.bind fun r => r.bins.getD b none with
              | .relative, some (mean, _) => min 240 (mean + (s.ingLeg g).settings.margin)
              | _, _ => (s.ingLeg g).settings.onset
            else 0) ++ leSigned 2 (((s.ingLeg g).readings.getD b none).getD 0) := by
      funext b
      rw [watchBinLayout, acquiringOn_eq, onsetOf_eq]
      rfl
    rw [hbins] at hserve
    exact exec_legRead h rfl rfl hserve

end Sys2Proof.Machine
end

section
/-! PROOFS. LEG_ENABLE, and the start of the oldest eligible record (R45, R56, R57, R84). -/

namespace Sys2Proof.Machine

open Sys2Proof

/-! ### LEG_ENABLE (R45) -/

theorem State.replied_reports (kind tag : Byte) (st : Status) (fields : List Byte) (s : State) :
    (s.replied kind tag st fields).msg.reports = s.msg.reports := by
  unfold State.replied
  split <;> rfl

@[simp] theorem State.replied_frame (kind tag : Byte) (st : Status) (fields : List Byte) (s : State) :
    (s.replied kind tag st fields).pending = s.pending ∧ (s.replied kind tag st fields).plan = s.plan ∧
      (s.replied kind tag st fields).legs = s.legs ∧ (s.replied kind tag st fields).seq = s.seq ∧
      (s.replied kind tag st fields).probe = s.probe ∧ (s.replied kind tag st fields).cap = s.cap ∧
      (s.replied kind tag st fields).cor = s.cor ∧ (s.replied kind tag st fields).prof = s.prof ∧
      (s.replied kind tag st fields).div = s.div ∧ (s.replied kind tag st fields).arith = s.arith ∧
      (s.replied kind tag st fields).map = s.map ∧ (s.replied kind tag st fields).stray = s.stray ∧
      (s.replied kind tag st fields).ing = s.ing := by
  unfold State.replied
  split <;> simp

section
variable {p : List Byte} {g : LegId} {s : State} (hleg : legOf (field p 0 1) = some g)
include hleg

theorem serveLegEnable_refused (h : (s.leg g).state = .enabled ∨ ((s.leg g).state = .off ∧ (s.leg g).settings = none)) :
    serveLegEnable p s = (s, refuse .legState) := by
  rw [serveLegEnable, hleg]
  dsimp only
  rcases h with hstate | ⟨hstate, hset⟩
  · rw [hstate]
  · rw [hstate, hset]

theorem serveLegEnable_starts {set : Settings} (hset : (s.leg g).settings = some set) (hstate : (s.leg g).state ≠ .enabled) :
    serveLegEnable p s =
      (choose (s.setLeg g ⟨some set, .enabled, set.startLevel, 0, 500⟩), okReply (u8 (s.leg g).state.code)) := by
  rw [serveLegEnable, hleg]
  dsimp only
  rw [State.legSettings, hset]
  split
  · exact absurd ‹_› hstate
  · next heq => cases heq
  · rfl

end

/-- Settles O21: the refusals, and what an accepted LEG_ENABLE writes before the sequencer's choice. -/
theorem legEnableStartsTheLeg : Obligations.LegEnableStartsTheLeg := by
  unfold Obligations.LegEnableStartsTheLeg
  intro n leg tag s h
  refine ⟨fun hnone => ?_, fun g hg => ⟨fun hrefuse => ?_, fun set hset hstate => ?_⟩⟩
  · refine exec_legRead h rfl rfl ?_
    show serveLegEnable [leg] _ = _
    rw [serveLegEnable, legOf_field_none hnone]
    rfl
  · exact exec_legRead h rfl rfl (serveLegEnable_refused (s := (s.after n).holding) (legOf_field hg) hrefuse)
  · have hserve := serveLegEnable_starts (s := (s.after n).holding) (legOf_field hg) hset hstate
    refine ⟨_, requestArrives_served (f := ⟨0x11, tag, [leg]⟩) h rfl rfl hserve (by simp) ?_, ?_, State.answered_replied _ _ _ _ _, ?_⟩
    · simp [State.holding]
    · simp [State.setLeg, State.holding, State.after]
    · simp [State.holding, State.after, State.replied_reports]

/-! ### The start of an acquisition (R56, R57, R84) -/

section
variable (h : HalfId) (w : Sweep) (s : State)

theorem openWindow_of_win {t : State} {win : Windows} (h : t.win = win) :
    t.openWindow = win.table.find? fun w => w.state == .opened := by rw [State.openWindow, h]

theorem startAcquisition_ingLeg : (startAcquisition h w s).ingLeg w.leg = { s.ingLeg w.leg with acquired := true } := by
  unfold startAcquisition
  dsimp only
  rw [State.setIngLeg_ingLeg, if_pos rfl]
  split <;> simp [State.ingLeg]

@[simp] theorem State.setSlot_slot (i j : SlotId) (v : Slot) : (s.setSlot i v).slot j = if j = i then v else s.slot j := by
  unfold State.setSlot State.slot
  split
  · next hi =>
    rw [hi]
    exact Quad.get_set_same _ _ _
  · next hi => exact Quad.get_set_other _ _ hi

theorem startAcquisition_slot (i : SlotId) : (startAcquisition h w s).slot i =
    if i = w.slot then fillingSlot (s.slot w.slot) else s.slot i := by
  rw [State.slot, startAcquisition_prof]
  exact State.setSlot_slot s w.slot i _

theorem startAcquisition_half : (startAcquisition h w s).cap.half h = (s.cap.half h).grant
    (.acquisition w.id w.leg (s.legSettings w.leg).codeLength (s.legSettings w.leg).profileBins) := by
  rw [startAcquisition_cap]
  cases h <;> rfl

/-- An acquisition with a WINDOW basis is counted in the OPEN window (R57). -/
theorem startAcquisition_openWindow : (startAcquisition h w s).openWindow =
    if s.windowFree w.leg then s.openWindow else s.openWindow.map Window.counted := by
  have hwin : (startAcquisition h w s).win = if s.windowFree w.leg then s.win else (countAcquisition s).win := by
    unfold startAcquisition basisOf
    dsimp only
    by_cases hfree : s.windowFree w.leg = true
    · simp [hfree]
    · simp [hfree, countAcquisition]
  rw [openWindow_of_win hwin, ← countAcquisition_openWindow]
  split <;> rfl

end

/-- A record rewritten where it stands, when no other bears its id. -/
theorem updateSweep_queue {s : State} {before after : List Sweep} {w : Sweep} (hq : s.seq.queue = before ++ w :: after)
    (hid : ∀ v ∈ before ++ after, v.id ≠ w.id) (f : Sweep → Sweep) :
    (s.updateSweep w.id f).seq.queue = before ++ f w :: after := by
  have hkeep : ∀ l : List Sweep, (∀ v ∈ l, v.id ≠ w.id) → l.map (fun v => if v.id == w.id then f v else v) = l := fun l hl =>
    (List.map_congr_left fun v hv => if_neg (by simpa using hl v hv)).trans (List.map_id l)
  show s.seq.queue.map _ = _
  rw [hq, List.map_append, List.map_cons, hkeep before fun v hv => hid v (List.mem_append_left _ hv),
    hkeep after fun v hv => hid v (List.mem_append_right _ hv), if_pos (beq_self_eq_true _)]

theorem startedSweep_eq {w : Sweep} (hw : w.state = .queued ∨ w.state = .acquiring) (level : Nat) : startedSweep level w =
    if w.state = .queued then { w with started := w.started + 1, state := .acquiring, levelUsed := some level }
    else { w with started := w.started + 1 } := by
  unfold startedSweep
  rcases hw with hw | hw <;> simp [hw]

theorem Window.counted_made {w : Window} (h : w.state = .opened) : w.counted.made = min 65535 (w.made + 1) := by
  rw [Window.counted, h]
  rfl

/-- Settles O27: the choice in its cases, and what the start writes. -/
theorem oldestEligibleRecordStarts : Obligations.OldestEligibleRecordStarts := by
  unfold Obligations.OldestEligibleRecordStarts
  refine ⟨fun s h before after w hnone hfilling hfree hq hbefore hw hid => ?_, fun s hs => choose_blocked hs, fun s hs => if_pos hs⟩
  have hchosen := chosen_eq_some hq hbefore hw
  dsimp only
  rw [choose_starts hfilling hfree hnone hchosen, startAcquisition_seq, startAcquisition_half, startAcquisition_ingLeg,
    startAcquisition_probe, startAcquisition_slot, if_pos rfl, startAcquisition_openWindow]
  refine ⟨rfl, ?_, rfl, rfl, rfl, rfl, ?_, ?_, ?_, fun c _ hslot => ?_, fun hslot => ?_, fun i hi => ?_, rfl, ?_, rfl, rfl, rfl,
    fun o ho o' ho' => ?_⟩
  · rw [← startedSweep_eq hw.1]
    exact updateSweep_queue hq hid _
  · rw [startAcquisition_cap]
  · rw [startAcquisition_cap]
  · rw [startAcquisition_cap]
  · rw [hslot]
    rfl
  · unfold fillingSlot
    split
    · exact absurd ‹_› hslot
    · rfl
  · rw [startAcquisition_slot, if_neg hi]
  · rw [startAcquisition_cap]
  · rw [ho] at ho'
    by_cases hwf : s.windowFree w.leg = true
    · rw [if_pos hwf] at ho' ⊢
      cases ho'
      rfl
    · rw [if_neg hwf] at ho' ⊢
      cases ho'
      exact Window.counted_made (by simpa using List.find?_some ho)

end Sys2Proof.Machine
end

section
/-! PROOFS. What the correlator's take and the choice leave, and the acquisition job (R57, R89, R91). -/

namespace Sys2Proof.Machine

open Sys2Proof

/-! ### The halves (R83, R89) -/

theorem Capture.oldestFull_state {c : Capture} {h : HalfId} (e : c.oldestFull = some h) : (c.half h).state = .full := by
  unfold Capture.oldestFull at e
  split at e
  · next h0 h1 =>
    split at e <;> cases e
    exacts [beq_iff_eq.mp h1, beq_iff_eq.mp h0]
  · next h0 _ =>
    cases e
    exact beq_iff_eq.mp h0
  · next _ h1 =>
    cases e
    exact beq_iff_eq.mp h1
  · cases e

/-- A half that is not FULL is none of the correlator's (R89). -/
theorem takeHalves_half {n : Nat} {h : HalfId} {s : State} (hh : (s.cap.half h).state ≠ .full) :
    (takeHalves n s).cap.half h = s.cap.half h := by
  induction n generalizing s with
  | zero => rfl
  | succ n ih =>
    unfold takeHalves
    split
    · next k _ hk =>
      have hne : h ≠ k := fun e => hh (e ▸ Capture.oldestFull_state hk)
      have hkeep : ∀ v : Half, (s.cap.setHalf k v).half h = s.cap.half h := fun v => Capture.half_setHalf_other _ _ hne
      dsimp only
      split
      · have hrelease : (releaseHalf k s).cap.half h = s.cap.half h := hkeep _
        rw [ih (by rwa [hrelease]), hrelease]
      · split <;> exact hkeep _
    · rfl

/-- What the choice does: nothing, or the start of a snapshot, or that of the oldest eligible record (R56, R84). -/
theorem choose_cases (s : State) : choose s = s ∨ (∃ h g, s.cap.inState .free = some h ∧ choose s = startSnapshot h g s) ∨
    ∃ h w, s.seq.inFlight = none ∧ s.cap.inState .filling = none ∧ s.cap.inState .free = some h ∧ chosen s = some w ∧
      choose s = startAcquisition h w s := by
  cases hfilling : s.cap.inState .filling with
  | some k => exact .inl (choose_blocked (.inl (by simp [hfilling])))
  | none =>
    cases hfree : s.cap.inState .free with
    | none => exact .inl (choose_blocked (.inr hfree))
    | some h =>
      by_cases hstart : s.seq.inFlight = none ∧ chosen s ≠ none
      · obtain ⟨w, hw⟩ := Option.ne_none_iff_exists'.mp hstart.2
        exact .inr (.inr ⟨h, w, hstart.1, rfl, rfl, hw, choose_starts hfilling hfree hstart.1 hw⟩)
      · have hnot : s.seq.inFlight ≠ none ∨ chosen s = none := by
          rw [not_and_or, not_not] at hstart
          exact hstart
        cases hwait : s.cap.waiting with
        | none => exact .inl (choose_nothing hfilling hfree hnot hwait)
        | some g => exact .inr (.inl ⟨h, g, rfl, choose_snapshot hfilling hfree hnot hwait⟩)

/-- A half that is not FREE is none of the choice's (R84). -/
theorem choose_half {h : HalfId} {s : State} (hh : (s.cap.half h).state ≠ .free) : (choose s).cap.half h = s.cap.half h := by
  have hne : ∀ k, s.cap.inState .free = some k → h ≠ k := fun k hk e => hh (e ▸ Capture.inState_state hk)
  rcases choose_cases s with e | ⟨k, g, hk, e⟩ | ⟨k, w, -, -, hk, -, e⟩ <;> rw [e]
  · exact Capture.half_setHalf_other _ _ (hne k hk)
  · rw [startAcquisition_cap]
    exact Capture.half_setHalf_other _ _ (hne k hk)

/-- The choice leaves a half as it was, or grants it (R84). -/
theorem choose_half_granted (h : HalfId) (s : State) :
    (choose s).cap.half h = s.cap.half h ∨ ∃ o, (choose s).cap.half h = (s.cap.half h).grant o := by
  by_cases hfree : (s.cap.half h).state = .free
  · rcases choose_cases s with e | ⟨k, g, hk, e⟩ | ⟨k, w, -, -, hk, -, e⟩ <;> rw [e]
    · exact .inl rfl
    · by_cases hne : h = k
      · subst hne
        exact .inr ⟨_, Capture.half_setHalf _ _ _⟩
      · exact .inl (Capture.half_setHalf_other _ _ hne)
    · by_cases hne : h = k
      · subst hne
        exact .inr ⟨_, startAcquisition_half _ _ _⟩
      · rw [startAcquisition_cap]
        exact .inl (Capture.half_setHalf_other _ _ hne)
  · exact .inl (choose_half hfree)

/-- The half of a job that has ended is no longer CORRELATING, whatever is taken and granted next (R89). -/
theorem afterJob_half (h : HalfId) (s : State) : ((afterJob (endJob h s)).cap.half h).state ≠ .correlating := by
  have hfree : ((endJob h s).cap.half h).state = .free := by
    show ((s.cap.setHalf h (s.cap.half h).release).half h).state = .free
    rw [Capture.half_setHalf]
    rfl
  have htake : ((correlatorTake (endJob h s)).cap.half h).state = .free := by
    rw [correlatorTake, takeHalves_half (by rw [hfree]; decide), hfree]
  unfold afterJob
  rcases choose_half_granted h (correlatorTake (endJob h s)) with e | ⟨o, e⟩ <;> rw [e]
  · rw [htake]
    decide
  · exact fun h => by cases h

/-! ### The slots and the records (R57, R95) -/

theorem takeHalves_slots (n : Nat) (s : State) : (takeHalves n s).prof.slots = s.prof.slots := by
  induction n generalizing s with
  | zero => rfl
  | succ n ih =>
    unfold takeHalves
    split
    · dsimp only
      split
      · exact ih _
      · split <;> rfl
    · rfl

@[simp] theorem correlatorTake_slot (s : State) (i : SlotId) : (correlatorTake s).slot i = s.slot i := by
  rw [State.slot, correlatorTake, takeHalves_slots, State.slot]

/-- The choice moves a slot from HELD to FILLING, with its content, and touches no other (R95). -/
theorem choose_slot (s : State) (i : SlotId) : (choose s).slot i = s.slot i ∨ (choose s).slot i = fillingSlot (s.slot i) := by
  rcases choose_cases s with e | ⟨k, g, -, e⟩ | ⟨k, w, -, -, -, -, e⟩ <;> rw [e]
  · exact .inl rfl
  · exact .inl (by simp [State.slot])
  · rw [startAcquisition_slot]
    split
    · next hi => exact .inr (hi ▸ rfl)
    · exact .inl rfl

theorem fillingSlot_of_ne {v : Slot} (h : v.state ≠ .held) : fillingSlot v = v := by
  unfold fillingSlot
  split
  · exact absurd ‹_› h
  · rfl

theorem fillingSlot_content (v : Slot) : (fillingSlot v).content = v.content := by
  unfold fillingSlot
  split <;> rfl

theorem choose_slot_of_ne {s : State} {i : SlotId} (h : (s.slot i).state ≠ .held) : (choose s).slot i = s.slot i := by
  rcases choose_slot s i with e | e
  · exact e
  · rw [e, fillingSlot_of_ne h]

theorem choose_slot_content (s : State) (i : SlotId) : ((choose s).slot i).content = (s.slot i).content := by
  rcases choose_slot s i with e | e <;> rw [e]
  exact fillingSlot_content _

theorem startedSweep_id (level : Nat) (w : Sweep) : (startedSweep level w).id = w.id := by
  unfold startedSweep
  split <;> rfl

/-- The choice rewrites at most one record, as one that starts (R57). -/
theorem choose_seq (s : State) : (choose s).seq.queue = s.seq.queue ∨
    ∃ id level, (choose s).seq.queue = (s.updateSweep id (startedSweep level)).seq.queue := by
  rcases choose_cases s with e | ⟨k, g, -, e⟩ | ⟨k, w, -, -, -, -, e⟩ <;> rw [e]
  · exact .inl rfl
  · exact .inl (by simp)
  · exact .inr ⟨_, _, by rw [startAcquisition_seq]⟩

/-- What the start of an acquisition leaves of a record, the choice leaves of every record. -/
theorem choose_map {α : Type} (f : Sweep → α) (hf : ∀ level w, f (startedSweep level w) = f w) (s : State) :
    (choose s).seq.queue.map f = s.seq.queue.map f := by
  rcases choose_seq s with e | ⟨id, level, e⟩ <;> rw [e]
  simp only [State.updateSweep, State.setSeq_seq, List.map_map]
  refine List.map_congr_left fun w _ => ?_
  simp only [Function.comp]
  split
  exacts [hf level w, rfl]

/-- The record of an id after a rewriting that keeps the ids. -/
theorem findSweep_updateSweep {f : Sweep → Sweep} (hf : ∀ w, (f w).id = w.id) (s : State) (id i : Nat) :
    (s.updateSweep id f).findSweep i = (s.findSweep i).map fun w => if i = id then f w else w := by
  have hid : ∀ w : Sweep, (if w.id == id then f w else w).id = w.id := fun w => by split <;> simp [hf]
  simp only [State.findSweep, State.updateSweep, State.setSeq_seq, List.find?_map, Function.comp_def, hid]
  cases hw : s.seq.queue.find? fun w => w.id == i with
  | none => rfl
  | some w =>
    have hwi : w.id = i := by simpa using List.find?_some hw
    simp [hwi]

theorem findSweep_id {s : State} {id : Nat} {w : Sweep} (h : s.findSweep id = some w) : w.id = id := by
  simpa using List.find?_some h

theorem findSweep_of_queue {s t : State} (h : t.seq.queue = s.seq.queue) (id : Nat) : t.findSweep id = s.findSweep id := by
  rw [State.findSweep, h, State.findSweep]

/-- A record after the choice is as it was, or has started one more acquisition (R57). -/
theorem choose_findSweep {s : State} {id : Nat} {w : Sweep} (h : s.findSweep id = some w) :
    (choose s).findSweep id = some w ∨ ∃ level, (choose s).findSweep id = some (startedSweep level w) := by
  rcases choose_seq s with e | ⟨id', level, e⟩ <;> rw [findSweep_of_queue e]
  · exact .inl h
  · rw [findSweep_updateSweep (startedSweep_id level), h]
    by_cases hid : id = id'
    · exact .inr ⟨level, by simp [hid]⟩
    · exact .inl (by simp [hid])

/-! ### The acquisition job (R91) -/

theorem exec_acquisitionJobComplete {s : State} {n : Nat} {j : CorJob} {id l k : Nat} {g : LegId} (hs : s.inReset = false)
    (hj : s.cor.job = some j) (howner : (s.cap.half j.half).owner = some (.acquisition id g l k)) :
    exec (.acquisitionJobComplete n) s = .next (afterJob (endJob j.half (acquisitionAdded n j id l k s))) := by
  show execAcquisitionJobComplete n s = _
  rw [execAcquisitionJobComplete, State.live, hs]
  dsimp only
  rw [hj]
  dsimp only
  rw [howner]
  rfl

theorem State.atEndOfWork_clock (n start limit : Nat) (s : State) :
    (s.atEndOfWork n start limit).time.clock = max (max (start + 1) (min (s.time.clock + n) (start + limit))) s.time.clock :=
  State.atClock_clock _ _

@[simp] theorem addCapture_time (w : Sweep) (h : Half) (l k : Nat) (s : State) : (addCapture w h l k s).time = s.time := by
  unfold addCapture mapContent
  dsimp only
  split <;> simp

theorem acquisitionAdded_time (n : Nat) (j : CorJob) (id l k : Nat) (s : State) :
    (acquisitionAdded n j id l k s).time = (s.atEndOfWork n j.takenAt (l * k / 10)).time := by
  unfold acquisitionAdded
  dsimp only
  split <;> simp

theorem addProfile_range {acc : List Nat} {k : Nat} (h : acc.length = k) (f : Nat → Nat) :
    addProfile acc ((List.range k).map f) = (List.range k).map fun i => acc.getD i 0 + f i := by
  refine List.ext_getElem (by simp [addProfile, h]) fun i hi _ => ?_
  have hlt : i < acc.length := by
    simp [addProfile] at hi
    omega
  simp [addProfile, hlt]

/-- The slot of a captured sweep, with the capture in its accumulator (R91). -/
theorem addCapture_slot (w : Sweep) (h : Half) (l k : Nat) {s : State} {v : SlotContent}
    (hslot : s.slot w.slot = ⟨.filling, some v⟩) : (addCapture w h l k s).slot w.slot =
      ⟨if w.done + 1 = w.n then .analysing else .filling, some { v with
        acc := v.acc.map fun a => addProfile a ((List.range k).map (crossCorrelation l h.signed))
        analysisStart := if w.done + 1 = w.n then some s.time.clock else v.analysisStart }⟩ := by
  have hkeep : ∀ (f : Sweep → Sweep), (s.updateSweep w.id f).slot w.slot = ⟨.filling, some v⟩ := fun f => hslot
  unfold addCapture mapContent
  dsimp only
  by_cases hn : w.done + 1 = w.n
  · simp [hn, hkeep]
  · simp [hn, hkeep]

/-- A record that has started keeps its state, its done and its flags at the choice (R57). -/
theorem choose_findSweep_started {s : State} {id : Nat} {w : Sweep} (h : s.findSweep id = some w) (hw : w.state ≠ .queued) :
    ∃ w', (choose s).findSweep id = some w' ∧ w'.done = w.done ∧ w'.flags = w.flags ∧ w'.state = w.state := by
  rcases choose_findSweep h with e | ⟨level, e⟩
  · exact ⟨w, e, rfl, rfl, rfl⟩
  · refine ⟨_, e, ?_⟩
    unfold startedSweep
    split
    · exact absurd ‹_› hw
    · exact ⟨rfl, rfl, rfl⟩

theorem acquisitionAdded_gone (n : Nat) (j : CorJob) {id : Nat} (l k : Nat) {s : State} (h : s.findSweep id = none) :
    acquisitionAdded n j id l k s = s.atEndOfWork n j.takenAt (l * k / 10) := by
  unfold acquisitionAdded
  dsimp only
  rw [findSweep_of_queue (s := s) (by simp), h]

theorem acquisitionAdded_lives (n : Nat) (j : CorJob) {id : Nat} (l k : Nat) {s : State} {w : Sweep} (h : s.findSweep id = some w) :
    acquisitionAdded n j id l k s = addCapture w (s.cap.half j.half) l k (s.atEndOfWork n j.takenAt (l * k / 10)) := by
  unfold acquisitionAdded
  dsimp only
  rw [findSweep_of_queue (s := s) (by simp), h]

/-- Settles O33: the end of the job is followed through the correlator's take and the choice. -/
theorem acquisitionJobAddsItsCapture : Obligations.AcquisitionJobAddsItsCapture := by
  unfold Obligations.AcquisitionJobAddsItsCapture
  intro s n j id g l k hs hj howner
  generalize hu : acquisitionAdded n j id l k s = u
  have hlater : ∀ i, (afterJob (endJob j.half u)).slot i = (choose (correlatorTake (endJob j.half u))).slot i := fun _ => rfl
  have htaken : ∀ i, (correlatorTake (endJob j.half u)).slot i = u.slot i := fun i => correlatorTake_slot _ i
  have hqueue : (correlatorTake (endJob j.half u)).seq.queue = u.seq.queue := by simp
  have hclock : (afterJob (endJob j.half u)).time.clock =
      max (max (j.takenAt + 1) (min (s.time.clock + n) (j.takenAt + l * k / 10))) s.time.clock := by
    rw [← State.atEndOfWork_clock, ← acquisitionAdded_time n j id l k s, hu]
    simp [afterJob]
  refine ⟨_, (exec_acquisitionJobComplete hs hj howner).trans (by rw [hu]), afterJob_half _ _, by omega, by omega, ?_, ?_, ?_, ?_, ?_,
    ?_, ?_, fun hnone => ⟨?_, fun i => ?_⟩, fun w v acc hw hslot hacc hlen hstate => ?_⟩
  iterate 7 · simp [afterJob, ← hu]
  · have hgone := hu.symm.trans (acquisitionAdded_gone n j l k hnone)
    refine (choose_map _ (fun level v => ?_) _).trans ?_
    · unfold startedSweep
      split <;> rfl
    · rw [hqueue, hgone]
      simp
  · have hgone := hu.symm.trans (acquisitionAdded_gone n j l k hnone)
    rw [hlater, choose_slot_content, htaken, hgone]
    simp [State.slot]
  · have hid := findSweep_id hw
    have hadd := hu.symm.trans (acquisitionAdded_lives n j l k hw)
    have hrecord : u.findSweep id = some (capturedSweep w (s.cap.half j.half) w) := by
      rw [hadd, findSweep_of_queue (congrArg Sequencer.queue (addCapture_seq ..)), findSweep_updateSweep (f := capturedSweep w (s.cap.half j.half)) (fun _ => rfl),
        findSweep_of_queue (s := s) (by simp), hw, hid]
      simp
    have hcontent := addCapture_slot w (s.cap.half j.half) l k (s := s.atEndOfWork n j.takenAt (l * k / 10)) (v := v)
      (by simpa [State.slot] using hslot)
    rw [← hadd] at hcontent
    have hstays : (choose (correlatorTake (endJob j.half u))).slot w.slot = u.slot w.slot := by
      rw [choose_slot_of_ne (by rw [htaken, hcontent]; dsimp only; split <;> decide), htaken]
    have htime : u.time = (s.atEndOfWork n j.takenAt (l * k / 10)).time := by rw [← hu, acquisitionAdded_time]
    have hcaptured : (capturedSweep w (s.cap.half j.half) w).state = if w.done + 1 = w.n then .analysing else .acquiring := by
      simp [capturedSweep, hstate]
    have hnot : (capturedSweep w (s.cap.half j.half) w).state ≠ .queued := by
      rw [hcaptured]
      split <;> decide
    obtain ⟨w', hw', hdone, hflags, hstate'⟩ :=
      choose_findSweep_started ((findSweep_of_queue hqueue id).trans hrecord) hnot
    refine ⟨w', _, hw', hdone, hflags, hstate'.trans hcaptured, ((hlater _).trans hstays).trans hcontent, ?_⟩
    rw [hacc, Option.map_some, addProfile_range hlen]
    simp [afterJob, htime]

end Sys2Proof.Machine
end

section
/-! PROOFS. Work that is cut off, the end of a sweep, and SWEEP_CANCEL (R62, R64 to R66, R85, R110, R115). -/

namespace Sys2Proof.Machine

open Sys2Proof

/-! ### A half cut off (R62, R85, R89) -/

theorem Capture.finish_half {c : Capture} {h : HalfId} (hfilling : c.inState .filling = some h) (clock : Nat) (void : Bool) :
    (c.finish clock void).half h =
      { c.half h with state := .full, void := void, fillOrder := some clock, turn := c.fills } := by
  unfold Capture.finish
  rw [hfilling]
  exact Capture.half_setHalf _ _ _

theorem Capture.finish_other {c : Capture} {h k : HalfId} (hfilling : c.inState .filling = some h) (hk : k ≠ h) (clock : Nat)
    (void : Bool) : (c.finish clock void).half k = c.half k := by
  unfold Capture.finish
  rw [hfilling]
  exact Capture.half_setHalf_other _ _ hk

theorem Capture.finish_stream (c : Capture) (clock : Nat) (void : Bool) :
    (c.finish clock void).stream = .none ∧ (c.finish clock void).sampling = none ∧ (c.finish clock void).waiting = c.waiting ∧
      (c.finish clock void).coupler = c.coupler := by
  unfold Capture.finish
  split
  · exact ⟨rfl, rfl, rfl, rfl⟩
  · next h _ => cases h <;> exact ⟨rfl, rfl, rfl, rfl⟩

/-- A BUSY correlator takes nothing (R89). -/
theorem correlatorTake_busy {s : State} (h : s.cor.job ≠ none) : correlatorTake s = s := by
  obtain ⟨j, hj⟩ := Option.ne_none_iff_exists'.mp h
  unfold correlatorTake takeHalves
  rw [hj]

theorem Capture.oldestFull_eq_none {c : Capture} (h : ∀ k, (c.half k).state ≠ .full) : c.oldestFull = none := by
  cases e : c.oldestFull with
  | none => rfl
  | some k => exact absurd (Capture.oldestFull_state e) (h k)

theorem Capture.oldestFull_eq_some {c : Capture} {h : HalfId} (hfull : (c.half h).state = .full)
    (hother : ∀ k, k ≠ h → (c.half k).state ≠ .full) : c.oldestFull = some h := by
  have h0 : ∀ c : Capture, c.half .h0 = c.half0 := fun _ => rfl
  have h1 : ∀ c : Capture, c.half .h1 = c.half1 := fun _ => rfl
  unfold Capture.oldestFull
  cases h with
  | h0 =>
    have hno := hother .h1 (by decide)
    rw [h0] at hfull
    rw [h1] at hno
    rw [hfull, beq_eq_false_iff_ne.mpr hno]
    rfl
  | h1 =>
    have hno := hother .h0 (by decide)
    rw [h1] at hfull
    rw [h0] at hno
    rw [hfull, beq_eq_false_iff_ne.mpr hno]
    rfl

/-- An IDLE correlator takes nothing when no half is FULL (R89). -/
theorem takeHalves_none {s : State} (h : ∀ k, (s.cap.half k).state ≠ .full) (n : Nat) : takeHalves n s = s := by
  cases n with
  | zero => rfl
  | succ n =>
    unfold takeHalves
    rw [Capture.oldestFull_eq_none h]
    cases s.cor.job <;> rfl

/-- The only FULL half, when it is void, is freed by an IDLE correlator (R89). -/
theorem correlatorTake_void {s : State} {h : HalfId} (hjob : s.cor.job = none) (hfull : (s.cap.half h).state = .full)
    (hvoid : (s.cap.half h).void = true) (hother : ∀ k, k ≠ h → (s.cap.half k).state ≠ .full) :
    correlatorTake s = releaseHalf h s := by
  have hempty : ∀ k, ((releaseHalf h s).cap.half k).state ≠ .full := fun k => by
    by_cases hk : k = h
    · subst hk
      show ((s.cap.setHalf k _).half k).state ≠ _
      rw [Capture.half_setHalf]
      exact fun e => by cases e
    · show ((s.cap.setHalf h _).half k).state ≠ _
      rw [Capture.half_setHalf_other _ _ hk]
      exact hother k hk
  unfold correlatorTake
  rw [takeHalves, hjob, Capture.oldestFull_eq_some hfull hother]
  dsimp only
  rw [hvoid, Bool.true_or, if_pos rfl, takeHalves_none hempty]

section
variable {s t : State} {h : HalfId} (hfilling : s.cap.inState .filling = some h)
  (hcap : t.cap = s.cap.finish s.time.clock true) (hcor : t.cor = s.cor)
include hfilling hcap hcor

/-- With the correlator BUSY, a half that is cut off stands FULL and void (R85). -/
theorem cut_full (hjob : s.cor.job ≠ none) : (correlatorTake t).cor = s.cor ∧ (correlatorTake t).cap.half h =
    { s.cap.half h with state := .full, void := true, fillOrder := some s.time.clock, turn := s.cap.fills } := by
  rw [correlatorTake_busy (hcor ▸ hjob), hcap]
  exact ⟨hcor, Capture.finish_half hfilling _ _⟩

/-- With the correlator IDLE and no other half FULL, a half that is cut off is freed (R89). -/
theorem cut_freed (hjob : s.cor.job = none) (hother : ∀ k, k ≠ h → (s.cap.half k).state ≠ .full) :
    (correlatorTake t).cor = s.cor ∧ (correlatorTake t).cap.half h = (s.cap.half h).release := by
  have hhalf := Capture.finish_half hfilling s.time.clock true
  rw [correlatorTake_void (h := h) (hcor ▸ hjob) (by rw [hcap, hhalf]) (by rw [hcap, hhalf]) fun k hk => by
    rw [hcap, Capture.finish_other hfilling hk]
    exact hother k hk]
  refine ⟨hcor, ?_⟩
  show (t.cap.setHalf h (t.cap.half h).release).half h = _
  rw [Capture.half_setHalf, hcap, hhalf]
  rfl

/-- The two outcomes of a cut (R85, R89). -/
theorem cutOff_taken : CutOff s (correlatorTake t) h := by
  refine ⟨fun hjob => ?_, fun hjob hother => ?_⟩
  · rw [(cut_full hfilling hcap hcor hjob).2]
    exact ⟨rfl, rfl, rfl, rfl⟩
  · rw [(cut_freed hfilling hcap hcor hjob hother).2]
    exact ⟨rfl, .inl rfl⟩

end

/-- What is cut off stays so at the choice, but for a new grant of a half that has been freed (R84). -/
theorem CutOff.choose {s t : State} {h : HalfId} (hcut : CutOff s t h) : CutOff s (choose t) h := by
  refine ⟨fun hjob => ?_, fun hjob hother => ?_⟩
  · have hfull := hcut.1 hjob
    rwa [choose_half (by rw [hfull.1]; decide)]
  · obtain ⟨hvoid, hstate⟩ := hcut.2 hjob hother
    rcases choose_half_granted h t with e | ⟨o, e⟩ <;> rw [e]
    · exact ⟨hvoid, hstate⟩
    · exact ⟨rfl, .inr rfl⟩

theorem CutOff.of_cap {s t u : State} {h : HalfId} (hcut : CutOff s t h) (hcap : u.cap = t.cap) : CutOff s u h := by
  unfold CutOff
  rwa [hcap]

theorem CutOff.of_start {s s' t : State} {h : HalfId} (hcut : CutOff s t h) (hcor : s'.cor = s.cor) (hcap : s'.cap = s.cap)
    (htime : s'.time = s.time) : CutOff s' t h := by
  unfold CutOff
  rwa [hcor, hcap, htime]

section
variable {s : State} {a : InFlight} (ha : s.seq.inFlight = some a)
include ha

theorem abandon_eq : abandon s = correlatorTake (((probeIdle (s.setCap (s.cap.finish s.time.clock true))).setSeq
    { s.seq with inFlight := none }).updateSweep a.sweepId fun w => { w with started := w.started - 1 }) := by
  unfold abandon
  rw [ha]
  rfl

theorem abandon_cutOff {h : HalfId} (hfilling : s.cap.inState .filling = some h) : CutOff s (abandon s) h := by
  rw [abandon_eq ha]
  exact cutOff_taken hfilling rfl rfl

theorem abandon_seq : (abandon s).seq = { s.seq with
    inFlight := none
    queue    := s.seq.queue.map fun w => if w.id == a.sweepId then { w with started := w.started - 1 } else w } := by
  rw [abandon_eq ha]
  simp [State.updateSweep]

end

/-! ### The divider's jobs (R110, R115) -/

/-- Every job that waits for the divider is one of which `P` holds. -/
structure Divider.AllJobs (P : Job → Prop) (d : Divider) : Prop where
  queue   : ∀ j ∈ d.queue, P j
  waiting : ∀ b ∈ d.waiting, ∀ j ∈ b, P j

theorem Divider.AllJobs.entered {P : Job → Prop} {d e : Divider} (h : d.AllJobs P) (he : Entered d e) : e.AllJobs P := by
  obtain ⟨-, -, entered, hwaiting, hqueue, -, -⟩ := he
  refine ⟨fun j hj => ?_, fun b hb => h.waiting b (hwaiting ▸ List.mem_append_right _ hb)⟩
  rw [hqueue, List.mem_append, List.mem_flatten] at hj
  rcases hj with hj | ⟨b, hb, hjb⟩
  · exact h.queue j hj
  · exact h.waiting b (hwaiting ▸ List.mem_append_left _ hb) j hjb

theorem Divider.AllJobs.pump {P : Job → Prop} {d : Divider} (h : d.AllJobs P) (clock : Nat) : (d.pump clock).AllJobs P := by
  have hin := h.entered d.letIn_entered
  refine Divider.AllJobs.entered ?_ (Divider.letIn_entered _)
  rcases d.letIn.start_cases clock with ⟨j, rest, -, hqueue, e⟩ | ⟨-, e⟩ <;> rw [e]
  · exact ⟨fun i hi => hin.queue i (hqueue ▸ List.mem_cons_of_mem _ hi), hin.waiting⟩
  · exact hin

/-- Of the jobs that are removed none is left, and no job is new (R115). -/
theorem Divider.remove_allJobs {P : Job → Prop} {d : Divider} (clock : Nat) (p : JobOwner → Bool)
    (h : d.AllJobs fun j => p j.owner = false → P j) : (d.remove clock p).AllJobs P := by
  refine Divider.AllJobs.pump ⟨fun j hj => ?_, fun b hb j hj => ?_⟩ clock
  · obtain ⟨hmem, howner⟩ := List.mem_filter.mp hj
    exact h.queue j hmem (by simpa using howner)
  · obtain ⟨b', hb', rfl⟩ := List.mem_map.mp (List.mem_filter.mp hb).1
    obtain ⟨hmem, howner⟩ := List.mem_filter.mp hj
    exact h.waiting b' hb' j hmem (by simpa using howner)

theorem Divider.remove_turn (clock : Nat) (p : JobOwner → Bool) (d : Divider) : DividerTurn clock { d with
    queue   := d.queue.filter fun j => !p j.owner
    waiting := (d.waiting.map fun b => b.filter fun j => !p j.owner).filter fun b => b ≠ [] } (d.remove clock p) := by
  have hempty : (fun b : List Job => decide (b ≠ [])) = fun b => !b.isEmpty := by
    funext b
    cases b <;> rfl
  rw [hempty]
  exact Divider.pump_turn clock _

/-! ### A sweep ends (R64) -/

theorem findSweep_none_iff_roster {s : State} {id : Nat} : s.findSweep id = none ↔ ∀ w ∈ s.roster.queue, w.id ≠ id := by
  rw [findSweep_eq_none, State.roster, keptRecords_eq]
  simp [Sweep.kept]

/-- The choice leaves in flight what was, or a record of the queue that may start (R56, R57). -/
theorem choose_flight (s : State) : (choose s).seq.inFlight = s.seq.inFlight ∨ ∃ w ∈ s.seq.queue, MayStart s w ∧
    (choose s).seq.inFlight = some ⟨w.id, w.leg, basisOf s w.leg, s.time.timebase, s.time.clock⟩ := by
  rcases choose_cases s with e | ⟨k, g, -, e⟩ | ⟨k, w, -, -, -, hchosen, e⟩ <;> rw [e]
  · exact .inl rfl
  · exact .inl (by simp)
  · exact .inr ⟨w, List.mem_of_find?_eq_some hchosen, (eligible_iff s w).mp (List.find?_some hchosen), by rw [startAcquisition_seq]⟩

/-- The state in which a sweep that is not DONE has left the queue and its slot is FREE, its jobs removed (R64). -/
def sweepRemoved (w : Sweep) (s : State) : State :=
  ((dropSweep w.id s).setDiv (s.div.remove s.time.clock (JobOwner.ofSweep w.id))).setSlot w.slot ⟨.free, none⟩

theorem sweepRemoved_roster (w : Sweep) (s : State) : (sweepRemoved w s).roster = s.roster.without w.id :=
  (roster_of_seq (by simp [sweepRemoved])).trans (dropSweep_roster w.id s)

theorem sweepRemoved_gone (w : Sweep) (s : State) : (sweepRemoved w s).findSweep w.id = none := by
  rw [findSweep_none_iff_roster, sweepRemoved_roster]
  intro v hv
  simpa [Sequencer.without] using (List.mem_filter.mp hv).2

theorem flies_iff {s : State} {id : Nat} : flies s id = true ↔ ∃ a, s.seq.inFlight = some a ∧ a.sweepId = id := by
  unfold flies
  cases s.seq.inFlight <;> simp

/-- The acquisition in flight of a sweep that leaves the queue is abandoned; another goes on (R64). -/
theorem dropSweep_flies {s : State} {id : Nat} (h : flies s id = true) :
    dropSweep id s = abandon (s.setSeq { s.seq with queue := s.seq.queue.filter fun w => w.id != id }) := by
  obtain ⟨a, ha, hid⟩ := flies_iff.mp h
  unfold dropSweep
  dsimp only
  rw [ha]
  exact if_pos hid

theorem dropSweep_stays {s : State} {id : Nat} (h : ¬ flies s id = true) :
    dropSweep id s = s.setSeq { s.seq with queue := s.seq.queue.filter fun w => w.id != id } := by
  unfold dropSweep
  dsimp only
  split
  · next a ha => exact if_neg fun hid => h (flies_iff.mpr ⟨a, ha, hid⟩)
  · rfl

/-- No acquisition of a sweep that has left the queue is in flight. -/
theorem sweepRemoved_flight (w : Sweep) (s : State) : ∀ a, (sweepRemoved w s).seq.inFlight = some a → a.sweepId ≠ w.id := by
  intro a ha
  have hseq : (sweepRemoved w s).seq = (dropSweep w.id s).seq := by simp [sweepRemoved]
  rw [hseq] at ha
  by_cases hflies : flies s w.id = true
  · obtain ⟨b, hb, -⟩ := flies_iff.mp hflies
    have hnone := congrArg Sequencer.inFlight (abandon_seq
      (s := s.setSeq { s.seq with queue := s.seq.queue.filter fun v => v.id != w.id }) (a := b) hb)
    rw [dropSweep_flies hflies, hnone] at ha
    cases ha
  · rw [dropSweep_stays hflies] at ha
    exact fun hid => hflies (flies_iff.mpr ⟨a, ha, hid⟩)

theorem sweepRemoved_ended (w : Sweep) (s : State) : Ended (sweepRemoved w s) w := by
  have hjobs : (sweepRemoved w s).div.AllJobs fun j => JobOwner.ofSweep w.id j.owner = false :=
    Divider.remove_allJobs s.time.clock (JobOwner.ofSweep w.id) ⟨fun _ _ h => h, fun _ _ _ _ h => h⟩
  exact ⟨sweepRemoved_gone w s, by simp [sweepRemoved], hjobs.queue, hjobs.waiting, sweepRemoved_flight w s⟩

theorem Ended.of_same {s t : State} {w : Sweep} (h : Ended s w) (hseq : t.seq = s.seq) (hprof : t.prof = s.prof) (hdiv : t.div = s.div) :
    Ended t w :=
  ⟨(findSweep_of_queue (congrArg Sequencer.queue hseq) _).trans h.record, by rw [State.slot, hprof]; exact h.slot, hdiv ▸ h.jobs,
    hdiv ▸ h.batches, hseq ▸ h.flight⟩

theorem Ended.choose {s : State} {w : Sweep} (h : Ended s w) : Ended (choose s) w where
  record := by
    rw [findSweep_none_iff_roster, choose_roster, ← findSweep_none_iff_roster]
    exact h.record
  slot := by rw [choose_slot_of_ne (by rw [h.slot]; decide), h.slot]
  jobs := by simpa using h.jobs
  batches := by simpa using h.batches
  flight := by
    rcases choose_flight s with e | ⟨v, hv, -, e⟩ <;> rw [e]
    · exact h.flight
    · rintro a ⟨⟩
      exact findSweep_eq_none.mp h.record v hv

theorem endSweep_eq {s : State} {w : Sweep} (hw : s.findSweep w.id = some w) {o : SweepOutcome} (ho : o ≠ .done ∧ o ≠ .doneClipped) :
    endSweep w.id o 0 0 s = (if flies s w.id then choose (post (sweepEndIn s o (s.leg w.leg).level w) (sweepRemoved w s))
      else post (sweepEndIn s o (s.leg w.leg).level w) (sweepRemoved w s)) := by
  have hslot : ∀ v : Slot, endedSlot o w.flags s.time.timebase v = ⟨.free, none⟩ := fun v => by
    unfold endedSlot
    split
    · exact absurd rfl ho.1
    · exact absurd rfl ho.2
    · rfl
  have hpeaks : peakCount (s.slot w.slot) = ((s.slot w.slot).content.bind (·.peaks)).elim 0 (·.length) := by
    unfold peakCount
    cases (s.slot w.slot).content.bind (·.peaks) <;> rfl
  have hremoved : ((dropSweep w.id s).setDiv ((dropSweep w.id s).div.remove (dropSweep w.id s).time.clock (JobOwner.ofSweep w.id))).setSlot
      w.slot ⟨.free, none⟩ = sweepRemoved w s := by simp [sweepRemoved]
  unfold endSweep
  rw [hw]
  dsimp only
  rw [hslot, hremoved, hpeaks]
  rfl

section
variable {s : State} {w : Sweep} (hw : s.findSweep w.id = some w) {o : SweepOutcome} (ho : o ≠ .done ∧ o ≠ .doneClipped)
include hw ho

theorem endSweep_ended : Ended (endSweep w.id o 0 0 s) w := by
  have hpost := (sweepRemoved_ended w s).of_same (t := post (sweepEndIn s o (s.leg w.leg).level w) (sweepRemoved w s)) rfl rfl rfl
  rw [endSweep_eq hw ho]
  split
  · exact hpost.choose
  · exact hpost

theorem endSweep_div : (endSweep w.id o 0 0 s).div = s.div.remove s.time.clock (JobOwner.ofSweep w.id) := by
  rw [endSweep_eq hw ho]
  split <;> simp [sweepRemoved]

/-- The acquisition in flight of a sweep that ends is cut off (R62, R64). -/
theorem endSweep_cutOff {h : HalfId} (hflies : flies s w.id = true) (hfilling : s.cap.inState .filling = some h) :
    CutOff s (endSweep w.id o 0 0 s) h := by
  obtain ⟨a, ha, -⟩ := flies_iff.mp hflies
  rw [endSweep_eq hw ho, if_pos hflies]
  refine CutOff.choose ?_
  have hcut := abandon_cutOff (s := s.setSeq { s.seq with queue := s.seq.queue.filter fun v => v.id != w.id }) (a := a) ha hfilling
  rw [← dropSweep_flies hflies] at hcut
  exact (hcut.of_start rfl rfl rfl).of_cap (by simp [sweepRemoved])

end

/-! ### SWEEP_CANCEL (R66) -/

theorem keptRecords_without {s t : State} {id : Nat} (h : t.roster = s.roster.without id) :
    keptRecords t.seq.queue = keptRecords (s.seq.queue.filter fun v => v.id ≠ id) := by
  have hqueue : keptRecords t.seq.queue = (s.roster.without id).queue := by rw [← h, State.roster]
  rw [hqueue, Sequencer.without, State.roster, keptRecords_filter _ fun _ => rfl]
  exact List.filter_congr fun v _ => by by_cases hv : v.id = id <;> simp [hv]

theorem serveSweepCancel_none {p : List Byte} {s : State} (h : s.findSweep (field p 0 1) = none) :
    serveSweepCancel p s = (s, refuse .notFound) := by
  rw [serveSweepCancel, h]

theorem serveSweepCancel_some {p : List Byte} {s : State} {w : Sweep} (h : s.findSweep (field p 0 1) = some w) :
    serveSweepCancel p s = (endSweep w.id .cancelled 0 0 s, okReply (u8 w.state.code ++ u8 w.started ++ u8 w.done)) := by
  rw [serveSweepCancel, h]

theorem Message.post_full {m : Message} (hfull : 32 ≤ m.reports.length) (clock : Nat) (r : Report) :
    m.post clock r = { m with reportsLost := min 65535 (m.reportsLost + 1) } := by
  rw [Message.post, if_pos hfull]
  rfl

theorem State.after_inState (n : Nat) (s : State) (st : HalfState) : (s.after n).cap.inState st = s.cap.inState st := by
  simp [State.after, State.passTo]

/-- Settles O26: the end of the sweep with its report, answered. -/
theorem sweepCancelEndsTheSweep : Obligations.SweepCancelEndsTheSweep := by
  unfold Obligations.SweepCancelEndsTheSweep
  intro n id tag s h
  refine ⟨fun hnone => ?_, fun w hfind _ => ?_⟩
  · refine exec_legRead h rfl rfl (serveSweepCancel_none (s := (s.after n).holding) ?_)
    rw [field_leg]
    exact hnone
  · generalize hx : (s.after n).holding = x
    have hid := findSweep_id hfind
    have hw : x.findSweep w.id = some w := by rw [← hx, hid]; exact hfind
    have hserve := serveSweepCancel_some (p := [id]) (s := x) (w := w) (by rw [field_leg, ← hid]; exact hw)
    have ho : SweepOutcome.cancelled ≠ .done ∧ SweepOutcome.cancelled ≠ .doneClipped := ⟨by decide, by decide⟩
    have hslot := (PostsOnly.serveSweepCancel [id] x).slot (hx ▸ held_of_ready (h.after n))
    rw [hserve] at hslot
    obtain ⟨t, ht, hans⟩ := exec_answers (c := .sweepCancel n tag [id]) (f := ⟨0x19, tag, [id]⟩) h rfl rfl rfl
      ((congrArg (serveSweepCancel [id]) hx).trans hserve) hslot
    have hmsg := endSweep_report hw rfl .cancelled
    obtain ⟨-, -, htime, -, hplan, hlegs, hseq, -, hcap, -, hprof, hdiv, harith, hmap, hstray, -⟩ := hans.frame
    have hxmsg : x.msg = { s.msg with hold := true } := by rw [← hx]; simp [State.holding, State.after]
    have hreport : sweepEndIn x .cancelled (x.leg w.leg).level w = sweepEndIn (s.after n) .cancelled (s.leg w.leg).level w := by
      rw [← hx]; rfl
    rw [hreport, hxmsg] at hmsg
    refine ⟨t, ht, (endSweep_ended hw ho).of_same hseq hprof hdiv, ?_, ?_, fun a k ha haid hk => ?_, fun hroom => ?_, fun hfull => ?_,
      hans.answered, ?_⟩
    · have hroster : t.roster = x.roster.without w.id := (roster_of_seq hseq).trans (endSweep_roster ..)
      have hqueue : x.seq.queue = s.seq.queue := by rw [← hx]; simp [State.holding, State.after]
      rw [keptRecords_without hroster, hqueue]
    · rw [hdiv, endSweep_div hw ho, ← hx]
      exact Divider.remove_turn _ _ _
    · have hcut := endSweep_cutOff (s := x) hw ho (h := k) (flies_iff.mpr ⟨a, by rw [← hx]; exact ha, haid⟩)
        (by rw [← hx]; exact (State.after_inState n s .filling).trans hk)
      exact (hcut.of_start (by rw [← hx]; rfl) (by rw [← hx]; rfl) (by rw [← hx]; rfl)).of_cap hcap
    · refine hans.joined ?_
      rw [hmsg, Message.post_room (m := { s.msg with hold := true }) rfl hroom]
    · have hbusy : s.msg.tx ≠ none := fun hidle => by
        have hempty := h.idleEmpty hidle
        rw [hempty] at hfull
        simp at hfull
      rw [Message.post_full (m := { s.msg with hold := true }) hfull] at hmsg
      refine ⟨(hans.busy ?_).trans ?_, hans.lost.trans ?_⟩ <;> rw [hmsg]
      exact hbusy
    · rw [htime, hplan, hlegs, harith, hmap, hstray, ← hx]
      simp [State.holding, State.after]

end Sys2Proof.Machine
end

section
/-! PROOFS. SWEEP_REQ: its checks, and the record and slot of an accepted sweep (R52 to R57). -/

namespace Sys2Proof.Machine

open Sys2Proof

/-! ### The record that joins (R52, R53) -/

/-- The record of an accepted SWEEP_REQ. -/
def requestedSweep (g : LegId) (i : SlotId) (n : Nat) (o : Options) (s : State) : Sweep :=
  ⟨allocateId 5 s.seq.nextId (s.seq.queue.map (·.id)), g, i, n, 0, 0, o, .queued, acquisitionMicros (s.legSettings g), none, .none⟩

/-- The state with an accepted sweep at the tail of the queue and its slot HELD, before the choice. -/
def sweepQueued (g : LegId) (i : SlotId) (n : Nat) (o : Options) (s : State) : State :=
  let w := requestedSweep g i n o s
  (s.setSeq { s.seq with queue := s.seq.queue ++ [w], nextId := nextIdAfter w.id }).setSlot i
    ⟨.held, some (heldContent w (s.legSettings g).profileBins)⟩

theorem requestedSweep_fresh {g : LegId} {i : SlotId} {n : Nat} {o : Options} {s : State} (h : QueueInv s) :
    ∀ v ∈ s.seq.queue, v.id ≠ (requestedSweep g i n o s).id := by
  intro v hv hid
  have hfresh := allocateId_fresh (n := 5) (used := s.seq.queue.map (·.id)) h.nextId.1 h.nextId.2 (by decide)
    (by simpa using Nat.lt_succ_of_le h.sweeps)
  exact hfresh (List.mem_map.mpr ⟨v, hv, hid⟩)

section
variable {g : LegId} {i : SlotId} {n : Nat} {o : Options} {s : State}

theorem sweepQueued_queue : (sweepQueued g i n o s).seq.queue = s.seq.queue ++ [requestedSweep g i n o s] := by simp [sweepQueued]

theorem sweepQueued_slot : (sweepQueued g i n o s).slot i =
    ⟨.held, some (heldContent (requestedSweep g i n o s) (s.legSettings g).profileBins)⟩ := by simp [sweepQueued]

theorem mayStart_sweepQueued (w : Sweep) : MayStart (sweepQueued g i n o s) w ↔ MayStart s w :=
  mayStart_congr rfl rfl rfl rfl w

/-- When the record that joins may start (R56). -/
theorem mayStart_requested (hn : 0 < n) (hleg : (s.leg g).state = .enabled) (hadm : s.admissible g = true) :
    MayStart s (requestedSweep g i n o s) ↔ (s.windowFree g = true ∨ ∃ w, s.openWindow = some w ∧ w.legs.get g = true ∧
      s.time.timebase + acquisitionMicros (s.legSettings g) ≤ w.stop) :=
  ⟨fun h => h.2.2.2.2, fun h => ⟨.inl rfl, hn, hleg, hadm, h⟩⟩

/-- Whether the record that joins is the one that starts. -/
def StartsAtOnce (s : State) (w : Sweep) : Prop :=
  s.seq.inFlight = none ∧ s.cap.inState .filling = none ∧ s.cap.inState .free ≠ none ∧ (∀ v ∈ s.seq.queue, ¬ MayStart s v) ∧ MayStart s w

/-- The record that joins starts at once (R55 to R57). -/
theorem choose_sweepQueued_starts (hq : QueueInv s) (hstarts : StartsAtOnce s (requestedSweep g i n o s)) :
    (choose (sweepQueued g i n o s)).seq.queue =
        s.seq.queue ++ [{ requestedSweep g i n o s with started := 1, state := .acquiring, levelUsed := some (s.leg g).level }] ∧
      (choose (sweepQueued g i n o s)).slot i =
        ⟨.filling, some (heldContent (requestedSweep g i n o s) (s.legSettings g).profileBins)⟩ ∧
      (choose (sweepQueued g i n o s)).seq.inFlight.map (·.sweepId) = some (requestedSweep g i n o s).id ∧
      (choose (sweepQueued g i n o s)).seq.nextId = nextIdAfter (requestedSweep g i n o s).id := by
  obtain ⟨hflight, hfilling, hfree, hold, hmay⟩ := hstarts
  obtain ⟨h, hh⟩ := Option.ne_none_iff_exists'.mp hfree
  have hchosen : chosen (sweepQueued g i n o s) = some (requestedSweep g i n o s) :=
    chosen_eq_some sweepQueued_queue (fun v hv => (not_congr (mayStart_sweepQueued v)).mpr (hold v hv)) ((mayStart_sweepQueued _).mpr hmay)
  rw [choose_starts (s := sweepQueued g i n o s) hfilling hh hflight hchosen, startAcquisition_slot, startAcquisition_seq]
  refine ⟨?_, ?_, rfl, rfl⟩
  · refine (updateSweep_queue sweepQueued_queue ?_ _).trans rfl
    rw [List.append_nil]
    exact requestedSweep_fresh hq
  · rw [show (requestedSweep g i n o s).slot = i from rfl, if_pos rfl, sweepQueued_slot]
    rfl

/-- When the record that joins is not the one that starts, an older one is. -/
theorem chosen_sweepQueued_old {h : HalfId} {w : Sweep} (hflight : s.seq.inFlight = none) (hfilling : s.cap.inState .filling = none)
    (hfree : s.cap.inState .free = some h) (hwaits : ¬ StartsAtOnce s (requestedSweep g i n o s))
    (hchosen : chosen (sweepQueued g i n o s) = some w) : w ∈ s.seq.queue := by
  rw [chosen, sweepQueued_queue, List.find?_append] at hchosen
  cases hold : s.seq.queue.find? (eligible (sweepQueued g i n o s)) with
  | some v =>
    rw [hold] at hchosen
    cases hchosen
    exact List.mem_of_find?_eq_some hold
  | none =>
    rw [hold, Option.none_or] at hchosen
    have hw := List.mem_singleton.mp (List.mem_of_find?_eq_some hchosen)
    have hmay := (mayStart_sweepQueued (g := g) (i := i) (n := n) (o := o) w).mp ((eligible_iff _ _).mp (List.find?_some hchosen))
    refine absurd ⟨hflight, hfilling, by simp [hfree], fun v hv hmayv => ?_, hw ▸ hmay⟩ hwaits
    exact List.find?_eq_none.mp hold v hv ((eligible_iff _ _).mpr ((mayStart_sweepQueued v).mpr hmayv))

/-- The record that joins waits (R55 to R57). -/
theorem choose_sweepQueued_waits (hq : QueueInv s) (hnamed : ∀ w ∈ s.seq.queue, w.slot ≠ i)
    (hwaits : ¬ StartsAtOnce s (requestedSweep g i n o s)) :
    ∃ ws, (choose (sweepQueued g i n o s)).seq.queue = ws ++ [requestedSweep g i n o s] ∧
      ws.map (fun w => (w.id, w.leg, w.slot, w.n, w.done)) = s.seq.queue.map (fun w => (w.id, w.leg, w.slot, w.n, w.done)) ∧
      (choose (sweepQueued g i n o s)).slot i =
        ⟨.held, some (heldContent (requestedSweep g i n o s) (s.legSettings g).profileBins)⟩ ∧
      (choose (sweepQueued g i n o s)).seq.nextId = nextIdAfter (requestedSweep g i n o s).id := by
  rcases choose_cases (sweepQueued g i n o s) with e | ⟨h, k, -, e⟩ | ⟨h, w, hflight, hfilling, hfree, hchosen, e⟩ <;> rw [e]
  · exact ⟨_, sweepQueued_queue, rfl, sweepQueued_slot, rfl⟩
  · have hprof : (startSnapshot h k (sweepQueued g i n o s)).prof = (sweepQueued g i n o s).prof := by simp
    exact ⟨s.seq.queue, by simp [sweepQueued], rfl, by rw [State.slot, hprof]; exact sweepQueued_slot, by simp [sweepQueued]⟩
  · have hmem := chosen_sweepQueued_old (s := s) hflight hfilling hfree hwaits hchosen
    have hne : (requestedSweep g i n o s).id ≠ w.id := fun hid => requestedSweep_fresh hq w hmem hid.symm
    rw [startAcquisition_slot, if_neg fun hi => hnamed w hmem hi.symm, startAcquisition_seq]
    refine ⟨s.seq.queue.map fun v => if v.id == w.id then startedSweep (s.leg w.leg).level v else v, ?_, ?_, sweepQueued_slot, rfl⟩
    · show (sweepQueued g i n o s).seq.queue.map _ = _
      rw [sweepQueued_queue, List.map_append, List.map_singleton, if_neg (by simpa using hne)]
      rfl
    · rw [List.map_map]
      refine List.map_congr_left fun v _ => ?_
      simp only [Function.comp]
      split
      · unfold startedSweep
        split <;> rfl
      · rfl

end

/-! ### The checks (R54) -/

theorem optionsOf_eq (o : Nat) :
    optionsOf o = ⟨decide (o % 2 = 1), decide (o / 2 % 2 = 1), decide (o / 4 % 2 = 1)⟩ := by
  simp [optionsOf, bitAt, BEq.beq]

theorem sweepOutOfRange_iff (n o : Nat) :
    (!repetitionsAllowed n || decide (7 < o) || ((optionsOf o).baseline && (optionsOf o).calibrate)) = true ↔ sweepOutOfRange n o := by
  rw [optionsOf_eq, sweepOutOfRange, repetitionsAllowed]
  simp [or_assoc]

section
variable {leg slot reps options : Byte} {s : State}

theorem serveSweepReq_badValue (h : 4 ≤ leg.toNat ∨ 4 ≤ slot.toNat ∨ sweepOutOfRange reps.toNat options.toNat) :
    serveSweepReq [leg, slot, reps, options] s = (s, refuse .badValue) := by
  unfold serveSweepReq
  dsimp only
  rw [field_first, field_second, show field [leg, slot, reps, options] 2 1 = reps.toNat from Nat.add_zero _,
    show field [leg, slot, reps, options] 3 1 = options.toNat from Nat.add_zero _]
  split
  · next g i hg hi =>
    rcases h with h | h | h
    · rw [legOf_eq_none h] at hg
      cases hg
    · rw [legOf_eq_none h] at hi
      cases hi
    · rw [if_pos ((sweepOutOfRange_iff _ _).mpr h)]
  · rfl

variable {g : LegId} {i : SlotId} (hg : leg.toNat = g.val) (hi : slot.toNat = i.val) (hrange : ¬ sweepOutOfRange reps.toNat options.toNat)
include hg hi hrange

/-- The checks of R54 after the range, in their order. -/
theorem serveSweepReq_checks : serveSweepReq [leg, slot, reps, options] s =
    if (s.leg g).state ≠ .enabled then (s, refuse .legState)
    else if (optionsOf options.toNat).calibrate && (s.anchor g).isNone then (s, refuse .notFound)
    else if !s.admissible g then (s, refuse .excluded)
    else if s.seq.queue.any fun w => w.slot == i then (s, refuse .busy)
    else (choose (sweepQueued g i reps.toNat (optionsOf options.toNat) s),
      okReply (u8 (requestedSweep g i reps.toNat (optionsOf options.toNat) s).id ++ le 2 (acquisitionMicros (s.legSettings g)))) := by
  unfold serveSweepReq
  dsimp only
  rw [field_first, field_second, show field [leg, slot, reps, options] 2 1 = reps.toNat from Nat.add_zero _,
    show field [leg, slot, reps, options] 3 1 = options.toNat from Nat.add_zero _, hg, hi, legOf_val, legOf_val]
  dsimp only
  rw [if_neg ((not_congr (sweepOutOfRange_iff _ _)).mpr hrange)]
  rfl

theorem serveSweepReq_legState (hleg : (s.leg g).state ≠ .enabled) :
    serveSweepReq [leg, slot, reps, options] s = (s, refuse .legState) := by
  rw [serveSweepReq_checks hg hi hrange, if_pos hleg]

variable (hleg : (s.leg g).state = .enabled)
include hleg

theorem serveSweepReq_notFound (hcal : options.toNat / 4 % 2 = 1) (hanchor : s.anchor g = none) :
    serveSweepReq [leg, slot, reps, options] s = (s, refuse .notFound) := by
  rw [serveSweepReq_checks hg hi hrange, if_neg (not_not.mpr hleg), if_pos]
  simp [optionsOf_eq, hcal, hanchor]

variable (hanchor : options.toNat / 4 % 2 = 1 → s.anchor g ≠ none)
include hanchor

theorem serveSweepReq_anchored : serveSweepReq [leg, slot, reps, options] s =
    if !s.admissible g then (s, refuse .excluded)
    else if s.seq.queue.any fun w => w.slot == i then (s, refuse .busy)
    else (choose (sweepQueued g i reps.toNat (optionsOf options.toNat) s),
      okReply (u8 (requestedSweep g i reps.toNat (optionsOf options.toNat) s).id ++ le 2 (acquisitionMicros (s.legSettings g)))) := by
  rw [serveSweepReq_checks hg hi hrange, if_neg (not_not.mpr hleg), if_neg]
  simpa [optionsOf_eq] using hanchor

theorem serveSweepReq_excluded (hadm : s.admissible g = false) :
    serveSweepReq [leg, slot, reps, options] s = (s, refuse .excluded) := by
  rw [serveSweepReq_anchored hg hi hrange hleg hanchor, hadm]
  rfl

variable (hadm : s.admissible g = true)
include hadm

theorem serveSweepReq_busy (hnamed : ∃ w ∈ s.seq.queue, w.slot = i) :
    serveSweepReq [leg, slot, reps, options] s = (s, refuse .busy) := by
  rw [serveSweepReq_anchored hg hi hrange hleg hanchor, hadm, if_neg (by decide), if_pos (by simpa using hnamed)]

theorem serveSweepReq_accepts (hnamed : ¬ ∃ w ∈ s.seq.queue, w.slot = i) : serveSweepReq [leg, slot, reps, options] s =
    (choose (sweepQueued g i reps.toNat (optionsOf options.toNat) s),
      okReply (u8 (requestedSweep g i reps.toNat (optionsOf options.toNat) s).id ++ le 2 (acquisitionMicros (s.legSettings g)))) := by
  rw [serveSweepReq_anchored hg hi hrange hleg hanchor, hadm, if_neg (by decide), if_neg (by simpa using hnamed)]

end

theorem reps_pos {n o : Nat} (h : ¬ sweepOutOfRange n o) : 0 < n := by
  rcases Nat.eq_zero_or_pos n with rfl | hn
  · exact absurd (.inl (by decide)) h
  · exact hn

/-- Whether the record that joins starts at once, told by the state before the request (R56). -/
theorem startsAtOnce_after {s : State} {n r : Nat} {g : LegId} {i : SlotId} {o : Options} (hr : 0 < r)
    (hleg : (s.leg g).state = .enabled) (hadm : s.admissible g = true) :
    StartsAtOnce (s.after n).holding (requestedSweep g i r o (s.after n).holding) ↔
      (s.seq.inFlight = none ∧ s.cap.inState .filling = none ∧ s.cap.inState .free ≠ none ∧
        (∀ w ∈ s.seq.queue, ¬ MayStart (s.after n) w) ∧ (s.windowFree g = true ∨
          ∃ w, s.openWindow = some w ∧ w.legs.get g = true ∧
            (s.after n).time.timebase + acquisitionMicros (s.legSettings g) ≤ w.stop)) := by
  unfold StartsAtOnce
  rw [mayStart_requested (s := (s.after n).holding) hr hleg hadm, show (s.after n).holding.cap = (s.after n).cap from rfl, State.after_inState, State.after_inState]
  exact Iff.rfl

/-- Settles O25: the checks in order, and the record that joins with what the choice makes of it. -/
theorem sweepRequestChecksAndJoins : Obligations.SweepRequestChecksAndJoins := by
  unfold Obligations.SweepRequestChecksAndJoins
  intro n leg slot reps options tag s h
  refine ⟨fun hbad => ?_, fun g i hg hi hrange => ⟨fun hleg => ?_, fun hleg hcal hanchor => ?_, fun hleg hanchor hadm => ?_,
    fun hleg hanchor hadm hnamed => ?_, fun hleg hanchor hadm hnamed hq => ?_⟩⟩
  · exact requestArrives_unchanged h rfl rfl (serveSweepReq_badValue hbad)
  · exact requestArrives_unchanged h rfl rfl (serveSweepReq_legState hg hi hrange hleg)
  · exact requestArrives_unchanged h rfl rfl (serveSweepReq_notFound hg hi hrange hleg hcal hanchor)
  · exact requestArrives_unchanged h rfl rfl (serveSweepReq_excluded hg hi hrange hleg hanchor hadm)
  · exact requestArrives_unchanged h rfl rfl (serveSweepReq_busy hg hi hrange hleg hanchor hadm hnamed)
  · have hserve := serveSweepReq_accepts (s := (s.after n).holding) hg hi hrange hleg hanchor hadm hnamed
    have hq' : QueueInv (s.after n).holding := hq.shrinks (.of_same rfl rfl)
    have hstarts := startsAtOnce_after (n := n) (i := i) (o := optionsOf options.toNat) (reps_pos hrange) hleg hadm
    have hexec := requestArrives_served (f := ⟨0x18, tag, [leg, slot, reps, options]⟩) h rfl rfl hserve (by simp [sweepQueued])
      (by simp [sweepQueued, State.holding])
    have hwaits := fun hnow => choose_sweepQueued_waits (g := g) (n := reps.toNat) (o := optionsOf options.toNat) hq'
      (fun w hw e => hnamed ⟨w, hw, e⟩) hnow
    have hnow := choose_sweepQueued_starts (g := g) (i := i) (n := reps.toNat) (o := optionsOf options.toNat) hq'
    have hframe : ∀ c, choose (sweepQueued g i reps.toNat (optionsOf options.toNat) (s.after n).holding) = c →
        c.time = (s.after n).time ∧ c.plan = s.plan ∧ c.legs = s.legs ∧ c.div = s.div ∧ c.arith = s.arith ∧ c.map = s.map ∧
          c.stray = s.stray := by
      rintro c rfl
      simp [sweepQueued, State.holding, State.after]
    generalize choose (sweepQueued g i reps.toNat (optionsOf options.toNat) (s.after n).holding) = c at *
    have hrest := hframe c rfl
    have hanswer := State.answered_replied 0x18 tag .ok (u8 (allocateId 5 s.seq.nextId (s.seq.queue.map (·.id))) ++
      le 2 (acquisitionMicros (s.legSettings g))) (c.setMsg s.msg)
    have hslot' : ∀ k tg st fields, ((c.setMsg s.msg).replied k tg st fields).slot i = c.slot i := fun k tg st fields => by
      simp [State.slot]
    have hseq : ∀ k tg st fields, ((c.setMsg s.msg).replied k tg st fields).seq = c.seq := fun k tg st fields => by simp
    have hkept : ∀ k tg st fields, let t := (c.setMsg s.msg).replied k tg st fields
        t.time = (s.after n).time ∧ t.plan = s.plan ∧ t.legs = s.legs ∧ t.div = s.div ∧ t.arith = s.arith ∧ t.map = s.map ∧
          t.stray = s.stray := fun k tg st fields => by simpa using hrest
    by_cases hatonce : StartsAtOnce (s.after n).holding (requestedSweep g i reps.toNat (optionsOf options.toNat) (s.after n).holding)
    · obtain ⟨hqueue, hslot, hflight, hnext⟩ := hnow hatonce
      refine ⟨_, _, s.seq.queue, hexec, (congrArg Sequencer.queue (hseq ..)).trans hqueue, rfl, rfl, rfl, rfl, rfl, rfl, optionsOf_eq _,
        rfl, rfl, (congrArg Sequencer.nextId (hseq ..)).trans hnext, ⟨fun _ => ⟨rfl, rfl, rfl, ?_, ?_⟩, fun hno => ?_⟩, ?_, hanswer, hkept ..⟩
      · rw [hslot', hslot]
      · rw [hseq, hflight]
        rfl
      · exact absurd (hstarts.mp hatonce) hno
      · rw [hslot', hslot]
        rfl
    · obtain ⟨ws, hqueue, hws, hslot, hnext⟩ := hwaits hatonce
      refine ⟨_, _, ws, hexec, (congrArg Sequencer.queue (hseq ..)).trans hqueue, hws, rfl, rfl, rfl, rfl, rfl, optionsOf_eq _,
        rfl, rfl, (congrArg Sequencer.nextId (hseq ..)).trans hnext, ⟨fun hyes => ?_, fun _ => ⟨rfl, rfl, rfl, ?_⟩⟩, ?_, hanswer, hkept ..⟩
      · exact absurd (hstarts.mpr hyes) hatonce
      · rw [hslot', hslot]
      · rw [hslot', hslot]
        rfl

end Sys2Proof.Machine
end

section
/-! PROOFS. The abandoned acquisition: given back, cut off, and what WINDOW_REVOKE and CLASS_SET do to it (R29, R37, R61, R62, R85). -/

namespace Sys2Proof.Machine

open Sys2Proof

/-! ### What an abandonment leaves (R62, R85) -/

theorem takeHalves_stream (n : Nat) (s : State) : (takeHalves n s).cap.stream = s.cap.stream ∧
    (takeHalves n s).cap.sampling = s.cap.sampling ∧ (takeHalves n s).cap.coupler = s.cap.coupler ∧
      (takeHalves n s).cap.waiting = s.cap.waiting := by
  have hset : ∀ (c : Capture) (h : HalfId) (v : Half), (c.setHalf h v).stream = c.stream ∧ (c.setHalf h v).sampling = c.sampling ∧
      (c.setHalf h v).coupler = c.coupler ∧ (c.setHalf h v).waiting = c.waiting := fun c h v => by cases h <;> exact ⟨rfl, rfl, rfl, rfl⟩
  induction n generalizing s with
  | zero => exact ⟨rfl, rfl, rfl, rfl⟩
  | succ n ih =>
    unfold takeHalves
    split
    · next h _ _ =>
      dsimp only
      split
      · obtain ⟨h1, h2, h3, h4⟩ := hset s.cap h (s.cap.half h).release
        obtain ⟨i1, i2, i3, i4⟩ := ih (releaseHalf h s)
        exact ⟨i1.trans h1, i2.trans h2, i3.trans h3, i4.trans h4⟩
      · split <;> exact hset _ _ _
    · exact ⟨rfl, rfl, rfl, rfl⟩

theorem abandon_probe {s : State} {a : InFlight} (ha : s.seq.inFlight = some a) :
    (abandon s).probe = { s.probe with phase := .idle, gate := false } := by
  rw [abandon_eq ha]
  simp [probeIdle]

theorem abandon_stream {s : State} {a : InFlight} (ha : s.seq.inFlight = some a) :
    (abandon s).cap.stream = .none ∧ (abandon s).cap.sampling = none := by
  rw [abandon_eq ha]
  obtain ⟨hstream, hsampling, -⟩ := Capture.finish_stream s.cap s.time.clock true
  obtain ⟨htaken, htaken', -⟩ := takeHalves_stream 2 (((probeIdle (s.setCap (s.cap.finish s.time.clock true))).setSeq
    { s.seq with inFlight := none }).updateSweep a.sweepId fun w => { w with started := w.started - 1 })
  exact ⟨htaken.trans hstream, htaken'.trans hsampling⟩

/-! ### A half that stands FULL while the correlator is BUSY (R89) -/

/-- The correlator is BUSY and the half `h` is as `v` says. -/
structure Standing (h : HalfId) (v : Half) (t : State) : Prop where
  busy : t.cor.job ≠ none
  half : t.cap.half h = v

section
variable {h : HalfId} {v : Half} (hfull : v.state = .full) {t : State}

theorem Standing.of_cap {u : State} (ht : Standing h v t) (hcor : u.cor = t.cor) (hhalf : u.cap.half h = t.cap.half h) : Standing h v u :=
  ⟨hcor ▸ ht.busy, hhalf.trans ht.half⟩

include hfull

theorem Standing.choose (ht : Standing h v t) : Standing h v (choose t) :=
  ht.of_cap (by simp) (choose_half (by rw [ht.half, hfull]; decide))

theorem Standing.abandon (ht : Standing h v t) : Standing h v (abandon t) := by
  cases ha : t.seq.inFlight with
  | none =>
    have hsame : Machine.abandon t = t := by
      unfold Machine.abandon
      rw [ha]
    rwa [hsame]
  | some a =>
    rw [abandon_eq ha]
    suffices hkept : (t.cap.finish t.time.clock true).half h = t.cap.half h by
      rw [correlatorTake_busy (by exact ht.busy)]
      exact ht.of_cap rfl hkept
    cases hk : t.cap.inState .filling with
    | none =>
      unfold Capture.finish
      rw [hk]
      cases h <;> rfl
    | some k =>
      refine Capture.finish_other hk (fun e => ?_) _ _
      have hfilling := Capture.inState_state hk
      rw [← e, ht.half, hfull] at hfilling
      cases hfilling

theorem Standing.dropSweep (id : Nat) (ht : Standing h v t) : Standing h v (dropSweep id t) := by
  by_cases hflies : flies t id = true
  · rw [dropSweep_flies hflies]
    exact Standing.abandon hfull (ht.of_cap rfl rfl)
  · rw [dropSweep_stays hflies]
    exact ht.of_cap rfl rfl

theorem Standing.endSweep (id : Nat) (o : SweepOutcome) (ht : Standing h v t) : Standing h v (endSweep id o 0 0 t) := by
  unfold Machine.endSweep
  split
  · exact ht
  · have hpost : ∀ d i x r, Standing h v (post r (((Machine.dropSweep id t).setDiv d).setSlot i x)) := fun d i x r =>
      (ht.dropSweep hfull id).of_cap rfl rfl
    dsimp only
    split
    · exact (hpost ..).choose hfull
    · exact hpost ..

theorem Standing.judgeClasses (ht : Standing h v t) : Standing h v (judgeClasses t) := by
  unfold Machine.judgeClasses
  split
  · exact ht
  · split
    · exact ht.abandon hfull
    · exact ht

end

/-- The monitor's closes leave the halves alone. -/
theorem forceQuiet_half (g : LegId) (k : HalfId) (s : State) : (forceQuiet g s).cap.half k = s.cap.half k := by
  have hclose : ∀ u : State, (closeIfQuiet g u).cap.half k = u.cap.half k := fun u => by
    unfold closeIfQuiet closeRecord withdrawAtClose
    (repeat' split) <;> simp [Capture.half]
  exact hclose _

theorem Standing.forceQuiet {h : HalfId} {v : Half} {t : State} (g : LegId) (ht : Standing h v t) : Standing h v (forceQuiet g t) :=
  ht.of_cap (by simp) (forceQuiet_half g h t)

/-! ### An acquisition that goes on (R61) -/

/-- The acquisition `a` is in flight in `t`, and the halves, the correlator and the time are those of `r`, one half FILLING. -/
structure Aloft (a : InFlight) (r t : State) : Prop where
  flight  : t.seq.inFlight = some a
  halves  : ∀ k, t.cap.half k = r.cap.half k
  cor     : t.cor = r.cor
  time    : t.time = r.time
  filling : r.cap.inState .filling ≠ none

section
variable {a : InFlight} {r t : State} (ht : Aloft a r t)
include ht

theorem Aloft.inState (st : HalfState) : t.cap.inState st = r.cap.inState st := Capture.inState_congr (ht.halves .h0) (ht.halves .h1) st

theorem Aloft.of_same {u : State} (hflight : u.seq.inFlight = t.seq.inFlight) (hhalf : ∀ k, u.cap.half k = t.cap.half k)
    (hcor : u.cor = t.cor) (htime : u.time = t.time) : Aloft a r u :=
  ⟨hflight.trans ht.flight, fun k => (hhalf k).trans (ht.halves k), hcor.trans ht.cor, htime.trans ht.time, ht.filling⟩

/-- Beside an acquisition in flight nothing starts (R56). -/
theorem Aloft.choose_eq : choose t = t := choose_blocked (.inl (by rw [ht.inState]; exact ht.filling))

theorem Aloft.forceQuiet (g : LegId) : Aloft a r (forceQuiet g t) :=
  ht.of_same (by simp) (fun k => forceQuiet_half g k t) (by simp) (by simp)

theorem Aloft.not_flies {id : Nat} (hid : id ≠ a.sweepId) : ¬ flies t id = true := by
  rw [flies_iff]
  rintro ⟨b, hb, hbid⟩
  rw [ht.flight] at hb
  cases hb
  exact hid hbid.symm

/-- The end of another sweep takes its record alone out of the queue (R64). -/
theorem Aloft.endSweep_seq {id : Nat} (hid : id ≠ a.sweepId) (o : SweepOutcome) : (endSweep id o 0 0 t).seq =
    { t.seq with queue := t.seq.queue.filter fun w => w.id != id } := by
  have hstays := dropSweep_stays (ht.not_flies hid)
  unfold Machine.endSweep
  split
  · next hnone =>
    rw [List.filter_eq_self.mpr fun w hw => by simpa using findSweep_eq_none.mp hnone w hw]
  · dsimp only
    rw [if_neg (ht.not_flies hid), hstays]
    simp

/-- The end of another sweep lets the acquisition go on (R64). -/
theorem Aloft.endSweep {id : Nat} (hid : id ≠ a.sweepId) (o : SweepOutcome) : Aloft a r (endSweep id o 0 0 t) := by
  have hstays := dropSweep_stays (ht.not_flies hid)
  unfold Machine.endSweep
  split
  · exact ht
  · dsimp only
    rw [if_neg (ht.not_flies hid), hstays]
    exact ht.of_same rfl (fun _ => rfl) rfl rfl

/-- An abandonment cuts the acquisition off (R62). -/
theorem Aloft.abandon {h : HalfId} (hfilling : r.cap.inState .filling = some h) (hbusy : r.cor.job ≠ none) : Standing h
    { r.cap.half h with state := .full, void := true, fillOrder := some r.time.clock, turn := t.cap.fills } (abandon t) := by
  rw [abandon_eq ht.flight]
  obtain ⟨hcor, hhalf⟩ := cut_full (s := t) (t := ((probeIdle (t.setCap (t.cap.finish t.time.clock true))).setSeq
    { t.seq with inFlight := none }).updateSweep a.sweepId fun w => { w with started := w.started - 1 })
    ((ht.inState _).trans hfilling) rfl rfl (ht.cor ▸ hbusy)
  exact ⟨by rw [hcor, ht.cor]; exact hbusy, by rw [hhalf, ht.halves, ht.time]⟩

theorem Aloft.abandon_cor (hbusy : r.cor.job ≠ none) : (Machine.abandon t).cor = r.cor := by
  rw [abandon_eq ht.flight, correlatorTake_busy]
  · exact ht.cor
  · exact ht.cor ▸ hbusy

/-- The end of its own sweep cuts the acquisition off (R62, R64). -/
theorem Aloft.endSweep_self {h : HalfId} (hfilling : r.cap.inState .filling = some h) (hbusy : r.cor.job ≠ none) (o : SweepOutcome)
    (hfound : t.findSweep a.sweepId ≠ none) : Standing h
      { r.cap.half h with state := .full, void := true, fillOrder := some r.time.clock, turn := t.cap.fills }
      (Machine.endSweep a.sweepId o 0 0 t) := by
  obtain ⟨w, hw⟩ := Option.ne_none_iff_exists'.mp hfound
  have hdrop : Standing h { r.cap.half h with state := .full, void := true, fillOrder := some r.time.clock, turn := t.cap.fills }
      (dropSweep a.sweepId t) := by
    rw [dropSweep_flies (flies_iff.mpr ⟨a, ht.flight, rfl⟩)]
    exact Aloft.abandon (t := t.setSeq { t.seq with queue := t.seq.queue.filter fun v => v.id != a.sweepId })
      (ht.of_same rfl (fun _ => rfl) rfl rfl) hfilling hbusy
  unfold Machine.endSweep
  rw [hw]
  dsimp only
  split
  · exact Standing.choose rfl (hdrop.of_cap (by simp) (by simp))
  · exact hdrop.of_cap (by simp) (by simp)

/-- At a CLASS_SET an acquisition that is still admissible goes on (R61). -/
theorem Aloft.judgeClasses_eq (hadm : t.admissible a.leg = true) (hfree : a.basis = .free → t.windowFree a.leg = true) :
    judgeClasses t = t := by
  have hgoes : (!t.admissible a.leg || (a.basis == .free && !t.windowFree a.leg)) = false := by
    by_cases hb : a.basis = .free
    · simp [hadm, hfree hb]
    · simp [hadm, hb]
  unfold judgeClasses
  rw [ht.flight]
  dsimp only
  rw [hgoes, if_neg (by decide)]

/-- At a CLASS_SET an acquisition that is not admissible any more, or no longer window-free, is abandoned (R61). -/
theorem Aloft.judgeClasses_abandons (hnot : t.admissible a.leg = false ∨ (a.basis = .free ∧ t.windowFree a.leg = false)) :
    judgeClasses t = Machine.abandon t := by
  have hstops : (!t.admissible a.leg || (a.basis == .free && !t.windowFree a.leg)) = true := by
    rcases hnot with h | ⟨h, h'⟩ <;> simp [*]
  unfold judgeClasses
  rw [ht.flight]
  dsimp only
  rw [hstops, if_pos rfl]

end

/-! ### A repetition given back (R62) -/

/-- The sweep `id` has the record `x` and no acquisition in flight, and none can start: its leg's band is not window-free and no
window is OPEN. -/
structure GivenBack (id : Nat) (g : LegId) (x : Sweep) (t : State) : Prop where
  grounded : ∀ b, t.seq.inFlight = some b → b.sweepId ≠ id
  record   : t.findSweep id = some x
  leg      : ∀ w ∈ t.roster.queue, w.id = id → w.leg = g
  barred   : t.windowFree g = false
  closed   : t.openWindow = none

theorem windowFree_congr {s t : State} (hplan : t.plan = s.plan) (hlegs : t.legs = s.legs) (g : LegId) :
    t.windowFree g = s.windowFree g := by
  unfold State.windowFree State.legSettings State.leg
  rw [hplan, hlegs]

theorem admissible_congr {s t : State} (hplan : t.plan = s.plan) (hlegs : t.legs = s.legs) (g : LegId) :
    t.admissible g = s.admissible g := by
  unfold State.admissible State.legSettings State.leg
  rw [hplan, hlegs]

theorem mem_roster {t : State} {w : Sweep} (hw : w ∈ t.seq.queue) : w.kept ∈ t.roster.queue := List.mem_map_of_mem hw

section
variable {id : Nat} {g : LegId} {x : Sweep} {t : State} (ht : GivenBack id g x t)
include ht

theorem GivenBack.not_mayStart {w : Sweep} (hw : w ∈ t.seq.queue) (hmay : MayStart t w) : w.id ≠ id := by
  intro hid
  have hleg : w.leg = g := ht.leg w.kept (mem_roster hw) hid
  obtain ⟨-, -, -, -, hfree | ⟨o, ho, -⟩⟩ := hmay
  · rw [hleg, ht.barred] at hfree
    cases hfree
  · rw [ht.closed] at ho
    cases ho

theorem GivenBack.frame {u : State} (hflight : ∀ b, u.seq.inFlight = some b → b.sweepId ≠ id) (hrecord : u.findSweep id = some x)
    (hroster : ∀ w ∈ u.roster.queue, w ∈ t.roster.queue) (hplan : u.plan = t.plan) (hlegs : u.legs = t.legs) (hgrants : u.grants = t.grants) :
    GivenBack id g x u :=
  ⟨hflight, hrecord, fun w hw => ht.leg w (hroster w hw), (windowFree_congr hplan hlegs g).trans ht.barred,
    openWindow_eq_none_of_grants hgrants ht.closed⟩

theorem GivenBack.choose : GivenBack id g x (choose t) := by
  refine ht.frame ?_ ?_ (by simp) (by simp) (by simp) (by simp)
  · rcases choose_flight t with e | ⟨w, hw, hmay, e⟩ <;> rw [e]
    · exact ht.grounded
    · rintro b ⟨⟩
      exact ht.not_mayStart hw hmay
  · rcases choose_cases t with e | ⟨h, k, -, e⟩ | ⟨h, w, -, -, -, hchosen, e⟩ <;> rw [e]
    · exact ht.record
    · exact (findSweep_of_queue (by simp) id).trans ht.record
    · have hne : id ≠ w.id := fun hid => ht.not_mayStart (List.mem_of_find?_eq_some hchosen)
        ((eligible_iff t w).mp (List.find?_some hchosen)) hid.symm
      have hqueue : (startAcquisition h w t).seq.queue = (t.updateSweep w.id (startedSweep (t.leg w.leg).level)).seq.queue := by
        rw [startAcquisition_seq]
      rw [findSweep_of_queue hqueue, findSweep_updateSweep (startedSweep_id _), ht.record]
      simp [hne]

theorem GivenBack.forceQuiet (k : LegId) : GivenBack id g x (forceQuiet k t) :=
  ht.frame (by simpa using ht.grounded) ((findSweep_of_queue (by simp) id).trans ht.record) (by simp [State.roster]) (by simp) (by simp)
    (grants_of_win (by simp))

end

/-- The record of another sweep than the one abandoned stays (R62). -/
theorem abandon_findSweep {t : State} {a : InFlight} (ha : t.seq.inFlight = some a) (id : Nat) : (abandon t).findSweep id =
    (t.findSweep id).map fun w => if id = a.sweepId then { w with started := w.started - 1 } else w := by
  have hqueue := congrArg Sequencer.queue (abandon_seq ha)
  rw [findSweep_of_queue (s := t.updateSweep a.sweepId fun w => { w with started := w.started - 1 }) hqueue]
  exact findSweep_updateSweep (f := fun w => { w with started := w.started - 1 }) (fun _ => rfl) t a.sweepId id

theorem findSweep_filter_other {t : State} {i id : Nat} (h : id ≠ i) :
    (t.setSeq { t.seq with queue := t.seq.queue.filter fun w => w.id != i }).findSweep id = t.findSweep id := by
  rw [State.findSweep, State.findSweep]
  show (t.seq.queue.filter _).find? _ = _
  rw [List.find?_filter]
  refine List.find?_congr fun w _ => ?_
  by_cases hw : w.id = id
  · simp [hw, h]
  · simp [hw]

section
variable {id : Nat} {g : LegId} {x : Sweep} {t : State} (ht : GivenBack id g x t)
include ht

theorem GivenBack.abandon : GivenBack id g x (abandon t) := by
  cases ha : t.seq.inFlight with
  | none =>
    have hsame : Machine.abandon t = t := by
      unfold Machine.abandon
      rw [ha]
    rwa [hsame]
  | some a =>
    refine ht.frame ?_ ?_ (by simp) (by simp) (by simp) (grants_of_win (by simp))
    · rw [abandon_seq ha]
      nofun
    · rw [abandon_findSweep ha, ht.record, Option.map_some, if_neg fun e => ht.grounded a ha e.symm]

theorem GivenBack.endSweep {i : Nat} (hi : i ≠ id) (o : SweepOutcome) : GivenBack id g x (endSweep i o 0 0 t) := by
  have hfiltered : GivenBack id g x (t.setSeq { t.seq with queue := t.seq.queue.filter fun w => w.id != i }) := by
    refine ht.frame ht.grounded ((findSweep_filter_other hi.symm).trans ht.record) ?_ rfl rfl rfl
    rw [← without_roster]
    exact fun w hw => (List.mem_filter.mp hw).1
  have hdrop : GivenBack id g x (dropSweep i t) := by
    by_cases hflies : flies t i = true
    · rw [dropSweep_flies hflies]
      exact hfiltered.abandon
    · rw [dropSweep_stays hflies]
      exact hfiltered
  have hpost : ∀ d j v r, GivenBack id g x (post r (((dropSweep i t).setDiv d).setSlot j v)) := fun d j v r =>
    hdrop.frame hdrop.grounded hdrop.record (fun _ hw => hw) rfl rfl rfl
  unfold Machine.endSweep
  split
  · exact ht
  · dsimp only
    split
    · exact (hpost ..).choose
    · exact hpost ..

theorem GivenBack.judgeClasses : GivenBack id g x (judgeClasses t) := by
  unfold Machine.judgeClasses
  split
  · exact ht
  · split
    · exact ht.abandon
    · exact ht

end

end Sys2Proof.Machine
end

section
/-! PROOFS. The judgements of the acquisition in flight at WINDOW_REVOKE and CLASS_SET (R29, R37, R61, R62). -/

namespace Sys2Proof.Machine

open Sys2Proof

/-! ### What CLASS_SET carries (R35) -/

/-- The payload of CLASS_SET. -/
def classPayload (first limit : Byte) (classes : List Byte) : List Byte := [first, BitVec.ofNat 8 classes.length, limit] ++ classes

section
variable {first limit : Byte} {classes : List Byte}

theorem field_class_first : field (classPayload first limit classes) 0 1 = first.toNat := field_first ..

theorem field_class_count (h : classes.length < 256) : field (classPayload first limit classes) 1 1 = classes.length := by
  refine (field_second ..).trans ?_
  rw [BitVec.toNat_ofNat]
  exact Nat.mod_eq_of_lt h

theorem field_class_limit : field (classPayload first limit classes) 2 1 = limit.toNat := Nat.add_zero _

theorem classesOf_payload : classesOf (classPayload first limit classes) = classes.map fun b => binClassOf b.toNat := rfl

theorem class_lengthAllowed (h : classes.length < 256) : lengthAllowed 0x14 (classPayload first limit classes) = true := by
  have hcount := field_class_count (first := first) (limit := limit) h
  have hlength : (classPayload first limit classes).length = 3 + classes.length := by
    simp [classPayload]
    omega
  show (decide (2 ≤ (classPayload first limit classes).length) && (classPayload first limit classes).length == 3 + _) = true
  rw [hcount, hlength]
  simp
  omega

theorem binClassOf_isNone (v : Nat) : (binClassOf v).isNone = true ↔ 2 < v := by
  match v with
  | 0 | 1 | 2 => simp [binClassOf]
  | v + 3 => simp [binClassOf]

/-- The ranges that CLASS_SET checks (R36). -/
def ClassSetBad (first limit : Byte) (classes : List Byte) : Prop :=
  63 < first.toNat ∨ 64 < classes.length ∨ 64 < first.toNat + classes.length ∨ (∃ b ∈ classes, 2 < b.toNat) ∨ 64 < limit.toNat

/-- The plan that an accepted CLASS_SET writes. -/
def classPlan (first limit : Byte) (classes : List Byte) (s : State) : Plan :=
  ⟨writeClasses first.toNat (classes.map fun b => (binClassOf b.toNat).getD .fixed) s.plan.stored, limit.toNat⟩

/-- What follows from a new plan at once: the sweeps and the acquisition in flight are judged, and the monitor's closes (R37, log 7). -/
def planJudged (s : State) : State := together (classActions s :: quietBlocks s) s

theorem serveClassSet_eq (h : classes.length < 256) (s : State) : (ClassSetBad first limit classes →
      serveClassSet (classPayload first limit classes) s = (s, refuse .badValue)) ∧
    (¬ ClassSetBad first limit classes → serveClassSet (classPayload first limit classes) s =
      (planJudged (judgeGate (s.setPlan (classPlan first limit classes s))), okReply [])) := by
  have hbad : (63 < first.toNat ∨ 64 < classes.length ∨ 64 < first.toNat + classes.length ∨
      (classesOf (classPayload first limit classes)).any (·.isNone) ∨ 64 < limit.toNat) ↔ ClassSetBad first limit classes := by
    rw [classesOf_payload, List.any_map, List.any_eq_true]
    simp only [Function.comp, binClassOf_isNone]
    exact Iff.rfl
  unfold serveClassSet
  rw [field_class_first, field_class_count h, field_class_limit]
  dsimp only
  refine ⟨fun hb => if_pos (hbad.mpr hb), fun hb => (if_neg ((not_congr hbad).mpr hb)).trans ?_⟩
  rw [classesOf_payload, List.map_map]
  rfl

end

/-- An accepted CLASS_SET answers OK with what follows from its plan. -/
theorem exec_classSet {n : Nat} {first limit tag : Byte} {classes : List Byte} {s : State} (h : Ready s) (hlength : classes.length < 256)
    (hok : ¬ ClassSetBad first limit classes) : ∃ t, exec (.classSet n tag (classPayload first limit classes)) s = .next t ∧
      Answers (planJudged (judgeGate ((s.after n).holding.setPlan (classPlan first limit classes s)))) t 0x14 tag .ok [] := by
  have hserve := (serveClassSet_eq (first := first) (limit := limit) hlength (s.after n).holding).2 hok
  have hslot := (PostsOnly.serveClassSet (classPayload first limit classes) (s.after n).holding).slot (held_of_ready (h.after n))
  rw [hserve] at hslot
  exact exec_answers (c := .classSet n tag (classPayload first limit classes)) h rfl rfl (class_lengthAllowed hlength) hserve hslot

/-! ### CLASS_SET judges what is in flight (R37, R61) -/

/-- What is in flight is admissible, and window-free if its basis is FREE (R61). -/
def FlightJudged (t : State) : Prop :=
  ∀ b, t.seq.inFlight = some b → t.admissible b.leg = true ∧ (b.basis = .free → t.windowFree b.leg = true)

theorem FlightJudged.of_none {t : State} (h : t.seq.inFlight = none) : FlightJudged t := fun b hb => by cases h.symm.trans hb

theorem FlightJudged.frame {t u : State} (ht : FlightJudged t) (hflight : u.seq.inFlight = t.seq.inFlight) (hplan : u.plan = t.plan)
    (hlegs : u.legs = t.legs) : FlightJudged u := fun b hb => by
  rw [admissible_congr hplan hlegs, windowFree_congr hplan hlegs]
  exact ht b (hflight ▸ hb)

theorem FlightJudged.choose {t : State} (ht : FlightJudged t) : FlightJudged (choose t) := by
  rcases choose_flight t with e | ⟨w, -, hmay, e⟩
  · exact ht.frame e (by simp) (by simp)
  · intro b hb
    rw [e] at hb
    cases hb
    rw [admissible_congr (s := t) (by simp) (by simp), windowFree_congr (s := t) (by simp) (by simp)]
    refine ⟨hmay.2.2.2.1, fun hbasis => ?_⟩
    unfold basisOf at hbasis
    split at hbasis
    · assumption
    · cases hbasis

theorem abandon_flight (t : State) : (abandon t).seq.inFlight = none := by
  cases ha : t.seq.inFlight with
  | none =>
    unfold abandon
    rw [ha]
    exact ha
  | some a => rw [abandon_seq ha]

theorem dropSweep_flight (id : Nat) (t : State) :
    (dropSweep id t).seq.inFlight = none ∨ (dropSweep id t).seq.inFlight = t.seq.inFlight := by
  by_cases hflies : flies t id = true
  · rw [dropSweep_flies hflies]
    exact .inl (abandon_flight _)
  · rw [dropSweep_stays hflies]
    exact .inr rfl

theorem FlightJudged.endSweep {t : State} (id : Nat) (o : SweepOutcome) (ht : FlightJudged t) : FlightJudged (endSweep id o 0 0 t) := by
  unfold Machine.endSweep
  split
  · exact ht
  · have hpost : ∀ d i x r, FlightJudged (post r (((dropSweep id t).setDiv d).setSlot i x)) := fun d i x r => by
      have hseq : (post r (((dropSweep id t).setDiv d).setSlot i x)).seq = (dropSweep id t).seq := by simp
      rcases dropSweep_flight id t with e | e
      · exact .of_none (by rw [hseq, e])
      · exact ht.frame (by rw [hseq, e]) (by simp) (by simp)
    dsimp only
    split
    · exact FlightJudged.choose (hpost _ _ _ _)
    · exact hpost _ _ _ _

theorem judgeClasses_flightJudged (t : State) : FlightJudged (judgeClasses t) := by
  unfold judgeClasses
  split
  · next hnone => exact .of_none hnone
  · next a ha =>
    split
    · exact .of_none (abandon_flight t)
    · next hgoes =>
      intro b hb
      cases ha.symm.trans hb
      simp only [Bool.or_eq_true, Bool.not_eq_true', Bool.and_eq_true, beq_iff_eq, not_or, not_and, Bool.not_eq_false] at hgoes
      exact hgoes

/-- What follows from a plan leaves the plan, the legs, the time and the grants alone. -/
theorem planJudged_env (s : State) : (planJudged s).plan = s.plan ∧ (planJudged s).legs = s.legs ∧ (planJudged s).time = s.time ∧
    (planJudged s).grants = s.grants := by
  refine classBlocks_keeps (P := fun t => t.plan = s.plan ∧ t.legs = s.legs ∧ t.time = s.time ∧ t.grants = s.grants)
    (fun _ _ h => h) (fun t id h => ?_) (fun t h => ?_) (fun t h => ?_) (fun t g h => ?_) (s := s) ⟨rfl, rfl, rfl, rfl⟩
  · simpa using h
  · rw [grants_of_win (s := t) (by simp)]
    simpa using h
  · simpa using h
  · rw [grants_of_win (s := t) (by simp)]
    simpa using h

theorem planJudged_flightJudged (s : State) : FlightJudged (planJudged s) := by
  refine together_reaches (P := FlightJudged) (f := judgeClasses) (fun _ _ h => h) judgeClasses_flightJudged _ _ ?_
    (classBlocks_forall (fun id _ t ht => ht.endSweep id _) (fun t _ => judgeClasses_flightJudged t) (fun t ht => ht.choose)
      fun g t ht => ht.frame (by simp) (by simp) (by simp))
  exact List.mem_flatten.mpr ⟨classActions s, List.mem_cons_self, List.mem_append_right _ List.mem_cons_self⟩

/-! ### The acquisition in flight at a CLASS_SET (R37, R61, R62) -/

theorem roster_leg {s : State} {id : Nat} {g : LegId} (h : ∀ w ∈ s.seq.queue, w.id = id → w.leg = g) :
    ∀ w ∈ s.roster.queue, w.id = id → w.leg = g := by
  intro w hw
  obtain ⟨v, hv, rfl⟩ := List.mem_map.mp hw
  exact h v hv

/-- The sweep of an admissible leg is none that a CLASS_SET ends (R67). -/
theorem not_excluded {s : State} {a : InFlight} (hleg : ∀ w ∈ s.seq.queue, w.id = a.sweepId → w.leg = a.leg)
    (hadm : s.admissible a.leg = true) :
    ∀ id ∈ sweepIdsOf (fun w => w.state != .analysing && !s.admissible w.leg) s, id ≠ a.sweepId := by
  intro id hid e
  obtain ⟨w, hw, rfl⟩ := List.mem_map.mp hid
  obtain ⟨hmem, hbad⟩ := List.mem_filter.mp hw
  rw [hleg w hmem e, hadm] at hbad
  simp at hbad

section
variable {a : InFlight} {r s : State} (hs : Aloft a r s)
include hs

/-- One that is still admissible goes on. -/
theorem planJudged_aloft (hleg : ∀ w ∈ s.seq.queue, w.id = a.sweepId → w.leg = a.leg) (hadm : s.admissible a.leg = true)
    (hfree : a.basis = .free → s.windowFree a.leg = true) : Aloft a r (planJudged s) := by
  have hkeep : Aloft a r (planJudged s) ∧ (planJudged s).plan = s.plan ∧ (planJudged s).legs = s.legs := by
    refine together_keeps (P := fun t => Aloft a r t ∧ t.plan = s.plan ∧ t.legs = s.legs)
      (fun _ _ h => ⟨h.1.of_same rfl (fun _ => rfl) rfl rfl, h.2⟩) _ _
      (classBlocks_forall (fun id hid t ht => ?_) (fun t ht => ?_) (fun t ht => ?_) fun g t ht => ?_) ⟨hs, rfl, rfl⟩
    · have hne := not_excluded hleg hadm id hid
      exact ⟨ht.1.endSweep hne _, by simpa using ht.2⟩
    · rw [ht.1.judgeClasses_eq ((admissible_congr ht.2.1 ht.2.2 _).trans hadm)
        fun hb => (windowFree_congr ht.2.1 ht.2.2 _).trans (hfree hb)]
      exact ht
    · rw [ht.1.choose_eq]
      exact ht
    · exact ⟨ht.1.forceQuiet g, by simpa using ht.2⟩
  exact hkeep.1

/-- One that is abandoned leaves its half FULL and void, from that instant; otherwise it goes on. -/
theorem planJudged_cut {h : HalfId} (hfilling : r.cap.inState .filling = some h) (hbusy : r.cor.job ≠ none) :
    Aloft a r (planJudged s) ∨ ∃ turn, Standing h
      { r.cap.half h with state := .full, void := true, fillOrder := some r.time.clock, turn := turn } (planJudged s) := by
  refine together_keeps (P := fun t => Aloft a r t ∨ ∃ turn, Standing h
      { r.cap.half h with state := .full, void := true, fillOrder := some r.time.clock, turn := turn } t)
    (fun _ _ h => h.imp (fun h => h.of_same rfl (fun _ => rfl) rfl rfl) fun ⟨turn, h⟩ => ⟨turn, h.of_cap rfl rfl⟩) _ _
    (classBlocks_forall (fun id _ t ht => ?_) (fun t ht => ?_) (fun t ht => ?_) fun g t ht => ?_) (.inl hs)
  · rcases ht with ht | ⟨turn, ht⟩
    · by_cases hid : id = a.sweepId
      · subst hid
        by_cases hfound : t.findSweep a.sweepId = none
        · have hsame : endSweep a.sweepId .excluded 0 0 t = t := by
            unfold endSweep
            rw [hfound]
          exact .inl (hsame.symm ▸ ht)
        · exact .inr ⟨_, ht.endSweep_self hfilling hbusy _ hfound⟩
      · exact .inl (ht.endSweep hid _)
    · exact .inr ⟨turn, ht.endSweep rfl id _⟩
  · rcases ht with ht | ⟨turn, ht⟩
    · by_cases hstops : t.admissible a.leg = false ∨ (a.basis = .free ∧ t.windowFree a.leg = false)
      · rw [ht.judgeClasses_abandons hstops]
        exact .inr ⟨_, ht.abandon hfilling hbusy⟩
      · simp only [not_or, not_and, Bool.not_eq_false] at hstops
        rw [ht.judgeClasses_eq hstops.1 hstops.2]
        exact .inl ht
    · exact .inr ⟨turn, ht.judgeClasses rfl⟩
  · rcases ht with ht | ⟨turn, ht⟩
    · rw [ht.choose_eq]
      exact .inl ht
    · exact .inr ⟨turn, ht.choose rfl⟩
  · exact ht.imp (fun h => h.forceQuiet g) fun ⟨turn, h⟩ => ⟨turn, h.forceQuiet g⟩

/-- The record of one abandoned for its FREE basis, while no window is OPEN, has its repetition back (R62). -/
theorem planJudged_givenBack {x : Sweep} (hleg : ∀ w ∈ s.seq.queue, w.id = a.sweepId → w.leg = a.leg)
    (hadm : s.admissible a.leg = true) (hbasis : a.basis = .free) (hbarred : s.windowFree a.leg = false) (hclosed : s.openWindow = none)
    (hx : s.findSweep a.sweepId = some x) : (planJudged s).findSweep a.sweepId = some { x with started := x.started - 1 } := by
  have hback : (Aloft a r (planJudged s) ∧ (planJudged s).findSweep a.sweepId = some x ∧
        (∀ w ∈ (planJudged s).roster.queue, w.id = a.sweepId → w.leg = a.leg) ∧ (planJudged s).plan = s.plan ∧
        (planJudged s).legs = s.legs ∧ (planJudged s).grants = s.grants) ∨
      GivenBack a.sweepId a.leg { x with started := x.started - 1 } (planJudged s) := by
    refine together_keeps (P := fun t => (Aloft a r t ∧ t.findSweep a.sweepId = some x ∧
        (∀ w ∈ t.roster.queue, w.id = a.sweepId → w.leg = a.leg) ∧ t.plan = s.plan ∧ t.legs = s.legs ∧ t.grants = s.grants) ∨
        GivenBack a.sweepId a.leg { x with started := x.started - 1 } t)
      (fun _ _ h => h.imp (fun h => ⟨h.1.of_same rfl (fun _ => rfl) rfl rfl, h.2⟩) fun h => h.frame h.grounded h.record (fun _ hw => hw) rfl rfl rfl)
      _ _ (classBlocks_forall (fun id hid t ht => ?_) (fun t ht => ?_) (fun t ht => ?_) fun g t ht => ?_)
      (.inl ⟨hs, hx, roster_leg hleg, rfl, rfl, rfl⟩)
    · have hne := not_excluded hleg hadm id hid
      rcases ht with ⟨ht, hrecord, hlegs, henv⟩ | ht
      · refine .inl ⟨ht.endSweep hne _, ?_, ?_, by simpa using henv⟩
        · rw [findSweep_of_queue (s := t.setSeq { t.seq with queue := t.seq.queue.filter fun w => w.id != id })
            (congrArg Sequencer.queue (ht.endSweep_seq hne .excluded)), findSweep_filter_other hne.symm, hrecord]
        · rw [endSweep_roster]
          exact fun w hw => hlegs w (List.mem_filter.mp hw).1
      · exact .inr (ht.endSweep hne _)
    · rcases ht with ⟨ht, hrecord, hlegs, hplan, hset, hgrants⟩ | ht
      · have hbar : t.windowFree a.leg = false := (windowFree_congr hplan hset _).trans hbarred
        rw [ht.judgeClasses_abandons (.inr ⟨hbasis, hbar⟩)]
        refine .inr ⟨?_, ?_, by simpa using hlegs, ?_, ?_⟩
        · rw [abandon_flight]
          nofun
        · rw [abandon_findSweep ht.flight, hrecord]
          simp
        · rw [windowFree_congr (s := t) (by simp) (by simp), hbar]
        · exact openWindow_eq_none_of_grants (s := s) ((grants_of_win (by simp)).trans hgrants) hclosed
      · exact .inr ht.judgeClasses
    · rcases ht with ht | ht
      · rw [ht.1.choose_eq]
        exact .inl ht
      · exact .inr ht.choose
    · rcases ht with ⟨ht, hrecord, hlegs, henv⟩ | ht
      · refine .inl ⟨ht.forceQuiet g, (findSweep_of_queue (by simp) _).trans hrecord, by simpa [State.roster] using hlegs, ?_⟩
        rw [grants_of_win (s := t) (by simp)]
        simpa using henv
      · exact .inr (ht.forceQuiet g)
  rcases hback with ⟨haloft, -, -, hplan, hlegs, -⟩ | hback
  · have hfree := (planJudged_flightJudged s a haloft.flight).2 hbasis
    rw [windowFree_congr hplan hlegs, hbarred] at hfree
    cases hfree
  · exact hback.record

end

end Sys2Proof.Machine
end

section
/-! PROOFS. WINDOW_REVOKE and the acquisition in flight (R29, R61, R62). -/

namespace Sys2Proof.Machine

open Sys2Proof

/-! ### The acquisition in flight at a WINDOW_REVOKE (R29, R61) -/

/-- What a post, the choice and the monitor's closes keep, holds after the blocks have heard of a closed window (log 7). -/
theorem informClosing_keeps {P : State → Prop} (hdraws : ∀ t n, P t → P (t.setDraws n)) (hpost : ∀ r t, P t → P (post r t))
    (hchoose : ∀ t, P t → P (choose t)) (hquiet : ∀ g t, P t → P (forceQuiet g t)) (r : Report) {s : State} (hs : P s) :
    P (informClosing r s) := by
  unfold informClosing
  split
  · exact hchoose _ (hpost r s hs)
  · exact together_keeps hdraws _ _ (closingBlocks_forall (hpost r) hchoose hquiet) hs

section
variable {a : InFlight} {w : Window} {s : State} (ha : s.seq.inFlight = some a) (hbasis : a.basis = .window w.id)
include ha hbasis

/-- An acquisition whose band is window-free goes on with basis FREE. -/
theorem windowRevoked_goesOn (hfree : s.windowFree a.leg = true) : windowRevoked w s =
    (s.setTable (s.win.table.filter fun x => x.id != w.id)).setSeq { s.seq with inFlight := some { a with basis := .free } } := by
  have hjudged : judgeRevoked w.id (s.setTable (s.win.table.filter fun x => x.id != w.id)) =
      (s.setTable (s.win.table.filter fun x => x.id != w.id)).setSeq { s.seq with inFlight := some { a with basis := .free } } := by
    unfold judgeRevoked
    rw [show (s.setTable (s.win.table.filter fun x => x.id != w.id)).seq = s.seq from rfl, ha]
    dsimp only
    rw [if_pos hbasis]
    exact if_pos hfree
  have hholds : gateHolds ((s.setTable (s.win.table.filter fun x => x.id != w.id)).setSeq
      { s.seq with inFlight := some { a with basis := .free } }) { a with basis := .free } = true := hfree
  rw [windowRevoked, hjudged]
  unfold judgeGate
  dsimp only [State.setSeq_seq]
  rw [hholds, Bool.and_true]
  rfl

/-- One whose band is not window-free is abandoned. -/
theorem windowRevoked_abandons (hfree : s.windowFree a.leg = false) :
    windowRevoked w s = abandon (s.setTable (s.win.table.filter fun x => x.id != w.id)) := by
  have hjudged : judgeRevoked w.id (s.setTable (s.win.table.filter fun x => x.id != w.id)) =
      abandon (s.setTable (s.win.table.filter fun x => x.id != w.id)) := by
    have hbarred : ¬ (s.setTable (s.win.table.filter fun x => x.id != w.id)).windowFree a.leg = true := fun e => by
      cases hfree.symm.trans e
    unfold judgeRevoked
    rw [show (s.setTable (s.win.table.filter fun x => x.id != w.id)).seq = s.seq from rfl, ha]
    dsimp only
    rw [if_pos hbasis, if_neg hbarred]
  rw [windowRevoked, hjudged]
  unfold judgeGate
  rw [abandon_flight]

variable {h : HalfId} (hfilling : s.cap.inState .filling = some h) (r : Report)
include hfilling

theorem informClosing_goesOn (hfree : s.windowFree a.leg = true) :
    (informClosing r (windowRevoked w s)).seq = { s.seq with inFlight := some { a with basis := .free } } ∧
      (informClosing r (windowRevoked w s)).cap.half h = s.cap.half h ∧ (informClosing r (windowRevoked w s)).probe = s.probe ∧
      (informClosing r (windowRevoked w s)).cor = s.cor := by
  have hstart : Aloft { a with basis := .free } s (windowRevoked w s) := by
    rw [windowRevoked_goesOn ha hbasis hfree]
    exact ⟨rfl, fun _ => rfl, rfl, rfl, by rw [hfilling]; nofun⟩
  have hkeep := informClosing_keeps (P := fun t => Aloft { a with basis := .free } s t ∧ t.seq = (windowRevoked w s).seq ∧
      t.probe = (windowRevoked w s).probe) (fun _ _ ht => ⟨ht.1.of_same rfl (fun _ => rfl) rfl rfl, ht.2⟩)
    (fun _ _ ht => ⟨ht.1.of_same rfl (fun _ => rfl) rfl rfl, ht.2⟩) (fun t ht => by rw [ht.1.choose_eq]; exact ht)
    (fun g t ht => ⟨ht.1.forceQuiet g, by simpa using ht.2⟩) r ⟨hstart, rfl, rfl⟩
  obtain ⟨haloft, hseq, hprobe⟩ := hkeep
  rw [windowRevoked_goesOn ha hbasis hfree] at hseq hprobe
  rw [windowRevoked_goesOn ha hbasis hfree] at haloft ⊢
  exact ⟨hseq, haloft.halves h, hprobe, haloft.cor⟩

theorem informClosing_abandons (hfree : s.windowFree a.leg = false) (hbusy : s.cor.job ≠ none)
    (hclosed : (s.setTable (s.win.table.filter fun x => x.id != w.id)).openWindow = none)
    (hleg : ∀ v ∈ s.seq.queue, v.id = a.sweepId → v.leg = a.leg) {x : Sweep} (hx : s.findSweep a.sweepId = some x) :
    Standing h { s.cap.half h with state := .full, void := true, fillOrder := some s.time.clock, turn := s.cap.fills }
        (informClosing r (windowRevoked w s)) ∧
      GivenBack a.sweepId a.leg { x with started := x.started - 1 } (informClosing r (windowRevoked w s)) ∧
      (informClosing r (windowRevoked w s)).cor = s.cor ∧
      ∀ b, (informClosing r (windowRevoked w s)).seq.inFlight = some b → b.startClock = s.time.clock := by
  generalize hu : s.setTable (s.win.table.filter fun x => x.id != w.id) = u at hclosed
  have hstart : windowRevoked w s = abandon u := by rw [windowRevoked_abandons ha hbasis hfree, hu]
  have hua : u.seq.inFlight = some a := by rw [← hu]; exact ha
  have haloft : Aloft a s u := by
    rw [← hu]
    exact ⟨ha, fun _ => rfl, rfl, rfl, by rw [hfilling]; nofun⟩
  have hfills : u.cap.fills = s.cap.fills := by rw [← hu]; rfl
  have hcor : (abandon u).cor = s.cor := haloft.abandon_cor hbusy
  have hstanding := haloft.abandon hfilling hbusy
  rw [hfills] at hstanding
  have hback : GivenBack a.sweepId a.leg { x with started := x.started - 1 } (abandon u) := by
    refine ⟨by rw [abandon_flight]; nofun, ?_, ?_, ?_, ?_⟩
    · rw [abandon_findSweep hua, ← hu]
      rw [show (s.setTable (s.win.table.filter fun x => x.id != w.id)).findSweep a.sweepId = some x from hx]
      simp
    · rw [abandon_roster, ← hu]
      exact roster_leg hleg
    · rw [windowFree_congr (s := s) (t := abandon u) (by simp [← hu]) (by simp [← hu]), hfree]
    · exact openWindow_eq_none_of_grants (grants_of_win (by simp)) hclosed
  have htime : (abandon u).time = s.time := by simp [← hu]
  have hkeep := informClosing_keeps (P := fun t => Standing h { s.cap.half h with
        state := .full, void := true, fillOrder := some s.time.clock, turn := s.cap.fills } t ∧
      GivenBack a.sweepId a.leg { x with started := x.started - 1 } t ∧ t.time = s.time ∧
      ∀ b, t.seq.inFlight = some b → b.startClock = s.time.clock)
    (fun _ _ ⟨hstand, hgiven, hrest⟩ => ⟨hstand.of_cap rfl rfl, hgiven.frame hgiven.grounded hgiven.record (fun _ hv => hv) rfl rfl rfl, hrest⟩)
    (fun _ _ ⟨hstand, hgiven, hrest⟩ => ⟨hstand.of_cap rfl rfl, hgiven.frame hgiven.grounded hgiven.record (fun _ hv => hv) rfl rfl rfl, hrest⟩)
    (fun t ⟨hstand, hgiven, ht, hclock⟩ => ?_)
    (fun g t ⟨hstand, hgiven, hrest⟩ => ⟨hstand.forceQuiet g, hgiven.forceQuiet g, by simpa using hrest⟩) r
    ⟨hstanding, hback, htime, by rw [abandon_flight]; nofun⟩
  · obtain ⟨hstand, hgiven, -, hclock⟩ := hkeep
    rw [hstart]
    exact ⟨hstand, hgiven, by simpa using hcor, hclock⟩
  · refine ⟨hstand.choose rfl, hgiven.choose, by simpa using ht, ?_⟩
    rcases choose_flight t with e | ⟨v, -, -, e⟩ <;> rw [e]
    · exact hclock
    · rintro b ⟨⟩
      rw [ht]

end

/-! ### O31 -/

/-- The sweep of an acquisition in flight is on its leg, as is every record that bears its id (R52, R57). -/
theorem ProbeInv.leg_of_flight {s : State} (h : ProbeInv s) (hq : QueueInv s) {a : InFlight} (ha : s.seq.inFlight = some a) :
    ∀ v ∈ s.seq.queue, v.id = a.sweepId → v.leg = a.leg := by
  obtain ⟨-, w, hw, hid, hleg⟩ := h.owner a ha
  intro v hv hvid
  have hsame : v = w := List.inj_on_of_nodup_map hq.ids hv hw (hvid.trans hid.symm)
  rw [hsame, hleg]

theorem ProbeInv.findSweep_flight {s : State} (h : ProbeInv s) {a : InFlight} (ha : s.seq.inFlight = some a) :
    ∃ x, s.findSweep a.sweepId = some x := by
  obtain ⟨-, w, hw, hid, -⟩ := h.owner a ha
  exact Option.ne_none_iff_exists'.mp fun hnone => findSweep_eq_none.mp hnone w hw hid

theorem abandon_output (s : State) : probeOutput (abandon s) = none := by
  unfold probeOutput
  rw [abandon_flight]

/-- Settles O31: what an abandonment writes; the two outcomes at a WINDOW_REVOKE; the judgement of a CLASS_SET. -/
theorem abandonedAcquisitionsAreGivenBack : Obligations.AbandonedAcquisitionsAreGivenBack := by
  unfold Obligations.AbandonedAcquisitionsAreGivenBack
  refine ⟨fun s a ha => ?_, fun n id tag s w a h hready hwin hq hprobe hfind hstate ha hbasis hfilling hbusy => ?_,
    fun n first limit tag classes s hready hq hprobe hlength hstored hrange hfirst hclasses hlimit => ?_⟩
  · obtain ⟨hstream, hsampling⟩ := abandon_stream ha
    refine ⟨?_, abandon_probe ha, abandon_output s, hstream, hsampling, fun h hfilling => ?_, ?_⟩
    · rw [abandon_seq ha]
      simp
    · rw [abandon_eq ha]
      exact ⟨fun hjob => cut_full hfilling rfl rfl hjob, fun hjob hother => cut_freed hfilling rfl rfl hjob hother⟩
    · simp
  · generalize hx : (s.after n).holding = x
    have hserve := serveWindowRevoke_opened (s := x) (p := [id]) (w := w) (by rw [field_leg, ← hx]; exact hfind) hstate
    have hslot := (PostsOnly.serveWindowRevoke [id] x).slot (hx ▸ held_of_ready (hready.after n))
    rw [hserve] at hslot
    obtain ⟨t, ht, hans⟩ := exec_answers (c := .windowRevoke n tag [id]) (f := ⟨9, tag, [id]⟩) hready rfl rfl rfl
      ((congrArg (serveWindowRevoke [id]) hx).trans hserve) hslot
    obtain ⟨-, -, -, -, -, -, hseq, hprobe', hcap, hcor, -⟩ := hans.frame
    have hxa : x.seq.inFlight = some a := by rw [← hx]; exact ha
    have hxfilling : x.cap.inState .filling = some h := by rw [← hx]; exact (State.after_inState n s _).trans hfilling
    have hxhalf : x.cap = (s.after n).cap ∧ x.probe = (s.after n).probe ∧ x.seq = s.seq ∧ x.cor = s.cor ∧ x.time = (s.after n).time := by
      rw [← hx]
      simp [State.holding, State.after]
    obtain ⟨hxcap, hxprobe, hxseq, hxcor, hxtime⟩ := hxhalf
    have hfills : x.cap.fills = s.cap.fills := by
      rw [hxcap]
      simp [State.after, State.passTo]
    have hclosed : (x.setTable (x.win.table.filter fun v => v.id != w.id)).openWindow = none := by
      rw [← hx]
      exact hwin.openWindow_left (hwin.openWindow_of_find hfind hstate)
    obtain ⟨y, hy⟩ := hprobe.findSweep_flight ha
    have hxy : x.findSweep a.sweepId = some y := by rw [← hx]; exact hy
    have hleg : ∀ v ∈ x.seq.queue, v.id = a.sweepId → v.leg = a.leg := by
      rw [hxseq]
      exact hprobe.leg_of_flight hq ha
    have hwf : x.windowFree a.leg = s.windowFree a.leg := by rw [← hx]; rfl
    cases hfree : s.windowFree a.leg with
    | true =>
      obtain ⟨hseq', hhalf, hprobe'', hcor'⟩ :=
        informClosing_goesOn hxa hbasis hxfilling (windowClosed w x.time.timebase true) (hwf.trans hfree)
      refine ⟨t, ht, hcor.trans (hcor'.trans hxcor), fun _ => ⟨?_, ?_, ?_⟩, nofun⟩
      · rw [hseq, hseq', hxseq]
      · rw [hcap, hhalf, hxcap]
      · rw [hprobe', hprobe'', hxprobe]
    | false =>
      obtain ⟨hstand, hgiven, hcor', hclock⟩ := informClosing_abandons hxa hbasis hxfilling (windowClosed w x.time.timebase true)
        (hwf.trans hfree) (by rw [hxcor]; exact hbusy) hclosed hleg hxy
      refine ⟨t, ht, hcor.trans (hcor'.trans hxcor), nofun, fun _ => ⟨?_, fun b hb => ?_, fun z hz => ?_⟩⟩
      · rw [hcap, hstand.half, hfills, hxcap, hxtime]
      · rw [hseq] at hb
        exact ⟨hxtime ▸ hclock b hb, hgiven.grounded b hb⟩
      · cases hy.symm.trans hz
        exact (findSweep_of_queue (congrArg Sequencer.queue hseq) _).trans hgiven.record
  · have hok : ¬ ClassSetBad first limit classes := by
      rintro (h | h | h | ⟨b, hb, h⟩ | h)
      · omega
      · omega
      · omega
      · exact absurd (hclasses b hb) (by omega)
      · omega
    obtain ⟨t, ht, hans⟩ := exec_classSet (n := n) (tag := tag) hready hlength hok
    generalize hx : judgeGate ((s.after n).holding.setPlan (classPlan first limit classes s)) = x at hans
    obtain ⟨-, -, -, hwin, hplan, hlegs, hseq, -, hcap, -⟩ := hans.frame
    have hjudged := planJudged_flightJudged x
    have htj : FlightJudged t := hjudged.frame (congrArg Sequencer.inFlight hseq) hplan hlegs
    refine ⟨t, ht, htj, fun a h ha hfilling hbusy => ?_⟩
    have haloft : Aloft a (s.after n) x := by
      rw [← hx]
      refine ⟨by simpa [State.holding, State.after] using ha, fun _ => by simp [State.holding], by simp [State.holding],
        by simp [State.holding], ?_⟩
      rw [State.after_inState, hfilling]
      nofun
    have hfilling' : (s.after n).cap.inState .filling = some h := (State.after_inState n s _).trans hfilling
    obtain ⟨hxplan, hxlegs, -, -⟩ := planJudged_env x
    have hadm : x.admissible a.leg = t.admissible a.leg :=
      (admissible_congr (hplan.trans hxplan) (hlegs.trans hxlegs) _).symm
    have hfree : x.windowFree a.leg = t.windowFree a.leg :=
      (windowFree_congr (hplan.trans hxplan) (hlegs.trans hxlegs) _).symm
    have hleg : ∀ v ∈ x.seq.queue, v.id = a.sweepId → v.leg = a.leg := by
      have hxseq : x.seq = s.seq := by
        rw [← hx]
        simp [State.holding, State.after]
      rw [hxseq]
      exact hprobe.leg_of_flight hq ha
    refine ⟨fun hga hgf => ?_, fun hstops => ?_, fun z hga hbasis hbarred hopen hz => ?_⟩
    · have hgoes := planJudged_aloft haloft hleg (hadm.trans hga) fun hb => hfree.trans (hgf hb)
      exact ⟨by rw [hseq, hgoes.flight], by rw [hcap, hgoes.halves]⟩
    · rcases planJudged_cut haloft hfilling' (by simpa [State.after] using hbusy) with hgoes | ⟨turn, hstand⟩
      · obtain ⟨hga, hgf⟩ := htj a (by rw [hseq, hgoes.flight])
        rcases hstops with hno | ⟨hbasis, hno⟩
        · rw [hga] at hno
          cases hno
        · rw [hgf hbasis] at hno
          cases hno
      · rw [hcap, hstand.half]
        exact ⟨rfl, rfl, rfl, rfl⟩
    · have hxz : x.findSweep a.sweepId = some z := by
        rw [← hz, ← hx]
        exact findSweep_of_queue (by simp [State.holding, State.after]) _
      have hxopen : x.openWindow = none := by
        rw [← hopen, ← hx, openWindow_of_win (win := s.win) (by simp [State.holding, State.after])]
        rfl
      exact (findSweep_of_queue (congrArg Sequencer.queue hseq) _).trans
        (planJudged_givenBack haloft hleg (hadm.trans hga) hbasis (hfree.trans hbarred) hxopen hxz)

end Sys2Proof.Machine
end

section
/-! PROOFS. The snapshot job and the lag search (R93, R104, R196). -/

namespace Sys2Proof.Machine

open Sys2Proof

/-- The correlator's take moves the lag slot from CAPTURING alone (R104). -/
theorem takeHalves_lag {s : State} (h : s.prof.lag.state ≠ .capturing) (n : Nat) : (takeHalves n s).prof.lag = s.prof.lag := by
  induction n generalizing s with
  | zero => rfl
  | succ n ih =>
    unfold takeHalves
    split
    · next k _ _ =>
      dsimp only
      split
      · exact ih h
      · next hlives =>
        split
        · next howner =>
          rw [howner] at hlives
          simp [ownerLives, h] at hlives
        · rfl
    · rfl

/-- After the end of a job the lag slot is as the job left it, unless it waited for a snapshot (R104). -/
theorem afterJob_lag {h : HalfId} {s : State} (hlag : s.prof.lag.state ≠ .capturing) :
    (afterJob (endJob h s)).prof.lag = s.prof.lag := by
  unfold afterJob
  rw [choose_lag]
  exact takeHalves_lag (s := endJob h s) hlag 2

theorem afterJob_monitor (h : HalfId) (s : State) : (afterJob (endJob h s)).monitor = s.monitor :=
  (choose_monitor _).trans (monitor_of_ing (by simp))

/-- A pairing that has settled stays so while the monitor and the lag slot stay. -/
theorem Settled.frame {s t u : State} {p : Pairing} {o : PairingOutcome} {e x i : Option Nat} (h : Settled s t p o e x i)
    (hmonitor : u.monitor = t.monitor) (hlag : u.prof.lag = t.prof.lag) (hmsg : u.msg = t.msg) (htime : u.time = t.time) :
    Settled s u p o e x i := by
  obtain ⟨hlog, -, hpairing, -⟩ := log_of_monitor hmonitor
  obtain ⟨hnone, hfree, hopen, hclosed⟩ := h
  refine ⟨hpairing.trans hnone, hlag.trans hfree, fun hc => ?_, fun r hc => ?_⟩
  · obtain ⟨hm, hl, hr⟩ := hopen hc
    exact ⟨hmsg.trans hm, hlog.trans hl, fun r h1 h2 => (record_of_monitor hmonitor _).trans (hr r h1 h2)⟩
  · obtain ⟨hl, hr, hm⟩ := hclosed r hc
    exact ⟨hlog.trans hl, fun g => (record_of_monitor hmonitor g).trans (hr g), by rw [hmsg, htime]; exact hm⟩

/-- What settles is told by the monitor and the message controller. -/
theorem Settled.of_start {s s' t : State} {p : Pairing} {o : PairingOutcome} {e x i : Option Nat} (h : Settled s' t p o e x i)
    (hing : s'.ing = s.ing) (hmsg : s'.msg = s.msg) : Settled s t p o e x i := by
  unfold Settled State.ingLeg at h ⊢
  rwa [hing, hmsg] at h

theorem exec_snapshotJobComplete {s : State} {n : Nat} {j : CorJob} {g : LegId} {k : Nat} (hs : s.inReset = false)
    (hj : s.cor.job = some j) (howner : (s.cap.half j.half).owner = some (.snapshot g k)) :
    exec (.snapshotJobComplete n) s = .next (afterJob (endJob j.half (snapshotSearched n j g k s))) := by
  show execSnapshotJobComplete n s = _
  rw [execSnapshotJobComplete, State.live, hs]
  dsimp only
  rw [hj]
  dsimp only
  rw [howner]
  rfl

/-- The state of a lag slot that is searched, before the search (R93, R104). -/
def lagProfiled (n : Nat) (j : CorJob) (lags : List Nat) (k : Nat) (s : State) : State :=
  (s.atEndOfWork n j.takenAt (k * k / 10)).setLag { s.prof.lag with state := .refining, profile := some lags }

theorem snapshotSearched_lag {s : State} {g : LegId} (n : Nat) (j : CorJob) (k : Nat) (hstate : s.prof.lag.state = .correlating)
    (hleg : s.prof.lag.leg = some g) : snapshotSearched n j g k s =
      searchLag g (lagProfiled n j ((List.range k).map (autoCorrelation k (s.cap.half j.half).signed)) k s) := by
  have hprof : (s.atEndOfWork n j.takenAt (k * k / 10)).prof = s.prof := by simp
  unfold snapshotSearched lagProfiled
  dsimp only
  rw [hprof, if_pos ⟨hstate, hleg⟩]

theorem snapshotSearched_other {s : State} {g : LegId} (n : Nat) (j : CorJob) (k : Nat)
    (hnot : ¬ (s.prof.lag.state = .correlating ∧ s.prof.lag.leg = some g)) :
    snapshotSearched n j g k s = s.atEndOfWork n j.takenAt (k * k / 10) := by
  have hprof : (s.atEndOfWork n j.takenAt (k * k / 10)).prof = s.prof := by simp
  unfold snapshotSearched
  dsimp only
  rw [hprof, if_neg hnot]

/-- The pairing with the lag peak found (R196). -/
def lagFound (b : Nat) (s : State) : State :=
  s.setIng { s.ing with pairing := s.ing.pairing.map fun p => { p with lagPeak := some b } }

section
variable {s : State} {g : LegId} {k : Nat} {lags : List Nat} (hk : s.prof.lag.k = some k) (hprofile : s.prof.lag.profile = some lags)
include hk hprofile

theorem searchLag_none (h : lagPeak (s.legSettings g) k lags = none) : searchLag g s = settlePairing .noEcho none none none s := by
  unfold searchLag
  dsimp only
  rw [hk, hprofile]
  dsimp only [Option.getD_some]
  rw [h]

theorem searchLag_some {b : Nat} (h : lagPeak (s.legSettings g) k lags = some b) : searchLag g s =
    handBatch [(.refinePairing g, (refineOperands lags b).1, (refineOperands lags b).2, false)] (lagFound b s) := by
  unfold searchLag
  dsimp only
  rw [hk, hprofile]
  dsimp only [Option.getD_some]
  rw [h]
  rfl

end

/-- Settles O34: the search of the lag profile, followed through the correlator's take and the choice. -/
theorem snapshotJobWritesTheLagProfile : Obligations.SnapshotJobWritesTheLagProfile := by
  unfold Obligations.SnapshotJobWritesTheLagProfile
  intro s n j g k hs hj howner
  dsimp only
  generalize hlags : (List.range k).map (autoCorrelation k (s.cap.half j.half).signed) = lags
  refine ⟨_, exec_snapshotJobComplete hs hj howner, afterJob_half _ _, ?_, ?_, ?_, ?_, ?_, fun hstate hleg hk p hp => ⟨fun hpeak => ?_, fun b hpeak => ?_⟩,
    fun hnot => ?_⟩
  iterate 5 · simp [afterJob]
  · have hsearched := snapshotSearched_lag n j k hstate hleg
    rw [hlags] at hsearched
    have hnone : searchLag g (lagProfiled n j lags k s) = settlePairing .noEcho none none none (lagProfiled n j lags k s) :=
      searchLag_none (k := k) (lags := lags) hk rfl (by simpa [lagProfiled, State.legSettings, State.leg] using hpeak)
    have hsettled := (settlePairing_settled (s := lagProfiled n j lags k s) (p := p) (by simpa [lagProfiled] using hp) .noEcho none none none)
    rw [hsearched, hnone]
    refine Settled.frame (hsettled.of_start (by simp [lagProfiled]) (by simp [lagProfiled])) (afterJob_monitor _ _)
      (afterJob_lag ?_) (by simp [afterJob]) (by simp [afterJob])
    rw [hsettled.2.1]
    decide
  · have hsearched := snapshotSearched_lag n j k hstate hleg
    rw [hlags] at hsearched
    have hsome : searchLag g (lagProfiled n j lags k s) = handBatch
        [(.refinePairing g, (refineOperands lags b).1, (refineOperands lags b).2, false)] (lagFound b (lagProfiled n j lags k s)) :=
      searchLag_some (s := lagProfiled n j lags k s) (k := k) (lags := lags) (b := b) hk rfl
        (by simpa [lagProfiled, State.legSettings, State.leg] using hpeak)
    have hpairing : (lagFound b (lagProfiled n j lags k s)).ing.pairing = some { p with lagPeak := some b } := by
      have hsame : (lagProfiled n j lags k s).ing = s.ing := by simp [lagProfiled]
      show (lagProfiled n j lags k s).ing.pairing.map _ = _
      rw [hsame, hp]
      rfl
    have hlag : (handBatch [(.refinePairing g, (refineOperands lags b).1, (refineOperands lags b).2, false)]
        (lagFound b (lagProfiled n j lags k s))).prof.lag = ⟨.refining, some g, some k, some lags⟩ := by
      rw [← hleg, ← hk]
      rfl
    rw [hsearched, hsome]
    refine ⟨(afterJob_lag (by rw [hlag]; exact nofun)).trans hlag, ?_, ?_⟩
    · exact (log_of_monitor (afterJob_monitor _ _)).2.2.1.trans hpairing
    · have hdiv : (lagFound b (lagProfiled n j lags k s)).div = s.div := by simp [lagFound, lagProfiled]
      have hhanded := Divider.ready_handed s.div (lagFound b (lagProfiled n j lags k s)).time.clock
        [(.refinePairing g, (refineOperands lags b).1, (refineOperands lags b).2, false)]
      rw [← hdiv] at hhanded
      simpa [afterJob, handBatch, hdiv, batchJobs] using hhanded
  · rw [snapshotSearched_other n j k hnot]
    obtain ⟨hlog, -, hpairing, -⟩ := log_of_monitor (afterJob_monitor j.half (s.atEndOfWork n j.takenAt (k * k / 10)))
    refine ⟨by simp [afterJob], ?_, ?_, by simp [afterJob]⟩
    · rw [hpairing]
      simp
    · rw [hlog]
      simp

end Sys2Proof.Machine
end

section
/-! PROOFS. The end of a division: a REFINE result and the anchor search (R110, R111, R114, R117, R123, R124). -/

namespace Sys2Proof.Machine

open Sys2Proof

/-! ### The end of a division (R111) -/

theorem Job.cycles_eq (j : Job) : j.cycles = if j.result = none then 8 else 36 := by
  unfold Job.cycles Job.result
  cases j.overflows <;> rfl

/-- The state at the end of the running division, with the divider IDLE (R111). -/
def divisionOver (r : Running) (s : State) : State :=
  (s.atClock (r.startClock + if r.job.result = none then 8 else 36)).setDiv { s.div with running := none }

/-- The divider's next turn, in a state of that instant (R110, R111). -/
def dividerGoesOn (r : Running) (s x : State) : State :=
  x.setDiv (x.div.pump (s.atClock (r.startClock + if r.job.result = none then 8 else 36)).time.clock)

theorem handResult_time (j : Job) (s : State) : (handResult j s).time = s.time := by simp

theorem exec_divisionComplete {s : State} {r : Running} (hs : s.inReset = false) (hr : s.div.running = some r) :
    exec .divisionComplete s = .next (dividerGoesOn r s (handResult r.job (divisionOver r s))) := by
  show execDivisionComplete s = _
  have hdiv : ∀ n, (s.atClock n).div = s.div := fun n => by simp
  rw [execDivisionComplete, State.live, hs]
  dsimp only
  rw [hr]
  dsimp only
  rw [Job.cycles_eq, hdiv, handResult_time]
  rfl

theorem exec_divisionComplete_idle {s : State} (hs : s.inReset = false) (hr : s.div.running = none) :
    exec .divisionComplete s = .next s := by
  show execDivisionComplete s = _
  rw [execDivisionComplete, State.live, hs, hr]
  rfl

theorem setDiv_atClock_findSweep (n : Nat) (d : Divider) (s : State) (id : Nat) :
    ((s.atClock n).setDiv d).findSweep id = s.findSweep id :=
  findSweep_of_queue (by simp) id

theorem setDiv_atClock_slot (n : Nat) (d : Divider) (s : State) (i : SlotId) : ((s.atClock n).setDiv d).slot i = s.slot i := by
  simp [State.slot]

theorem divisionOver_findSweep (r : Running) (s : State) (id : Nat) : (divisionOver r s).findSweep id = s.findSweep id :=
  setDiv_atClock_findSweep _ _ s id

theorem divisionOver_slot (r : Running) (s : State) (i : SlotId) : (divisionOver r s).slot i = s.slot i :=
  setDiv_atClock_slot _ _ s i

theorem setDiv_atClock_env (n : Nat) (d : Divider) (s : State) : ((s.atClock n).setDiv d).map = s.map ∧
    ((s.atClock n).setDiv d).legs = s.legs ∧ ((s.atClock n).setDiv d).arith = s.arith := by simp

theorem setDiv_atClock_rest (n : Nat) (d : Divider) (s : State) : ((s.atClock n).setDiv d).prof = s.prof ∧
    ((s.atClock n).setDiv d).ing = s.ing ∧ ((s.atClock n).setDiv d).msg = s.msg ∧ ((s.atClock n).setDiv d).plan = s.plan ∧
      ((s.atClock n).setDiv d).stray = s.stray ∧ ((s.atClock n).setDiv d).seq = s.seq := by simp

theorem divisionOver_rest (r : Running) (s : State) : (divisionOver r s).prof = s.prof ∧ (divisionOver r s).ing = s.ing ∧
    (divisionOver r s).msg = s.msg ∧ (divisionOver r s).plan = s.plan ∧ (divisionOver r s).stray = s.stray ∧
      (divisionOver r s).seq = s.seq :=
  setDiv_atClock_rest _ _ s

theorem divisionOver_env (r : Running) (s : State) : (divisionOver r s).map = s.map ∧ (divisionOver r s).legs = s.legs ∧
    (divisionOver r s).arith = s.arith :=
  setDiv_atClock_env _ _ s

theorem anchor_congr {s t : State} (h : t.map = s.map) (g : LegId) : t.anchor g = s.anchor g := by
  unfold State.anchor State.elements
  rw [h]

theorem legSettings_congr {s t : State} (h : t.legs = s.legs) (g : LegId) : t.legSettings g = s.legSettings g := by
  unfold State.legSettings State.leg
  rw [h]

theorem qEff_congr {s t : State} (hlegs : t.legs = s.legs) (harith : t.arith = s.arith) (g : LegId) : t.qEff g = s.qEff g := by
  unfold State.qEff
  rw [legSettings_congr hlegs, harith]

/-! ### The search near a distance (R123) -/

theorem nearestPeak_eq_none {target reach : Nat} {dist : Peak → Nat} {ps : List Peak}
    (h : ∀ p ∈ ps, reach < distanceBetween (dist p) target) : nearestPeak target reach dist ps = none := by
  induction ps using List.reverseRecOn with
  | nil => rfl
  | append_singleton ps p ih =>
    rw [nearestPeak_concat, if_neg (Nat.not_le.mpr (h p (by simp))), ih fun q hq => h q (List.mem_append_left _ hq)]

theorem nearestPeak_eq_some {target reach : Nat} {dist : Peak → Nat} {ps : List Peak} (hps : ps.Pairwise fun p q => p.k < q.k)
    {p : Peak} (hp : p ∈ ps) (hreach : distanceBetween (dist p) target ≤ reach) (hbest : ∀ q ∈ ps, GoesBefore target dist p q) :
    nearestPeak target reach dist ps = some p := by
  have hfinds := nearestPeak_findsNearest (target := target) (reach := reach) (dist := dist) hps
  cases hn : nearestPeak target reach dist ps with
  | none =>
    rw [hn] at hfinds
    exact absurd hreach (Nat.not_le.mpr (hfinds p hp))
  | some b =>
    rw [hn] at hfinds
    obtain ⟨⟨hb, -⟩, hfirst⟩ := hfinds
    have hk : b.k = p.k := by
      have hbp := hfirst p hp hreach
      have hpb := hbest b hb
      unfold GoesBefore at hbp hpb
      omega
    have hsame : b = p := by
      by_contra hne
      rcases List.pairwise_iff_getElem.mp hps, List.getElem_of_mem hb, List.getElem_of_mem hp with ⟨hlt, ⟨i, hi, rfl⟩, ⟨j, hj, rfl⟩⟩
      rcases Nat.lt_trichotomy i j with hij | hij | hij
      · exact absurd hk (Nat.ne_of_lt (hlt i j hi hj hij))
      · exact hne (by simp [hij])
      · exact absurd hk.symm (Nat.ne_of_lt (hlt j i hj hi hij))
    rw [hsame]

/-! ### A REFINE result of a sweep (R117) -/

/-- The peak list with the result of a division at one bin. -/
def refinedPeaks (k q : Nat) (ps : List Peak) : List Peak :=
  ps.map fun p => if p.k = k then { p with f := some ((q : Int) - 8), t16 := some (16 * k + q - 8) } else p

theorem writeRefined_eq {s : State} {w : Sweep} {c : SlotContent} {ps : List Peak} (hc : (s.slot w.slot).content = some c)
    (hps : c.peaks = some ps) (k q : Nat) : writeRefined w k q s =
      s.setSlot w.slot { s.slot w.slot with content := some { c with peaks := some (refinedPeaks k q ps) } } := by
  unfold writeRefined mapContent
  rw [hc, Option.map_some, hps]
  rfl

theorem handResult_refineSweep {s : State} {j : Job} {id k q m : Nat} {w : Sweep} (ho : j.owner = .refineSweep id k)
    (hw : s.findSweep id = some w) (hq : j.result = some (q, m)) : handResult j s =
      if j.last then afterRefinement w (writeRefined w k q s) else writeRefined w k q s := by
  simp only [handResult, ho, hw, hq]

theorem handResult_refineSweep_gone {s : State} {j : Job} {id k : Nat} (ho : j.owner = .refineSweep id k)
    (hw : s.findSweep id = none) : handResult j s = s := by
  simp only [handResult, ho, hw]

section
variable {s : State} {id : Nat} {w : Sweep} (hw : s.findSweep id = some w)
include hw

theorem anchorSearch_noAnchor (ha : s.anchor w.leg = none) : anchorSearch id s = calFailed id s := by
  unfold anchorSearch
  rw [hw]
  dsimp only
  rw [ha]

theorem anchorSearch_noPeak {a : Element} (ha : s.anchor w.leg = some a) (hp : anchorPeak s w a = none) :
    anchorSearch id s = calFailed id s := by
  unfold anchorSearch
  rw [hw]
  dsimp only
  rw [ha]
  dsimp only
  rw [hp]

theorem anchorSearch_found {a : Element} {p : Peak} (ha : s.anchor w.leg = some a) (hp : anchorPeak s w a = some p) :
    anchorSearch id s = handBatch [(.cal id a.id a.nominal, 40960 * a.nominal,
      p.t16.getD 0 * (s.legSettings w.leg).chipDivider, w.options.round)] s := by
  unfold anchorSearch
  rw [hw]
  dsimp only
  rw [ha]
  dsimp only
  rw [hp]

end

section
variable {x : State} {w : Sweep} {c : SlotContent} {ps : List Peak} {id : Nat} (hw : x.findSweep id = some w)

/-- A state with the peak list of a sweep's slot replaced (R117). -/
def peaksWritten (w : Sweep) (c : SlotContent) (ps : List Peak) (x : State) : State :=
  x.setSlot w.slot { x.slot w.slot with content := some { c with peaks := some ps } }

theorem peaksOf_peaksWritten : peaksOf (peaksWritten w c ps x) w.slot = ps := by simp [peaksOf, peaksWritten]

theorem afterRefinement_plain (hcal : w.options.calibrate = false) (v : State) : afterRefinement w v = reconcile w.id v := by
  unfold afterRefinement
  rw [hcal]
  rfl

theorem afterRefinement_calibrate (hcal : w.options.calibrate = true) (v : State) : afterRefinement w v = anchorSearch w.id v := by
  unfold afterRefinement
  rw [hcal]
  rfl

include hw

/-- The anchor search of a calibrating sweep that finds none, or no peak near it (R123). -/
theorem calibration_fails (hcal : w.options.calibrate = true) (hnone : x.anchor w.leg = none ∨ ∃ a, x.anchor w.leg = some a ∧
    ∀ p ∈ ps, 4 * (x.legSettings w.leg).tolerance <
      distanceBetween (toDistance (x.qEff w.leg) (p.t16.getD 0) (x.legSettings w.leg).chipDivider).1 a.nominal) :
    afterRefinement w (peaksWritten w c ps x) = calFailed id (peaksWritten w c ps x) := by
  have hid := findSweep_id hw
  subst hid
  rw [afterRefinement_calibrate hcal]
  rcases hnone with ha | ⟨a, ha, hfar⟩
  · exact anchorSearch_noAnchor (s := peaksWritten w c ps x) hw ha
  · refine anchorSearch_noPeak (s := peaksWritten w c ps x) hw ha ?_
    unfold anchorPeak
    rw [peaksOf_peaksWritten]
    exact nearestPeak_eq_none hfar

/-- The anchor search that finds the anchor's peak hands its CAL job to the divider (R123, R124). -/
theorem calibration_handed (hcal : w.options.calibrate = true) {a : Element} (ha : x.anchor w.leg = some a) {p : Peak} (hp : p ∈ ps)
    (hps : ps.Pairwise fun p q => p.k < q.k)
    (hreach : distanceBetween (toDistance (x.qEff w.leg) (p.t16.getD 0) (x.legSettings w.leg).chipDivider).1 a.nominal ≤
      4 * (x.legSettings w.leg).tolerance)
    (hbest : ∀ q ∈ ps, GoesBefore a.nominal
      (fun p => (toDistance (x.qEff w.leg) (p.t16.getD 0) (x.legSettings w.leg).chipDivider).1) p q) :
    afterRefinement w (peaksWritten w c ps x) = (peaksWritten w c ps x).setDiv (x.div.ready x.time.clock
      [(.cal id a.id a.nominal, 40960 * a.nominal, p.t16.getD 0 * (x.legSettings w.leg).chipDivider, w.options.round)]) := by
  have hid := findSweep_id hw
  subst hid
  rw [afterRefinement_calibrate hcal]
  refine anchorSearch_found (s := peaksWritten w c ps x) hw ha ?_
  unfold anchorPeak
  rw [peaksOf_peaksWritten]
  exact nearestPeak_eq_some hps hp hreach hbest

end

/-- Settles O38: the end of the division; the REFINE result with what follows the last one. -/
theorem refineResultIsWritten : Obligations.RefineResultIsWritten := by
  unfold Obligations.RefineResultIsWritten
  refine ⟨fun s hs hr => exec_divisionComplete_idle hs hr, fun d clock hd => Divider.pump_start d clock hd,
    fun d clock => Divider.pump_turn clock d, fun s r hs hr => ⟨⟨_, exec_divisionComplete hs hr, ?_⟩, fun id k ho => ⟨fun hgone => ?_,
      fun q m w c ps hq hw hc hps => ?_⟩⟩⟩
  · exact handResult_time r.job (divisionOver r s)
  · rw [exec_divisionComplete hs hr, handResult_refineSweep_gone ho ((divisionOver_findSweep r s id).trans hgone)]
    rfl
  · have hw' := (divisionOver_findSweep r s id).trans hw
    have hdone := exec_divisionComplete hs hr
    have hslot := divisionOver_slot r s w.slot
    have hwritten : writeRefined w k q (divisionOver r s) = peaksWritten w c (refinedPeaks k q ps) (divisionOver r s) :=
      writeRefined_eq ((congrArg Slot.content hslot).trans hc) hps k q
    rw [handResult_refineSweep ho hw' hq, hwritten] at hdone
    have hv : peaksWritten w c (refinedPeaks k q ps) (divisionOver r s) =
        (divisionOver r s).setSlot w.slot { s.slot w.slot with content := some { c with peaks := some (refinedPeaks k q ps) } } := by
      rw [peaksWritten, hslot]
    obtain ⟨hmap, hlegs, harith⟩ := divisionOver_env r s
    have hanchor : (divisionOver r s).anchor w.leg = s.anchor w.leg := anchor_congr hmap w.leg
    have hset : (divisionOver r s).legSettings w.leg = s.legSettings w.leg := legSettings_congr hlegs w.leg
    have hqeff : (divisionOver r s).qEff w.leg = s.qEff w.leg := qEff_congr hlegs harith w.leg
    refine ⟨fun hlast => ?_, fun hlast hcal => ?_, fun hlast hcal => ⟨fun ha => ?_, fun a ha => ⟨fun hfar => ?_, fun p hp hreach hsorted hbest => ?_⟩⟩⟩
    · rw [hdone, hlast, hv]
      rfl
    · rw [hdone, hlast, if_pos rfl, afterRefinement_plain hcal, hv, findSweep_id hw]
      rfl
    · rw [hdone, hlast, if_pos rfl, calibration_fails hw' hcal (.inl (hanchor.trans ha)), hv]
      rfl
    · rw [hdone, hlast, if_pos rfl, calibration_fails hw' hcal (.inr ⟨a, hanchor.trans ha, by rw [hset, hqeff]; exact hfar⟩), hv]
      rfl
    · have hhanded := calibration_handed (c := c) (ps := refinedPeaks k q ps) hw' hcal (hanchor.trans ha) hp hsorted (by rw [hset, hqeff]; exact hreach)
        fun x hx => by rw [hset, hqeff]; exact hbest x hx
      rw [hset] at hhanded
      refine ⟨_, Divider.ready_handed (divisionOver r s).div (divisionOver r s).time.clock
        [(.cal id a.id a.nominal, 40960 * a.nominal, p.t16.getD 0 * (s.legSettings w.leg).chipDivider, w.options.round)], ?_⟩
      rw [hdone, hlast, if_pos rfl, hhanded, hv]
      rfl

end Sys2Proof.Machine
end

section
/-! PROOFS. The results of a CAL job and of a pairing's REFINE job (R114, R125, R197). -/

namespace Sys2Proof.Machine

open Sys2Proof

/-! ### The element nearest a position (R197) -/

/-- Element `e` goes before `f` at a position: nearer, or as near and shorter. -/
def StandsNearer (position : Nat) (e f : Element) : Prop :=
  distanceBetween e.nominal position < distanceBetween f.nominal position ∨
    (distanceBetween e.nominal position = distanceBetween f.nominal position ∧ e.nominal ≤ f.nominal)

/-- What the search for an element answers: nothing when none is within reach, or the first of those that are. -/
def FindsElement (position reach : Nat) (es : List Element) : Option Element → Prop
  | none => ∀ e ∈ es, reach < distanceBetween e.nominal position
  | some b => (b ∈ es ∧ distanceBetween b.nominal position ≤ reach) ∧
      ∀ e ∈ es, distanceBetween e.nominal position ≤ reach → StandsNearer position b e

section
variable {position reach : Nat} {es : List Element}

theorem nearestElement_concat (es : List Element) (e : Element) : nearestElement position reach (es ++ [e]) =
    if distanceBetween e.nominal position ≤ reach then
      match nearestElement position reach es with
      | none => some e
      | some b => if distanceBetween e.nominal position < distanceBetween b.nominal position then some e else some b
    else nearestElement position reach es :=
  List.foldl_concat ..

theorem nearestElement_findsElement (hes : es.Pairwise fun e f => e.nominal < f.nominal) :
    FindsElement position reach es (nearestElement position reach es) := by
  induction es using List.reverseRecOn with
  | nil => simp [nearestElement, FindsElement]
  | append_singleton es e ih =>
    obtain ⟨hinit, -, hlast⟩ := List.pairwise_append.mp hes
    specialize ih hinit
    rw [nearestElement_concat]
    generalize nearestElement position reach es = best at ih ⊢
    rcases le_or_gt (distanceBetween e.nominal position) reach with hnear | hfar
    · rw [if_pos hnear]
      cases best with
      | none =>
        refine ⟨⟨by simp, hnear⟩, List.forall_mem_append.mpr ⟨fun f hf hreach => ?_, ?_⟩⟩
        · exact absurd hreach (Nat.not_le.mpr (ih f hf))
        · exact List.forall_mem_singleton.mpr fun _ => .inr ⟨rfl, le_rfl⟩
      | some b =>
        obtain ⟨⟨hb, hbreach⟩, hbest⟩ := ih
        dsimp only
        split
        case isTrue hnearer =>
          refine ⟨⟨by simp, hnear⟩, List.forall_mem_append.mpr ⟨fun f hf hreach => ?_, ?_⟩⟩
          · have hbf := hbest f hf hreach
            unfold StandsNearer at hbf ⊢
            omega
          · exact List.forall_mem_singleton.mpr fun _ => .inr ⟨rfl, le_rfl⟩
        case isFalse hstays =>
          have hbe : StandsNearer position b e := by
            have hlt := hlast b hb e (by simp)
            unfold StandsNearer
            omega
          exact ⟨⟨List.mem_append_left _ hb, hbreach⟩,
            List.forall_mem_append.mpr ⟨hbest, List.forall_mem_singleton.mpr fun _ => hbe⟩⟩
    · rw [if_neg (Nat.not_le.mpr hfar)]
      cases best with
      | none => exact List.forall_mem_append.mpr ⟨ih, List.forall_mem_singleton.mpr hfar⟩
      | some b =>
        obtain ⟨⟨hb, hbreach⟩, hbest⟩ := ih
        exact ⟨⟨List.mem_append_left _ hb, hbreach⟩, List.forall_mem_append.mpr
          ⟨hbest, List.forall_mem_singleton.mpr fun hreach => absurd hreach (Nat.not_le.mpr hfar)⟩⟩

theorem nearestElement_eq_none (h : ∀ e ∈ es, reach < distanceBetween e.nominal position) :
    nearestElement position reach es = none := by
  induction es using List.reverseRecOn with
  | nil => rfl
  | append_singleton es e ih =>
    rw [nearestElement_concat, if_neg (Nat.not_le.mpr (h e (by simp))), ih fun f hf => h f (List.mem_append_left _ hf)]

theorem nearestElement_eq_some (hes : es.Pairwise fun e f => e.nominal < f.nominal) {e : Element} (he : e ∈ es)
    (hreach : distanceBetween e.nominal position ≤ reach) (hbest : ∀ f ∈ es, StandsNearer position e f) :
    nearestElement position reach es = some e := by
  have hfinds := nearestElement_findsElement (position := position) (reach := reach) hes
  cases hn : nearestElement position reach es with
  | none =>
    rw [hn] at hfinds
    exact absurd hreach (Nat.not_le.mpr (hfinds e he))
  | some b =>
    rw [hn] at hfinds
    obtain ⟨⟨hb, -⟩, hfirst⟩ := hfinds
    have hnominal : b.nominal = e.nominal := by
      have hbe := hfirst e he hreach
      have heb := hbest b hb
      unfold StandsNearer at hbe heb
      omega
    have hsame : b = e := List.inj_on_of_nodup_map (f := Element.nominal)
      (List.pairwise_map.mpr (hes.imp fun h => Nat.ne_of_lt h)) hb he hnominal
    rw [hsame]

end

/-! ### A CAL result (R125) -/

theorem anchorUnchanged_iff {s : State} {g : LegId} {anchorId distance : Nat} : anchorUnchanged s g anchorId distance = true ↔
    ∃ a, s.anchor g = some a ∧ a.id = anchorId ∧ a.nominal = distance := by
  unfold anchorUnchanged
  cases s.anchor g <;> simp

theorem judgeCal_gone {s : State} {id : Nat} (h : s.findSweep id = none) (anchorId distance : Nat) (o : Option (Nat × Nat)) :
    judgeCal id anchorId distance o s = s := by
  unfold judgeCal
  rw [h]

section
variable {s : State} {id anchorId distance : Nat} {w : Sweep} (hw : s.findSweep id = some w)
include hw

theorem judgeCal_done {q m : Nat} (hkept : ∃ a, s.anchor w.leg = some a ∧ a.id = anchorId ∧ a.nominal = distance)
    (hlo : 9593 ≤ q) (hhi : q ≤ 19187) : judgeCal id anchorId distance (some (q, m)) s =
      reconcile id (flagSweep id (fun f => { f with calDone := true }) (setCal w.leg ⟨q, s.arith.temperature⟩ s)) := by
  unfold judgeCal
  rw [hw]
  dsimp only
  rw [anchorUnchanged_iff.mpr hkept]
  exact if_pos ⟨hlo, hhi⟩

theorem judgeCal_failed {o : Option (Nat × Nat)} (hnot : o = none ∨
    ¬ (∃ a, s.anchor w.leg = some a ∧ a.id = anchorId ∧ a.nominal = distance) ∨
      ∃ q m, o = some (q, m) ∧ (q < 9593 ∨ 19187 < q)) : judgeCal id anchorId distance o s = calFailed id s := by
  unfold judgeCal
  rw [hw]
  dsimp only
  split
  · next hkept =>
    rcases hnot with h | h | ⟨q, m, h, hrange⟩
    · cases h
    · exact absurd (anchorUnchanged_iff.mp hkept) h
    · cases h
      exact if_neg fun hin => by omega
  · rfl

end

/-! ### A pairing's REFINE result (R197) -/

theorem handResult_cal {s : State} {j : Job} {id anchorId distance : Nat} (ho : j.owner = .cal id anchorId distance) :
    handResult j s = judgeCal id anchorId distance j.result s := by
  unfold handResult
  rw [ho]

theorem handResult_pairing_other {s : State} {j : Job} {g : LegId} (ho : j.owner = .refinePairing g)
    (hnot : ¬ (s.prof.lag.state = .refining ∧ s.prof.lag.leg = some g)) : handResult j s = s := by
  unfold handResult
  rw [ho]
  exact if_neg hnot

theorem handResult_pairing {s : State} {j : Job} {g : LegId} {q m : Nat} (ho : j.owner = .refinePairing g)
    (hlag : s.prof.lag.state = .refining ∧ s.prof.lag.leg = some g) (hq : j.result = some (q, m)) :
    handResult j s = pairingResult g q s := by
  simp only [handResult, ho, hq, hlag, and_self, ↓reduceIte]

/-- The distance of the echo that a pairing's REFINE job has located (R197). -/
def echoDistance (s : State) (g : LegId) (b q : Nat) : Nat :=
  (toDistance (s.qEff g) (16 * b + q - 8) (s.legSettings g).chipDivider).1

section
variable {s : State} {g : LegId} {p : Pairing} {b q : Nat} (hp : s.ing.pairing = some p) (hb : p.lagPeak = some b)
include hp

theorem pairingResult_noAnchor (ha : s.anchor g = none) : pairingResult g q s = settlePairing .noAnchor none none none s := by
  simp only [pairingResult, hp, ha]

include hb
variable {a : Element} (ha : s.anchor g = some a)
include ha

theorem pairingResult_outOfSpan (hlong : a.measured.getD a.nominal < echoDistance s g b q) :
    pairingResult g q s = settlePairing .outOfSpan (some (echoDistance s g b q)) none none s := by
  unfold pairingResult
  rw [hp]
  dsimp only
  rw [ha, hb]
  exact if_pos hlong

theorem pairingResult_located (hlong : echoDistance s g b q ≤ a.measured.getD a.nominal) : pairingResult g q s =
    match nearestElement (a.measured.getD a.nominal - echoDistance s g b q) (2 * (s.legSettings g).tolerance) (s.elements g) with
    | none => settlePairing .located (some (echoDistance s g b q)) (some (a.measured.getD a.nominal - echoDistance s g b q)) none s
    | some e => settlePairing .located (some (echoDistance s g b q)) (some (a.measured.getD a.nominal - echoDistance s g b q))
        (some e.id) (chargeScore g e.id s) := by
  unfold pairingResult
  rw [hp]
  dsimp only
  rw [ha, hb]
  exact if_neg (Nat.not_lt.mpr hlong)

end

/-- What settles a pairing before the divider's turn has settled it after it. -/
theorem Settled.dividerGoesOn {s t : State} {r : Running} {p : Pairing} {o : PairingOutcome} {e x i : Option Nat}
    (h : Settled s t p o e x i) : Settled s (dividerGoesOn r s t) p o e x i :=
  h.frame (monitor_of_ing rfl) rfl rfl rfl

/-- Settles O39: the result of a CAL job in its cases, then that of a pairing's REFINE job. -/
theorem calAndPairingResultsAreJudged : Obligations.CalAndPairingResultsAreJudged := by
  unfold Obligations.CalAndPairingResultsAreJudged
  intro s r hs hr
  obtain ⟨hmap, hlegs, harith⟩ := divisionOver_env r s
  obtain ⟨hprof, hing, hmsg, hplan, hstray, hseq⟩ := divisionOver_rest r s
  have hdone := exec_divisionComplete hs hr
  refine ⟨fun id anchorId distance ho => ⟨fun hgone => ?_, fun w hw => ⟨fun q m hq hkept hlo hhi => ?_, fun hnot => ?_⟩⟩,
    fun g ho => ⟨fun hnot => ?_, fun p b q m hstate hleg hp hb hq => ?_⟩⟩
  · rw [hdone, handResult_cal ho, judgeCal_gone ((divisionOver_findSweep r s id).trans hgone)]
    rfl
  · have hjudged : handResult r.job (divisionOver r s) = judgeCal id anchorId distance (some (q, m)) (divisionOver r s) :=
      (handResult_cal ho).trans (by rw [hq])
    rw [hdone, hjudged, judgeCal_done ((divisionOver_findSweep r s id).trans hw) (by rw [anchor_congr hmap]; exact hkept) hlo hhi,
      setCal, harith]
    rfl
  · rw [hdone, handResult_cal ho, judgeCal_failed ((divisionOver_findSweep r s id).trans hw)
      (by rw [anchor_congr hmap]; exact hnot)]
    rfl
  · rw [hdone, handResult_pairing_other ho (by rw [hprof]; exact hnot)]
    rfl
  · rw [handResult_pairing ho (by rw [hprof]; exact ⟨hstate, hleg⟩) hq] at hdone
    have htime : (divisionOver r s).time = (s.atClock (r.startClock + if r.job.result = none then 8 else 36)).time := rfl
    generalize divisionOver r s = idle at *
    have hp' : idle.ing.pairing = some p := by rw [hing, hp]
    have hanchor := anchor_congr hmap g
    have helements : idle.elements g = s.elements g := by rw [State.elements, hmap, State.elements]
    have hset := legSettings_congr hlegs g
    have hecho : echoDistance idle g b q = (toDistance (s.qEff g) (16 * b + q - 8) (s.legSettings g).chipDivider).1 := by
      rw [echoDistance, hset, qEff_congr hlegs harith]
    have hsettle : ∀ o e x i, Settled s (dividerGoesOn r s (settlePairing o e x i idle)) p o e x i := fun o e x i =>
      ((settlePairing_settled hp' o e x i).of_start hing hmsg).dividerGoesOn
    refine ⟨_, hdone, (pairingResult_frame g q idle).2.2.2.1.trans htime, ?_, ?_, ?_, ?_, ?_, fun ha => ?_, fun a ha => ?_⟩
    iterate 5 · simp [dividerGoesOn, *]
    · rw [pairingResult_noAnchor hp' (hanchor.trans ha)]
      exact ⟨hsettle .., by simp [dividerGoesOn, hmap]⟩
    · have ha' := hanchor.trans ha
      refine ⟨fun hlong => ?_, fun hlong hfar => ?_, fun hlong hlist e he hreach hbest => ?_⟩
      · rw [pairingResult_outOfSpan hp' hb ha' (by rw [hecho]; exact hlong), hecho]
        exact ⟨hsettle .., by simp [dividerGoesOn, hmap]⟩
      · rw [pairingResult_located hp' hb ha' (by rw [hecho]; exact hlong), hecho, hset, helements, nearestElement_eq_none hfar]
        exact ⟨hsettle .., by simp [dividerGoesOn, hmap]⟩
      · rw [pairingResult_located hp' hb ha' (by rw [hecho]; exact hlong), hecho, hset, helements,
          nearestElement_eq_some hlist.ascending he hreach hbest]
        refine ⟨Settled.dividerGoesOn ((settlePairing_settled (s := chargeScore g e.id idle) hp' ..).of_start hing hmsg), ?_⟩
        have hcharged : (chargeScore g e.id idle).map = idle.map.set g { idle.map.get g with
            elements := (idle.elements g).map fun x => if x.id = e.id then { x with score := satSucc 255 x.score } else x } := rfl
        rw [helements, hmap] at hcharged
        exact (by simp [dividerGoesOn] : (dividerGoesOn r s (settlePairing .located _ _ (some e.id) (chargeScore g e.id idle))).map =
          (chargeScore g e.id idle).map).trans hcharged

end Sys2Proof.Machine
end

section
/-! PROOFS. The end of an analysis: profile, peaks, their REFINE jobs, or the end of a clipped sweep (R97 to R103, R108, R116). -/

namespace Sys2Proof.Machine

open Sys2Proof

/-! ### The batch of a sweep (R108) -/

theorem batchJobs_map (batch : Nat) (specs : List (JobOwner × Nat × Nat × Bool)) :
    (batchJobs batch specs).map (fun j => (j.owner, j.dividend, j.divisor, j.round, j.batch)) =
      specs.map fun x => (x.1, x.2.1, x.2.2.1, x.2.2.2, batch) := by
  induction specs with
  | nil => rfl
  | cons x xs ih =>
    obtain ⟨o, dividend, divisor, round⟩ := x
    simp [batchJobs, ih]

theorem batchJobs_last (batch : Nat) {specs : List (JobOwner × Nat × Nat × Bool)} (h : specs ≠ []) :
    (batchJobs batch specs).map (·.last) = List.replicate ((batchJobs batch specs).length - 1) false ++ [true] := by
  induction specs with
  | nil => exact absurd rfl h
  | cons x xs ih =>
    obtain ⟨o, dividend, divisor, round⟩ := x
    cases xs with
    | nil => rfl
    | cons y ys =>
      have hrest := ih (by simp)
      have hlen := batchJobs_length batch (y :: ys)
      rw [batchJobs, List.map_cons, hrest, List.length_cons, Nat.add_sub_cancel, hlen]
      rfl

/-! ### What the analysis writes (R97 to R102) -/

/-- The trimmed profile that the analysis of a sweep makes (R98, R99). -/
def analysedProfile (s : State) (w : Sweep) (acc : List Nat) : List Nat :=
  acc.map fun a => trimAmplitude (s.legSettings w.leg).trim (normalise w.options.round w.n a)

/-- The peaks it finds (R100). -/
def foundPeaks (s : State) (w : Sweep) (acc : List Nat) : List (Nat × Nat) :=
  findPeaks (s.legSettings w.leg).floor (s.legSettings w.leg).blank 1 (analysedProfile s w acc)

/-- The flags of a sweep whose search found so many peaks (R101). -/
def truncatedFlags (found : List (Nat × Nat)) (f : SweepFlags) : SweepFlags :=
  { f with peaksTruncated := f.peaksTruncated || decide (32 < found.length) }

/-- The state with profile, peaks and PEAKS_TRUNCATED written, before what follows (R101, R102). -/
def analysed (w : Sweep) (acc : List Nat) (s : State) : State :=
  flagSweep w.id (truncatedFlags (foundPeaks s w acc)) (mapContent w.slot (fun c => { c with
    acc := none, analysisStart := none, profile := some (analysedProfile s w acc)
    peaks := some ((keepPeaks (foundPeaks s w acc)).map Peak.fresh) }) s)

theorem completeAnalysis_eq (w : Sweep) (acc : List Nat) (s : State) : completeAnalysis w acc s =
    if w.flags.clipped then endSweep w.id .doneClipped 0 0 (levelClipped w.leg (analysed w acc s))
    else if ((keepPeaks (foundPeaks s w acc)).map Peak.fresh).isEmpty then afterRefinement w (analysed w acc s)
    else handBatch (refineBatch w.id (analysedProfile s w acc) ((keepPeaks (foundPeaks s w acc)).map Peak.fresh)) (analysed w acc s) := rfl

theorem exec_analysisComplete {s : State} {n start : Nat} {i : SlotId} {v : SlotContent} {acc : List Nat} {w : Sweep}
    (hs : s.inReset = false) (hslot : s.slot i = ⟨.analysing, some v⟩) (hstart : v.analysisStart = some start)
    (hacc : v.acc = some acc) (hw : s.findSweep v.sweepId = some w) : exec (.analysisComplete n i) s =
      .next (completeAnalysis w acc (s.atEndOfWork n start 4000)) := by
  show execAnalysisComplete n i s = _
  rw [execAnalysisComplete, State.live, hs, hslot]
  dsimp only
  rw [hstart, hacc, hw]
  rfl

section
variable (w : Sweep) (acc : List Nat) (s : State)

@[simp] theorem analysed_frame : (analysed w acc s).pending = s.pending ∧ (analysed w acc s).time = s.time ∧
    (analysed w acc s).msg = s.msg ∧ (analysed w acc s).win = s.win ∧ (analysed w acc s).plan = s.plan ∧
    (analysed w acc s).legs = s.legs ∧ (analysed w acc s).div = s.div ∧ (analysed w acc s).arith = s.arith ∧
    (analysed w acc s).map = s.map ∧ (analysed w acc s).stray = s.stray ∧ (analysed w acc s).ing = s.ing := by
  simp [analysed]

variable {w s}

theorem analysed_slot {v : SlotContent} (hslot : s.slot w.slot = ⟨.analysing, some v⟩) : (analysed w acc s).slot w.slot =
    ⟨.analysing, some { v with acc := none, analysisStart := none, profile := some (analysedProfile s w acc)
                               peaks := some ((keepPeaks (foundPeaks s w acc)).map Peak.fresh) }⟩ := by
  have hkeep : ∀ u : State, (flagSweep w.id (truncatedFlags (foundPeaks s w acc)) u).slot w.slot = u.slot w.slot := fun u => rfl
  rw [analysed, hkeep, mapContent, State.setSlot_slot, if_pos rfl, hslot]
  rfl

theorem analysed_findSweep (hw : s.findSweep w.id = some w) :
    (analysed w acc s).findSweep w.id = some { w with flags := truncatedFlags (foundPeaks s w acc) w.flags } := by
  have hfound : (mapContent w.slot (fun c => { c with
      acc := none, analysisStart := none, profile := some (analysedProfile s w acc)
      peaks := some ((keepPeaks (foundPeaks s w acc)).map Peak.fresh) }) s).findSweep w.id = some w :=
    (findSweep_of_queue (by simp) _).trans hw
  rw [analysed, flagSweep, findSweep_updateSweep (f := fun x => { x with flags := truncatedFlags (foundPeaks s w acc) x.flags })
    (fun _ => rfl), hfound, Option.map_some, if_pos rfl]

end

/-! ### The end of a sweep with any outcome (R64, R65, R103) -/

theorem abandon_slot (s : State) (i : SlotId) : (abandon s).slot i = s.slot i := by
  cases ha : s.seq.inFlight with
  | none =>
    unfold abandon
    rw [ha]
  | some a =>
    rw [abandon_eq ha, correlatorTake_slot]
    rfl

theorem dropSweep_slot (id : Nat) (s : State) (i : SlotId) : (dropSweep id s).slot i = s.slot i := by
  by_cases hflies : flies s id = true
  · rw [dropSweep_flies hflies, abandon_slot]
    rfl
  · rw [dropSweep_stays hflies]
    rfl

/-- The state in which a sweep has left the queue and its slot stands as its outcome asks (R64, R103). -/
def sweepOver (o : SweepOutcome) (w : Sweep) (s : State) : State :=
  ((dropSweep w.id s).setDiv (s.div.remove s.time.clock (JobOwner.ofSweep w.id))).setSlot w.slot
    (endedSlot o w.flags s.time.timebase (s.slot w.slot))

/-- The SWEEP_END of a sweep (R65). -/
def sweepEndOf (o : SweepOutcome) (matched strays : Nat) (w : Sweep) (s : State) : Report :=
  .sweepEnd w.id w.leg w.slot o w.flags w.started w.done (peakCount (s.slot w.slot)) matched strays (s.leg w.leg).level
    s.time.timebase

theorem endSweep_gone (id : Nat) (o : SweepOutcome) (m n : Nat) (s : State) : (endSweep id o m n s).findSweep id = none := by
  rw [findSweep_none_iff_roster, endSweep_roster]
  intro v hv
  simpa [Sequencer.without] using (List.mem_filter.mp hv).2

section
variable {s : State} {w : Sweep} (hw : s.findSweep w.id = some w) (o : SweepOutcome) (m n : Nat)
include hw

theorem endSweep_over : endSweep w.id o m n s = (if flies s w.id then choose (post (sweepEndOf o m n w s) (sweepOver o w s))
    else post (sweepEndOf o m n w s) (sweepOver o w s)) := by
  have hover : ((dropSweep w.id s).setDiv ((dropSweep w.id s).div.remove (dropSweep w.id s).time.clock (JobOwner.ofSweep w.id))).setSlot
      w.slot (endedSlot o w.flags s.time.timebase (((dropSweep w.id s).setDiv ((dropSweep w.id s).div.remove
        (dropSweep w.id s).time.clock (JobOwner.ofSweep w.id))).slot w.slot)) = sweepOver o w s := by
    rw [show ∀ d, ((dropSweep w.id s).setDiv d).slot w.slot = (dropSweep w.id s).slot w.slot from fun _ => rfl, dropSweep_slot]
    simp [sweepOver]
  unfold endSweep
  rw [hw]
  dsimp only
  rw [hover]
  rfl

/-- The slot of a sweep that is DONE is READY, as it stands at the end (R103). -/
theorem endSweep_slot_ready {v : SlotContent} (ho : o = .done ∨ o = .doneClipped) (hslot : (s.slot w.slot).content = some v) :
    (endSweep w.id o m n s).slot w.slot = ⟨.ready, some { v with
      flags := some w.flags, completion := some s.time.timebase, acc := none, analysisStart := none }⟩ := by
  have hready : (post (sweepEndOf o m n w s) (sweepOver o w s)).slot w.slot = ⟨.ready, some { v with
      flags := some w.flags, completion := some s.time.timebase, acc := none, analysisStart := none }⟩ := by
    show (sweepOver o w s).slot w.slot = _
    rw [sweepOver, State.setSlot_slot, if_pos rfl, endedSlot.eq_def]
    rcases ho with rfl | rfl <;> simp [hslot]
  rw [endSweep_over hw]
  split
  · rw [choose_slot_of_ne (by rw [hready]; exact nofun), hready]
  · exact hready

theorem endSweep_posts : (endSweep w.id o m n s).msg = s.msg.post s.time.clock (sweepEndOf o m n w s) := by
  rw [endSweep_over hw]
  split <;> simp [post, sweepOver]

end

/-! ### O36 -/

theorem keepPeaks_ne_nil {floor blank : Nat} {a : List Nat} (h : findPeaks floor blank 1 a ≠ []) :
    keepPeaks (findPeaks floor blank 1 a) ≠ [] := by
  rcases Nat.lt_or_ge 32 (findPeaks floor blank 1 a).length with hmany | hfew
  · intro hnil
    have hlength := keepPeaks_length hmany (findPeaks_ascending floor blank 1 a)
    rw [hnil] at hlength
    cases hlength
  · rwa [keepPeaks_few hfew]

/-- Without peaks a calibrating sweep finds no anchor peak, and any sweep passes to reconciliation (R103, R123). -/
theorem afterRefinement_noPeaks {s : State} {w : Sweep} (hw : s.findSweep w.id = some w) (hnone : peaksOf s w.slot = []) :
    afterRefinement w s = reconcile w.id (if w.options.calibrate then
      s.updateSweep w.id fun y => { y with flags := { y.flags with calFailed := true } } else s) := by
  cases hcal : w.options.calibrate with
  | false => exact afterRefinement_plain hcal s
  | true =>
    rw [afterRefinement_calibrate hcal]
    cases ha : s.anchor w.leg with
    | none => exact anchorSearch_noAnchor hw ha
    | some a =>
      refine anchorSearch_noPeak hw ha ?_
      unfold anchorPeak
      rw [hnone]
      rfl

/-- Settles O36: the three outcomes of an analysis. -/
theorem analysisStoresProfileAndPeaks : Obligations.AnalysisStoresProfileAndPeaks := by
  unfold Obligations.AnalysisStoresProfileAndPeaks
  intro s n i v acc start w hs hq hslot hstart hacc hw hi
  subst hi
  have hid : w.id = v.sweepId := findSweep_id hw
  have hexec := exec_analysisComplete (n := n) hs hslot hstart hacc hw
  have hclock := State.atEndOfWork_clock n start 4000 s
  have hset : (s.atEndOfWork n start 4000).legSettings w.leg = s.legSettings w.leg := legSettings_congr (by simp) _
  have hwx : (s.atEndOfWork n start 4000).findSweep w.id = some w := by
    rw [hid]
    exact (findSweep_of_queue (by simp) _).trans hw
  have hslotx : (s.atEndOfWork n start 4000).slot w.slot = ⟨.analysing, some v⟩ := by simpa [State.slot] using hslot
  have hframe : ∀ x, s.atEndOfWork n start 4000 = x → x.legs = s.legs ∧ x.map = s.map ∧ x.stray = s.stray ∧ x.ing = s.ing ∧
      x.msg = s.msg ∧ x.arith = s.arith ∧ x.div = s.div ∧ x.plan = s.plan ∧ x.win = s.win := by
    rintro x rfl
    simp
  generalize s.atEndOfWork n start 4000 = x at *
  obtain ⟨hlegs, hmap, hstray, hing, hmsg, harith, hdiv, hplan, hwin⟩ := hframe x rfl
  have hprofile : analysedProfile x w acc = acc.map fun a => trimAmplitude (s.legSettings w.leg).trim
      (normalise w.options.round w.n a) := by rw [analysedProfile, hset]
  have hfound : foundPeaks x w acc =
      findPeaks (s.legSettings w.leg).floor (s.legSettings w.leg).blank 1 (analysedProfile x w acc) := by rw [foundPeaks, hset]
  dsimp only
  rw [← hprofile, ← hfound]
  have hcontent := analysed_slot acc hslotx
  have hrecord := analysed_findSweep acc hwx
  have hbound : s.time.clock ≤ x.time.clock ∧ x.time.clock ≤ max s.time.clock (start + 4000) := by omega
  rw [completeAnalysis_eq] at hexec
  refine ⟨fun hclip hsome => ?_, fun hclip hnone => ?_, fun hclip => ?_⟩
  · have hpeaks : keepPeaks (foundPeaks x w acc) ≠ [] := keepPeaks_ne_nil hsome
    have hspecs : refineBatch w.id (analysedProfile x w acc) ((keepPeaks (foundPeaks x w acc)).map Peak.fresh) =
        (keepPeaks (foundPeaks x w acc)).map fun p => (.refineSweep w.id p.1, (refineOperands (analysedProfile x w acc) p.1).1,
          (refineOperands (analysedProfile x w acc) p.1).2, false) := by
      rw [refineBatch, List.map_map]
      rfl
    rw [hclip, if_neg Bool.false_ne_true, if_neg (by simpa using hpeaks)] at hexec
    refine ⟨_, _, batchJobs s.div.batches (refineBatch w.id (analysedProfile x w acc)
      ((keepPeaks (foundPeaks x w acc)).map Peak.fresh)), hexec, hcontent, rfl, rfl, rfl, hrecord, ?_, ?_, batchJobs_last _ ?_, ?_⟩
    · have hhanded := Divider.ready_handed s.div x.time.clock
        (refineBatch w.id (analysedProfile x w acc) ((keepPeaks (foundPeaks x w acc)).map Peak.fresh))
      simpa [handBatch, hdiv] using hhanded
    · rw [batchJobs_map, hspecs, List.map_map]
      rfl
    · rw [hspecs]
      simpa using hpeaks
    · have htime : (handBatch (refineBatch w.id (analysedProfile x w acc) ((keepPeaks (foundPeaks x w acc)).map Peak.fresh))
          (analysed w acc x)).time = x.time := by simp
      rw [htime]
      refine ⟨?_, ?_, ?_, ?_, ?_, ?_, hbound.2⟩ <;> simp [hlegs, hmap, hstray, hmsg, hplan, harith]
  · have hnoPeaks : keepPeaks (foundPeaks x w acc) = [] := by
      rw [hnone]
      rfl
    have hflags : truncatedFlags (foundPeaks x w acc) w.flags = w.flags := by
      rw [hnone]
      simp [truncatedFlags]
    rw [hflags] at hrecord
    rw [hnoPeaks] at hcontent
    rw [hclip, if_neg Bool.false_ne_true, hnoPeaks, List.map_nil, List.isEmpty_nil, if_pos rfl,
      afterRefinement_noPeaks hrecord (by simp [peaksOf, hcontent])] at hexec
    have htime : (analysed w acc x).time = x.time := by simp
    refine ⟨analysed w acc x, htime ▸ hbound.1, htime ▸ hbound.2, hcontent, hrecord, ?_⟩
    · simp only [analysed_frame, *]
      simp
  · rw [hclip, if_pos rfl] at hexec
    have hend : (levelClipped w.leg (analysed w acc x)).findSweep w.id =
      some { w with flags := truncatedFlags (foundPeaks x w acc) w.flags } := hrecord
    have htime : (endSweep w.id .doneClipped 0 0 (levelClipped w.leg (analysed w acc x))).time = x.time := by simp
    have htime' : (levelClipped w.leg (analysed w acc x)).time = x.time := by simp
    have hleveled : (levelClipped w.leg (analysed w acc x)).legs =
        s.legs.set w.leg { s.leg w.leg with level := (s.leg w.leg).level - (s.legSettings w.leg).downStep } := by
      have hlegs' : (analysed w acc x).legs = s.legs := by simp [hlegs]
      rw [levelClipped, State.setLeg, State.legSettings, State.leg, hlegs']
      rfl
    refine ⟨_, hexec, endSweep_gone .., ?_, ?_, htime ▸ hbound.1, htime ▸ hbound.2, ?_⟩
    · rw [htime]
      refine (endSweep_slot_ready (w := { w with flags := truncatedFlags (foundPeaks x w acc) w.flags }) hend .doneClipped 0 0 (.inr rfl)
        (congrArg Slot.content hcontent)).trans ?_
      rw [htime']
      rfl
    · have hslot : (levelClipped w.leg (analysed w acc x)).slot w.slot = (analysed w acc x).slot w.slot := rfl
      have hlevel : ((levelClipped w.leg (analysed w acc x)).leg w.leg).level =
          (s.leg w.leg).level - (s.legSettings w.leg).downStep := by
        rw [State.leg, hleveled, Quad.get_set_same]
      rw [htime]
      refine (endSweep_posts (w := { w with flags := truncatedFlags (foundPeaks x w acc) w.flags }) hend .doneClipped 0 0).trans ?_
      rw [sweepEndOf, hslot, hcontent, hlevel, htime']
      simp [hmsg, peakCount, truncatedFlags]
    · simp [hleveled, hmap, hstray, hplan, harith]

end Sys2Proof.Machine
end

section
/-! PROOFS. The burst and the listen of an acquisition: what is sampled and what is sent (R74 to R81). -/

namespace Sys2Proof.Machine

open Sys2Proof

/-! ### The sampling (R80 to R82) -/

/-- The stream writes into its FILLING half alone. -/
theorem Capture.sampleTo_other_half {c : Capture} {h k : HalfId} (hfilling : c.inState .filling = some h) (hk : k ≠ h) (clock : Nat) :
    (c.sampleTo clock).half k = c.half k := by
  have hwrite : ∀ new, (c.write new).half k = c.half k := fun new => by
    rcases Capture.write_cases new c with ⟨-, e⟩ | ⟨i, hi, e⟩ <;> rw [e]
    rw [hfilling] at hi
    cases hi
    exact Capture.half_setHalf_other _ _ hk
  cases hs : c.sampling with
  | none => rw [Capture.sampleTo_none hs]
  | some x =>
    rw [Capture.sampleTo_some hs]
    exact hwrite _

theorem State.after_cap (n : Nat) (s : State) : (s.after n).cap = s.cap.sampleTo (s.after n).time.clock := rfl

/-! ### The events of an acquisition (R78) -/

section
variable {s : State} (hs : s.inReset = false)
include hs

theorem exec_burstPhase_idle (xs : List Sample) (h : s.probe.phase ≠ .settle ∨ s.seq.inFlight = none) :
    exec (.burstPhase xs) s = .next s := by
  show execBurstPhase s xs = _
  rw [execBurstPhase, State.live, hs]
  rcases h with h | h
  · dsimp only
    rw [if_neg Bool.false_ne_true]
    split
    · exact absurd ‹_› h
    · rfl
  · rw [h]
    rfl

theorem exec_listenPhase_idle (xs : List Sample) (h : s.probe.phase ≠ .burst ∨ s.seq.inFlight = none) :
    exec (.listenPhase xs) s = .next s := by
  show execListenPhase xs s = _
  rw [execListenPhase, State.live, hs]
  rcases h with h | h
  · dsimp only
    rw [if_neg Bool.false_ne_true]
    split
    · exact absurd ‹_› h
    · rfl
  · rw [h]
    rfl

variable {a : InFlight} (ha : s.seq.inFlight = some a)
include ha

theorem exec_burstPhase (xs : List Sample) (h : s.probe.phase = .settle) : exec (.burstPhase xs) s = .next (burstBegun xs a s) := by
  show execBurstPhase s xs = _
  rw [execBurstPhase, State.live, hs, ha, h]
  rfl

theorem exec_listenPhase (xs : List Sample) (h : s.probe.phase = .burst) : exec (.listenPhase xs) s = .next (listenBegun xs a s) := by
  show execListenPhase xs s = _
  rw [execListenPhase, State.live, hs, ha, h]
  rfl

end

theorem gateHolds_eq (s : State) (a : InFlight) : gateHolds s a = gateAsked s a := by
  unfold gateHolds gateAsked State.windowIsOpen
  cases a.basis with
  | free => rfl
  | window id => cases s.openWindow <;> rfl

theorem gateAsked_setTime (s : State) (a : InFlight) (t : Time) : gateAsked (s.setTime t) a = gateAsked s a := rfl

/-- What BURST_PHASE leaves, of an acquisition that samples nothing before (R78). -/
theorem burstBegun_eq {s : State} {a : InFlight} (xs : List Sample) (hphase : s.probe.phase = .settle) (hsampling : s.cap.sampling = none)
    (ha : s.seq.inFlight = some a) : burstBegun xs a s =
      ((s.setTime (s.time.reach a.burstStart)).setProbe { s.probe with
        phase := .burst, gate := gateAsked s a
        code  := codeAfter (s.legSettings a.leg).codeLength (min (s.legSettings a.leg).codeLength
          ((max s.time.clock a.burstStart - a.burstStart) / (2 * (s.legSettings a.leg).chipDivider)))
          (codeStart (s.legSettings a.leg).codeLength) }).setCap { s.cap with
        sampling := some ⟨a.burstStart, (s.legSettings a.leg).chipDivider, acquisitionSamples (s.legSettings a.leg), xs⟩ } := by
  have hreach : s.atClock a.burstStart = s.setTime (s.time.reach a.burstStart) :=
    State.passTo_quiet hsampling (by rw [hphase]; exact nofun) _
  simp only [burstBegun, hreach, gateHolds_eq]
  have hstill : (s.time.reach a.burstStart).advance 0 = s.time.reach a.burstStart := by
    rw [Time.reach, Time.advance_advance, Nat.add_zero]
  simp only [State.after, State.passTo, State.codeAt, State.setProbe, State.setTime, State.setCap, ha, Capture.sampleTo_none hsampling,
    hstill, Time.reach_clock, Nat.max_comm a.burstStart]
  rfl

/-! ### The output of the probe (R74 to R77) -/

theorem probeOutput_of_silent {s : State} (h : s.transmitting = false) : probeOutput s = none := by
  unfold probeOutput
  cases s.seq.inFlight with
  | none => rfl
  | some a => simp only [h, Bool.false_and, Bool.false_eq_true, ↓reduceIte]

/-- The register after `k` steps gives chip `k` of the code. -/
theorem chipOf_codeAfter_start {l k : Nat} (h : k < l) : chipOf (codeAfter l k (codeStart l)) = (chips l).getD k 0 :=
  chipOf_codeAfter l l k (codeStart l) h

section
variable {s : State} {a : InFlight} (ha : s.seq.inFlight = some a)
include ha

theorem probeOutput_of_over (h : 2 * (s.legSettings a.leg).codeLength * (s.legSettings a.leg).chipDivider ≤ s.time.clock - a.burstStart) :
    probeOutput s = none := by
  unfold probeOutput
  rw [ha]
  simp only [decide_eq_false (Nat.not_lt.mpr h), Bool.and_false, Bool.false_eq_true, ↓reduceIte]

/-- The output while chips are sent through an open gate. -/
theorem probeOutput_of_sending {w : Sweep} {level bin : Nat} (hphase : s.probe.phase = .burst) (hgate : s.probe.gate = true)
    (hw : s.findSweep a.sweepId = some w) (hlevel : w.levelUsed = some level) (hbin : s.probe.carrier = some bin)
    (h : s.time.clock - a.burstStart < 2 * (s.legSettings a.leg).codeLength * (s.legSettings a.leg).chipDivider) :
    probeOutput s = some ⟨a.leg, carrierSteps bin, 63 - level, 10 * (s.legSettings a.leg).chipDivider, chips (s.legSettings a.leg).codeLength,
      chipOf s.probe.code, (s.time.clock - a.burstStart) * carrierSteps bin % 2048⟩ := by
  have hsend : s.transmitting = true := by simp only [State.transmitting, hphase, hgate]; rfl
  unfold probeOutput
  rw [ha]
  simp only [hw, hlevel, hbin, hsend, decide_eq_true h, Option.bind_some, Option.getD_some, Bool.and_self, ↓reduceIte]

end

/-- The state in which the burst of `a` has begun at `clock` (R78): `s` with the gate asked and the acquisition's samples to come. -/
structure Bursting (a : InFlight) (xs : List Sample) (s u : State) : Prop where
  phase    : u.probe.phase = .burst
  gate     : u.probe.gate = gateAsked s a
  carrier  : u.probe.carrier = s.probe.carrier
  seq      : u.seq = s.seq
  legs     : u.legs = s.legs
  sampling : u.cap = { s.cap with
    sampling := some ⟨a.burstStart, (s.legSettings a.leg).chipDivider, acquisitionSamples (s.legSettings a.leg), xs⟩ }
  begun    : a.burstStart ≤ u.time.clock

namespace Bursting

variable {a : InFlight} {xs : List Sample} {s u : State} (h : Bursting a xs s u) (ha : s.seq.inFlight = some a) (n : Nat)
include h

theorem legSettings_after (g : LegId) : (u.after n).legSettings g = s.legSettings g :=
  legSettings_congr ((State.after_frame n u).2.2.2.2.2.2.1.trans h.legs) g

theorem legSettings (g : LegId) : u.legSettings g = s.legSettings g := legSettings_congr h.legs g

/-- The FILLING half takes the samples whose instants have come, and the other keeps what it holds (R80, R81). -/
theorem samples {k : HalfId} (hf : s.cap.inState .filling = some k) (hstream : s.cap.stream = .acquisition) (hpos : s.cap.position = 0)
    (hd : 1 ≤ (s.legSettings a.leg).chipDivider) (hl : acquisitionSamples (s.legSettings a.leg) ≤ (s.cap.half k).samples.length) :
    let taken := min (acquisitionSamples (s.legSettings a.leg))
      (((u.after n).time.clock - a.burstStart) / (s.legSettings a.leg).chipDivider + 1)
    let given := inputs xs a.burstStart (s.legSettings a.leg).chipDivider taken
    ((u.after n).cap.half k).samples = given ++ (s.cap.half k).samples.drop taken ∧ (u.after n).cap.position = taken ∧
      ((u.after n).cap.half k).clip = ((s.cap.half k).clip || given.any atRangeEnd) ∧ ((u.after n).cap.half k).state = .filling ∧
      ∀ j, j ≠ k → (u.after n).cap.half j = s.cap.half j := by
  have hfilling : u.cap.inState .filling = some k := by rw [h.sampling]; exact hf
  have hhalf : ∀ j, u.cap.half j = s.cap.half j := fun j => by rw [h.sampling]; cases j <;> rfl
  have hsampling := congrArg Capture.sampling h.sampling
  have hposition : u.cap.position = 0 := by rw [h.sampling]; exact hpos
  have hstream : u.cap.stream = .acquisition := by rw [h.sampling]; exact hstream
  have hbegun : a.burstStart ≤ (u.after n).time.clock := h.begun.trans (by rw [State.after_clock]; omega)
  obtain ⟨hwritten, htaken⟩ := Capture.sampleTo_fresh hsampling hfilling hposition hd (by rw [hhalf]; exact hl) hbegun
  rw [hhalf, hstream] at hwritten
  intro taken given
  rw [State.after_cap, hwritten]
  exact ⟨rfl, htaken, rfl, Capture.inState_state hf, fun j hj => (Capture.sampleTo_other_half hfilling hj _).trans (hhalf j)⟩

include ha

/-- The code register has made one step at the end of each chip (R77). -/
theorem code : (u.after n).probe.code = codeAfter (s.legSettings a.leg).codeLength (min (s.legSettings a.leg).codeLength
    (((u.after n).time.clock - a.burstStart) / (2 * (s.legSettings a.leg).chipDivider))) (codeStart (s.legSettings a.leg).codeLength) := by
  show u.codeAt (u.after n).time.clock = _
  have hflight : u.seq.inFlight = some a := by rw [h.seq, ha]
  rw [State.codeAt, hflight, h.phase, ← h.legSettings]

theorem inFlight_after : (u.after n).seq.inFlight = some a := by
  rw [(State.after_frame n u).2.2.2.2.2.2.2.1, h.seq, ha]

/-- The output is muted with the gate shut, and once the chips are sent (R76). -/
theorem muted (hover : gateAsked s a = false ∨
      2 * (s.legSettings a.leg).codeLength * (s.legSettings a.leg).chipDivider ≤ (u.after n).time.clock - a.burstStart) :
    probeOutput (u.after n) = none := by
  rcases hover with hgate | hover
  · refine probeOutput_of_silent ?_
    rw [State.transmitting, show (u.after n).probe.gate = _ from h.gate, hgate, Bool.and_false]
  · exact probeOutput_of_over (h.inFlight_after ha n) (by rw [h.legSettings_after]; exact hover)

/-- The output while chips are sent: the carrier at the level used, times the chip in force (R74 to R77). -/
theorem sends {w : Sweep} {level bin : Nat} (hw : s.findSweep a.sweepId = some w) (hlevel : w.levelUsed = some level)
    (hbin : s.probe.carrier = some bin) (hgate : gateAsked s a = true)
    (helapsed : (u.after n).time.clock - a.burstStart < 2 * (s.legSettings a.leg).codeLength * (s.legSettings a.leg).chipDivider) :
    probeOutput (u.after n) = some ⟨a.leg, carrierSteps bin, 63 - level, 10 * (s.legSettings a.leg).chipDivider,
      chips (s.legSettings a.leg).codeLength,
      (chips (s.legSettings a.leg).codeLength).getD
        (((u.after n).time.clock - a.burstStart) / (2 * (s.legSettings a.leg).chipDivider)) 0,
      ((u.after n).time.clock - a.burstStart) * carrierSteps bin % 2048⟩ := by
  have hchip : ((u.after n).time.clock - a.burstStart) / (2 * (s.legSettings a.leg).chipDivider) < (s.legSettings a.leg).codeLength :=
    Nat.div_lt_of_lt_mul (helapsed.trans_eq (Nat.mul_right_comm ..))
  have hseq : (u.after n).seq = s.seq := (State.after_frame n u).2.2.2.2.2.2.2.1.trans h.seq
  have hfound : (u.after n).findSweep a.sweepId = some w := by rw [State.findSweep, hseq]; exact hw
  have hset := h.legSettings_after n a.leg
  rw [probeOutput_of_sending (h.inFlight_after ha n) h.phase (h.gate.trans hgate) hfound hlevel (h.carrier.trans hbin)
    (by rw [hset]; exact helapsed), h.code ha n, Nat.min_eq_right hchip.le, chipOf_codeAfter_start hchip, hset]

end Bursting

theorem burstBegun_bursting {s : State} {a : InFlight} (xs : List Sample) (hphase : s.probe.phase = .settle) (hsampling : s.cap.sampling = none)
    (ha : s.seq.inFlight = some a) : Bursting a xs s (burstBegun xs a s) := by
  rw [burstBegun_eq xs hphase hsampling ha]
  refine ⟨rfl, rfl, rfl, rfl, rfl, rfl, ?_⟩
  show _ ≤ (s.time.reach a.burstStart).clock
  rw [Time.reach_clock]
  exact Nat.le_max_left ..

/-- Settles O28: BURST_PHASE starts the sampling and opens the gate, and from its state time alone determines samples, code and
output. -/
theorem burstAndListenPhases : Obligations.BurstAndListenPhases := by
  refine ⟨fun xs s hs h => exec_burstPhase_idle hs xs h, fun xs s hs h => exec_listenPhase_idle hs xs h,
    fun xs s a hs ha h => ⟨exec_listenPhase hs ha xs h, probeOutput_of_silent rfl⟩,
    fun s a h xs hs ha hphase hf hstream hpos hsampling hd hl => ⟨_, exec_burstPhase hs ha xs hphase, ?_⟩⟩
  have hbursting := burstBegun_bursting xs hphase hsampling ha
  have hclock : (burstBegun xs a s).time.clock = max s.time.clock a.burstStart := by
    rw [burstBegun_eq xs hphase hsampling ha]
    exact (Time.reach_clock ..).trans (Nat.max_comm ..)
  have hrest := burstBegun_eq xs hphase hsampling ha
  generalize burstBegun xs a s = u at *
  refine ⟨hclock, hbursting.phase, hbursting.gate, hbursting.carrier, hbursting.seq, ?_⟩
  refine ⟨by rw [hrest]; rfl, by rw [hrest]; rfl, hbursting.legs, by rw [hrest]; rfl, by rw [hrest]; rfl, by rw [hrest]; rfl,
    by rw [hrest]; rfl, by rw [hrest]; rfl, by rw [hrest]; rfl, by rw [hrest]; rfl, by rw [hrest]; rfl, fun n => ?_⟩
  obtain ⟨hsamples, hposition, hclip, hstate, hother⟩ := hbursting.samples n hf hstream hpos hd hl
  exact ⟨hsamples, hposition, hclip, hstate, hother, hbursting.code ha n, hbursting.muted ha n,
    fun w level bin hw hlevel hbin hgate => hbursting.sends ha n hw hlevel hbin hgate⟩

end Sys2Proof.Machine
end

section
/-! PROOFS. The end of an acquisition and of a snapshot: the half that goes FULL, or is taken, and the samples it holds (R80 to R83, R89). -/

namespace Sys2Proof.Machine

open Sys2Proof

/-! ### What the take and the grant leave of a half's samples (R83) -/

theorem Capture.setHalf_samples (c : Capture) {h : HalfId} {v : Half} (hv : v.samples = (c.half h).samples) (k : HalfId) :
    ((c.setHalf h v).half k).samples = (c.half k).samples := by
  by_cases hk : k = h
  · subst hk
    rw [Capture.half_setHalf, hv]
  · rw [Capture.half_setHalf_other _ _ hk]

theorem takeHalves_samples (n : Nat) (s : State) (h : HalfId) : ((takeHalves n s).cap.half h).samples = (s.cap.half h).samples := by
  induction n generalizing s with
  | zero => rfl
  | succ n ih =>
    unfold takeHalves
    split
    · next k _ _ =>
      dsimp only
      split
      · exact (ih _).trans (Capture.setHalf_samples s.cap (v := (s.cap.half k).release) rfl h)
      · split <;> exact Capture.setHalf_samples s.cap (v := { s.cap.half k with state := .correlating }) rfl h
    · rfl

theorem choose_samples (s : State) (h : HalfId) : ((choose s).cap.half h).samples = (s.cap.half h).samples := by
  rcases choose_half_granted h s with e | ⟨o, e⟩ <;> rw [e]
  rfl

/-- An IDLE correlator starts the job of the only FULL half when its owner lives (R89). -/
theorem correlatorTake_starts {y : State} {h : HalfId} (hjob : y.cor.job = none) (hfull : (y.cap.half h).state = .full)
    (hvoid : (y.cap.half h).void = false) (hlives : ownerLives y (y.cap.half h).owner = true)
    (hother : ∀ k, k ≠ h → (y.cap.half k).state ≠ .full) :
    (correlatorTake y).cor.job = some ⟨h, y.time.clock⟩ ∧
      (correlatorTake y).cap.half h = { y.cap.half h with state := .correlating } ∧
      ∀ g k, (y.cap.half h).owner = some (.snapshot g k) → (correlatorTake y).prof.lag.state = .correlating := by
  have hstart : ((startJob h y).cap.half h) = { y.cap.half h with state := .correlating } := Capture.half_setHalf _ _ _
  unfold correlatorTake
  rw [takeHalves, hjob, Capture.oldestFull_eq_some hfull hother]
  dsimp only
  have hlive : ((y.cap.half h).void || !ownerLives y (y.cap.half h).owner) = false := by rw [hvoid, hlives]; rfl
  rw [if_neg (by rw [hlive]; exact Bool.false_ne_true)]
  split
  · exact ⟨rfl, hstart, fun _ _ _ => rfl⟩
  · next hnot => exact ⟨rfl, hstart, fun g k e => absurd e (hnot g k)⟩

/-! ### A stream that has stopped (R83) -/

/-- The stream of `s` has stopped in `y`: its half stands FULL from this instant, and the other is in the state in which it was. -/
structure Stopped (s y : State) : Prop where
  cor   : y.cor = s.cor
  half  : ∀ h, s.cap.inState .filling = some h → (y.cap.half h).state = .full ∧ (y.cap.half h).void = false ∧
    (y.cap.half h).owner = (s.cap.half h).owner ∧ (y.cap.half h).fillOrder = some y.time.clock
  other : ∀ h, s.cap.inState .filling = some h → ∀ k, k ≠ h → (y.cap.half k).state = (s.cap.half k).state

theorem Stopped.of_finish {s y : State} {xs : List Sample} {n : Nat} (hcor : y.cor = s.cor)
    (hcap : y.cap = (((s.told xs).atClock n).cap.finish y.time.clock false)) : Stopped s y := by
  have htold : ((s.told xs).atClock n).cap = (s.cap.tell xs).sampleTo ((s.told xs).atClock n).time.clock := rfl
  have hhalf : ∀ k, (((s.told xs).atClock n).cap.half k).state = (s.cap.half k).state ∧
      (((s.told xs).atClock n).cap.half k).owner = (s.cap.half k).owner := fun k => by
    obtain ⟨hstate, howner, -⟩ := Capture.sampleTo_half ((s.told xs).atClock n).time.clock (s.cap.tell xs) k
    rw [Capture.tell_half] at hstate howner
    exact ⟨hstate, howner⟩
  have hfill : ((s.told xs).atClock n).cap.inState .filling = s.cap.inState .filling := by
    rw [htold, Capture.sampleTo_inState, Capture.tell_inState]
  refine ⟨hcor, fun h hf => ?_, fun h hf k hk => ?_⟩
  · rw [hcap, Capture.finish_half (hfill.trans hf)]
    exact ⟨rfl, rfl, (hhalf h).2, rfl⟩
  · rw [hcap, Capture.finish_other (hfill.trans hf) hk]
    exact (hhalf k).1

section
variable {s y : State} (hy : Stopped s y) {h : HalfId} (hf : s.cap.inState .filling = some h)
include hy hf

/-- With the correlator BUSY the half stays FULL (R89). -/
theorem Stopped.full (hjob : s.cor.job ≠ none) : choose (correlatorTake y) = choose y ∧ (choose y).cap.half h = y.cap.half h :=
  ⟨congrArg choose (correlatorTake_busy (hy.cor ▸ hjob)), choose_half (by rw [(hy.half h hf).1]; decide)⟩

/-- With the correlator IDLE and no other half FULL, the job of a half whose owner lives starts at once (R89). -/
theorem Stopped.taken (hjob : s.cor.job = none) (hlives : ownerLives y (s.cap.half h).owner = true)
    (hother : ∀ k, k ≠ h → (s.cap.half k).state ≠ .full) :
    (choose (correlatorTake y)).cor.job = some ⟨h, y.time.clock⟩ ∧
      (choose (correlatorTake y)).cap.half h = { y.cap.half h with state := .correlating } ∧
      ∀ g k, (s.cap.half h).owner = some (.snapshot g k) → (choose (correlatorTake y)).prof.lag.state = .correlating := by
  obtain ⟨hfull, hvoid, howner, -⟩ := hy.half h hf
  obtain ⟨hcor, hhalf, hlag⟩ := correlatorTake_starts (hy.cor ▸ hjob) hfull hvoid (howner ▸ hlives)
    fun k hk => by rw [hy.other h hf k hk]; exact hother k hk
  refine ⟨by simp [hcor], ?_, fun g k e => by rw [choose_lag]; exact hlag g k (howner.trans e)⟩
  rw [choose_half (by rw [hhalf]; exact nofun), hhalf]

end

/-- The samples of a half once its stream has stopped are those taken by the instant of the stop. -/
theorem samples_stopped {y : State} {c : Capture} {clock : Nat} {h : HalfId} (hcap : y.cap = c.finish clock false)
    (hf : c.inState .filling = some h) : ((choose (correlatorTake y)).cap.half h).samples = (c.half h).samples := by
  rw [choose_samples, correlatorTake, takeHalves_samples, hcap, Capture.finish_half hf]

/-- Samples told before the instants at which they are taken are told at once, and sampling in two runs is sampling in one. -/
theorem Capture.sampleTo_told {c : Capture} {x : Sampling} (hx : c.sampling = some x) {m n : Nat} (hmn : m ≤ n) {ys zs : List Sample}
    (htold : zs = [] ∨ x.due m ≤ (x.input ++ ys).length) :
    ((((c.tell ys).sampleTo m).tell zs).sampleTo n) = (c.tell (ys ++ zs)).sampleTo n := by
  rcases htold with rfl | htold
  · rw [Capture.tell_nil, List.append_nil, Capture.sampleTo_sampleTo _ hmn]
  · have htells : (c.tell ys).sampling = some { x with input := x.input ++ ys } := by
      unfold Capture.tell
      rw [hx]
      rfl
    rw [← Capture.tell_sampleTo htells m zs htold, Capture.tell_tell, Capture.sampleTo_sampleTo _ hmn]

/-! ### The end of an acquisition (R60, R78) -/

section
variable {s : State} (hs : s.inReset = false)
include hs

theorem exec_acquisitionEnd_idle (zs : List Sample) (h : s.seq.inFlight = none ∨ s.probe.phase ≠ .listen) :
    exec (.acquisitionEnd zs) s = .next s := by
  show execAcquisitionEnd zs s = _
  rw [execAcquisitionEnd, State.live, hs]
  rcases h with h | h
  · rw [h]
    rfl
  · dsimp only
    rw [if_neg Bool.false_ne_true]
    split
    · exact absurd ‹_› h
    · rfl

theorem exec_acquisitionEnd {a : InFlight} (ha : s.seq.inFlight = some a) (zs : List Sample) (h : s.probe.phase = .listen) :
    exec (.acquisitionEnd zs) s = .next (choose (acquisitionStopped zs a s)) := by
  show execAcquisitionEnd zs s = _
  rw [execAcquisitionEnd, State.live, hs, ha, h]
  rfl

end

/-- The acquisition of `w` has stopped, its half FULL, before the correlator's take. -/
def acquisitionCut (zs : List Sample) (w : Sweep) (a : InFlight) (s : State) : State :=
  let s1 := (s.told zs).atClock (a.startClock + 200 * w.tAcq)
  let s2 := s1.setCap (s1.cap.finish s1.time.clock false)
  probeIdle (s2.setSeq { s2.seq with inFlight := none })

section
variable {s : State} {a : InFlight} {w : Sweep} (zs : List Sample)

theorem acquisitionStopped_eq (hw : s.findSweep a.sweepId = some w) : acquisitionStopped zs a s = correlatorTake (acquisitionCut zs w a s) := by
  unfold acquisitionStopped acquisitionCut
  rw [hw, Nat.mul_comm 200]
  rfl

theorem acquisitionCut_cap : (acquisitionCut zs w a s).cap =
    (((s.told zs).atClock (a.startClock + 200 * w.tAcq)).cap.finish (acquisitionCut zs w a s).time.clock false) := rfl

theorem acquisitionCut_stopped : Stopped s (acquisitionCut zs w a s) := by
  refine .of_finish ?_ (acquisitionCut_cap zs)
  simp [acquisitionCut]

theorem acquisitionCut_seq : (acquisitionCut zs w a s).seq = { s.seq with inFlight := none } := by simp [acquisitionCut]

theorem acquisitionCut_probe : (acquisitionCut zs w a s).probe.phase = .idle ∧ (acquisitionCut zs w a s).probe.gate = false := ⟨rfl, rfl⟩

theorem acquisitionCut_clock : (acquisitionCut zs w a s).time.clock = max s.time.clock (a.startClock + 200 * w.tAcq) := by
  simp [acquisitionCut, Nat.max_comm]

end

/-- Where nothing is in flight after the choice the probe is as it was, but for a snapshot's carrier (R76, R82). -/
theorem choose_probe_still {s : State} (h : (choose s).seq.inFlight = none) :
    (choose s).probe.phase = s.probe.phase ∧ (choose s).probe.gate = s.probe.gate := by
  rcases choose_cases s with e | ⟨k, g, -, e⟩ | ⟨k, w, -, -, -, -, e⟩
  · rw [e]
    exact ⟨rfl, rfl⟩
  · rw [e]
    exact ⟨rfl, rfl⟩
  · rw [e, startAcquisition_seq] at h
    cases h

theorem startedSweep_slot (level : Nat) (w : Sweep) : (startedSweep level w).slot = w.slot := by
  unfold startedSweep
  split <;> rfl

theorem startedSweep_done (level : Nat) (w : Sweep) : (startedSweep level w).done = w.done := by
  unfold startedSweep
  split <;> rfl

/-- What ACQUISITION_END leaves (R60, R78, R83, R89). -/
theorem acquisitionStopped_ends {s : State} {a : InFlight} {w : Sweep} (zs : List Sample) (hw : s.findSweep a.sweepId = some w) :
    let t := choose (acquisitionStopped zs a s)
    t.time.clock = max s.time.clock (a.startClock + 200 * w.tAcq) ∧
      (∀ h, s.cap.inState .filling = some h →
        (s.cor.job ≠ none → (t.cap.half h).state = .full ∧ (t.cap.half h).void = false ∧
          (t.cap.half h).owner = (s.cap.half h).owner ∧ (t.cap.half h).fillOrder = some t.time.clock) ∧
        ∀ l k, s.cor.job = none → (s.cap.half h).owner = some (.acquisition a.sweepId a.leg l k) →
          (∀ i, i ≠ h → (s.cap.half i).state ≠ .full) →
          t.cor.job = some ⟨h, t.time.clock⟩ ∧ (t.cap.half h).state = .correlating ∧
            (t.cap.half h).owner = (s.cap.half h).owner ∧ (t.cap.half h).fillOrder = some t.time.clock) ∧
      t.seq.queue.map (fun v => (v.id, v.slot, v.done)) = s.seq.queue.map (fun v => (v.id, v.slot, v.done)) ∧
      (∀ b, t.seq.inFlight = some b → b.startClock = t.time.clock) ∧
      (t.seq.inFlight = none → t.probe.phase = .idle ∧ t.probe.gate = false) := by
  intro t
  have heq : t = choose (correlatorTake (acquisitionCut zs w a s)) := congrArg choose (acquisitionStopped_eq zs hw)
  have hstopped := acquisitionCut_stopped (s := s) (a := a) (w := w) zs
  have hseq := acquisitionCut_seq (s := s) (a := a) (w := w) zs
  have hprobe := acquisitionCut_probe (s := s) (a := a) (w := w) zs
  have hclock := acquisitionCut_clock (s := s) (a := a) (w := w) zs
  clear_value t
  subst heq
  generalize acquisitionCut zs w a s = y at *
  have htime : (choose (correlatorTake y)).time = y.time := by simp
  have htakenSeq : (correlatorTake y).seq = y.seq := by simp
  refine ⟨(congrArg Time.clock htime).trans hclock, fun h hf => ⟨fun hjob => ?_, fun l k hjob howner hother => ?_⟩, ?_, fun b hb => ?_,
    fun hnone => ?_⟩
  · obtain ⟨htake, hhalf⟩ := hstopped.full hf hjob
    rw [htime, htake, hhalf]
    exact hstopped.half h hf
  · have hlives : ownerLives y (s.cap.half h).owner = true := by
      rw [howner]
      show (y.findSweep a.sweepId).isSome = true
      rw [State.findSweep, hseq]
      exact Option.isSome_iff_exists.mpr ⟨w, hw⟩
    obtain ⟨hcor, hhalf, -⟩ := hstopped.taken hf hjob hlives hother
    obtain ⟨-, -, hown, horder⟩ := hstopped.half h hf
    rw [hcor, hhalf, htime]
    exact ⟨rfl, rfl, hown, horder⟩
  · rw [choose_map _ (fun level v => by rw [startedSweep_id, startedSweep_slot, startedSweep_done]), htakenSeq, hseq]
  · rcases choose_flight (correlatorTake y) with e | ⟨v, -, -, e⟩
    · rw [e, htakenSeq, hseq] at hb
      cases hb
    · rw [e] at hb
      cases hb
      rw [htime]
      simp
  · obtain ⟨hphase, hgate⟩ := choose_probe_still hnone
    have : (correlatorTake y).probe = y.probe := by simp
    rw [hphase, hgate, this]
    exact hprobe

/-! ### The samples of an acquisition (R80, R81) -/

/-- What the stream has told and taken, as its samples come from `start` on. -/
theorem Sampling.due_begun {x : Sampling} {clock : Nat} (hd : 1 ≤ x.period) (hc : x.next ≤ clock) :
    x.due clock = min x.left ((clock - x.next) / x.period + 1) := by
  rw [Sampling.due, if_neg (by omega), if_neg (by omega)]

/-- The half of a stream that has stopped after all its samples holds those told, and clips as they say (R80, R81). -/
theorem samples_of_stream {c : Capture} {h : HalfId} {start d all m n : Nat} {xs ys zs : List Sample}
    (hs : c.sampling = some ⟨start, d, all, xs⟩) (hf : c.inState .filling = some h) (hp : c.position = 0) (hd : 1 ≤ d)
    (hl : all ≤ (c.half h).samples.length) (hm : start ≤ m) (hmn : m ≤ n) (hn : start + all * d ≤ n)
    (htold : zs = [] ∨ ((c.tell ys).sampleTo m).position ≤ (xs ++ ys).length) :
    ((((c.tell ys).sampleTo m).tell zs).sampleTo n).half h = { c.half h with
      samples := inputs (xs ++ ys ++ zs) start d all ++ (c.half h).samples.drop all
      clip := (c.half h).clip || (c.stream == .acquisition && (inputs (xs ++ ys ++ zs) start d all).any atRangeEnd) } := by
  have htells : ∀ ws, (c.tell ws).sampling = some ⟨start, d, all, xs ++ ws⟩ := fun ws => by
    unfold Capture.tell
    rw [hs]
    rfl
  have hhalf : ∀ ws k, (c.tell ws).half k = c.half k := fun ws k => Capture.tell_half ws c k
  have hpos : ∀ ws, (c.tell ws).position = 0 := fun ws => by simp [hp]
  have hdue : ((c.tell ys).sampleTo m).position = (⟨start, d, all, xs⟩ : Sampling).due m := by
    rw [Sampling.due_begun hd hm]
    exact (Capture.sampleTo_fresh (htells ys) hf (hpos ys) hd (by rw [hhalf]; exact hl) hm).2
  rw [Capture.sampleTo_told hs hmn (by rwa [hdue] at htold)]
  have hall : min all ((n - start) / d + 1) = all := by
    refine Nat.min_eq_left (Nat.le_succ_of_le ((Nat.le_div_iff_mul_le (by omega)).mpr ?_))
    omega
  obtain ⟨hfresh, -⟩ := Capture.sampleTo_fresh (htells (ys ++ zs)) hf (hpos _) hd (by rw [hhalf]; exact hl) (clock := n) (by omega)
  rw [hall, hhalf] at hfresh
  rw [hfresh, ← List.append_assoc]
  rfl

/-- The samples that an acquisition leaves in its half, from its burst to its end (R80, R81). -/
theorem acquisition_samples {s : State} {a : InFlight} {w : Sweep} {h : HalfId} {xs ys zs : List Sample} {v : State}
    (hs : s.inReset = false) (ha : s.seq.inFlight = some a) (hw : s.findSweep a.sweepId = some w) (hphase : s.probe.phase = .settle)
    (hf : s.cap.inState .filling = some h) (hstream : s.cap.stream = .acquisition) (hpos : s.cap.position = 0)
    (hsampling : s.cap.sampling = none) (hd : 1 ≤ (s.legSettings a.leg).chipDivider)
    (hl : acquisitionSamples (s.legSettings a.leg) ≤ (s.cap.half h).samples.length)
    (htime : 400 + acquisitionSamples (s.legSettings a.leg) * (s.legSettings a.leg).chipDivider ≤ 200 * w.tAcq)
    (hend : exec (.acquisitionEnd zs) (listenBegun ys a (burstBegun xs a s)) = .next v)
    (htold : zs = [] ∨ (listenBegun ys a (burstBegun xs a s)).cap.position ≤ (xs ++ ys).length) :
    let given := inputs (xs ++ ys ++ zs) a.burstStart (s.legSettings a.leg).chipDivider (acquisitionSamples (s.legSettings a.leg))
    (v.cap.half h).samples = given ++ (s.cap.half h).samples.drop (acquisitionSamples (s.legSettings a.leg)) ∧
      (s.cor.job ≠ none → (v.cap.half h).clip = ((s.cap.half h).clip || given.any atRangeEnd)) := by
  have hbursting := burstBegun_bursting xs hphase hsampling ha
  have hfirst : (burstBegun xs a s).cor = s.cor ∧ (burstBegun xs a s).inReset = s.inReset := by
    rw [burstBegun_eq xs hphase hsampling ha]
    exact ⟨rfl, rfl⟩
  generalize burstBegun xs a s = t at *
  have hu : (listenBegun ys a t).seq = s.seq ∧ (listenBegun ys a t).cor = s.cor ∧ (listenBegun ys a t).inReset = false ∧
      (listenBegun ys a t).probe.phase = .listen := by
    simp [listenBegun, hbursting.seq, hfirst, hs]
  have hucap : (listenBegun ys a t).cap = (t.cap.tell ys).sampleTo (listenBegun ys a t).time.clock := rfl
  have huclock : a.burstStart ≤ (listenBegun ys a t).time.clock := by
    refine hbursting.begun.trans ?_
    show _ ≤ (((t.told ys).time.reach _).clock)
    rw [Time.reach_clock]
    exact Nat.le_max_right ..
  generalize listenBegun ys a t = u at *
  obtain ⟨hseq, hcor, hreset, hlisten⟩ := hu
  have huw : u.findSweep a.sweepId = some w := by rw [State.findSweep, hseq]; exact hw
  rw [exec_acquisitionEnd hreset (by rw [hseq, ha]) zs hlisten, acquisitionStopped_eq zs huw] at hend
  cases hend
  have hclock : ((u.told zs).atClock (a.startClock + 200 * w.tAcq)).time.clock = max (a.startClock + 200 * w.tAcq) u.time.clock :=
    Time.reach_clock ..
  have hhalf : ∀ k, t.cap.half k = s.cap.half k := fun k => by rw [hbursting.sampling]; cases k <;> rfl
  have htfill : t.cap.inState .filling = some h := by rw [hbursting.sampling]; exact hf
  have htstream : t.cap.stream = .acquisition := by rw [hbursting.sampling]; exact hstream
  have htpos : t.cap.position = 0 := by rw [hbursting.sampling]; exact hpos
  have hwritten := samples_of_stream (n := ((u.told zs).atClock (a.startClock + 200 * w.tAcq)).time.clock)
    (congrArg Capture.sampling hbursting.sampling) htfill htpos hd (by rw [hhalf]; exact hl) huclock
    (by rw [hclock]; exact Nat.le_max_right ..) (by rw [hclock, InFlight.burstStart]; omega) (hucap ▸ htold)
  rw [← hucap, htstream, hhalf] at hwritten
  have hcut : ((u.told zs).atClock (a.startClock + 200 * w.tAcq)).cap.half h = _ := hwritten
  have hufill : ((u.told zs).atClock (a.startClock + 200 * w.tAcq)).cap.inState .filling = some h := by
    show ((u.cap.tell zs).sampleTo _).inState .filling = _
    rw [Capture.sampleTo_inState, Capture.tell_inState, hucap, Capture.sampleTo_inState, Capture.tell_inState, htfill]
  refine ⟨?_, fun hjob => ?_⟩
  · rw [samples_stopped (acquisitionCut_cap zs) hufill, hcut]
  · have hu : u.cap.inState .filling = some h := by
      rw [hucap, Capture.sampleTo_inState, Capture.tell_inState, htfill]
    obtain ⟨htake, hkept⟩ := (acquisitionCut_stopped (s := u) (a := a) (w := w) zs).full hu (hcor ▸ hjob)
    rw [htake, hkept, acquisitionCut_cap, Capture.finish_half hufill, hcut]
    rfl

/-- Settles O29: the end of the acquisition stops its stream, the correlator takes the half or leaves it FULL, and the samples are those
told. -/
theorem acquisitionEndsAfterItsTime : Obligations.AcquisitionEndsAfterItsTime := by
  refine ⟨fun zs s hs h => exec_acquisitionEnd_idle hs zs h, fun zs s a w hs ha hphase hw => ⟨_, exec_acquisitionEnd hs ha zs hphase, ?_⟩,
    fun s t u v a w h xs ys zs hs ha hw hphase hf hstream hpos hsampling hd hl htime ht hu hv htold => ?_⟩
  · obtain ⟨hclock, hhalf, hqueue, hflight, hprobe⟩ := acquisitionStopped_ends zs hw
    refine ⟨hclock, hhalf, hqueue, hflight, hprobe, ?_⟩
    simp [acquisitionStopped]
  · rw [exec_burstPhase hs ha xs hphase] at ht
    cases ht
    have hbursting := burstBegun_bursting xs hphase hsampling ha
    have hreset : (burstBegun xs a s).inReset = false := by
      rw [burstBegun_eq xs hphase hsampling ha]
      exact hs
    rw [exec_listenPhase hreset (hbursting.seq ▸ ha) ys hbursting.phase] at hu
    cases hu
    exact acquisition_samples hs ha hw hphase hf hstream hpos hsampling hd hl htime hv htold

end Sys2Proof.Machine
end

section
/-! PROOFS. Snapshots: their settle, their samples and their completion (R82, R104). -/

namespace Sys2Proof.Machine

open Sys2Proof

section
variable {s : State} (hs : s.inReset = false) (xs : List Sample)
include hs

theorem exec_snapshotSettleEnd_idle (h : s.cap.stream ≠ .snapshot ∨ s.cap.sampling ≠ none) :
    exec (.snapshotSettleEnd xs) s = .next s := by
  show execSnapshotSettleEnd s xs = _
  rw [execSnapshotSettleEnd, State.live, hs]
  dsimp only
  rw [if_neg Bool.false_ne_true]
  split
  · next hstream hsampling => exact absurd hsampling (h.resolve_left (not_not.mpr hstream))
  · rfl

theorem exec_snapshotComplete_idle (h : s.cap.stream ≠ .snapshot ∨ s.cap.sampling = none) :
    exec (.snapshotComplete xs) s = .next s := by
  show execSnapshotComplete xs s = _
  rw [execSnapshotComplete, State.live, hs]
  dsimp only
  rw [if_neg Bool.false_ne_true]
  split
  · next hstream hsampling =>
    rw [h.resolve_left (not_not.mpr hstream)] at hsampling
    cases hsampling
  · rfl

theorem exec_snapshotSettleEnd (hstream : s.cap.stream = .snapshot) (hsampling : s.cap.sampling = none) :
    exec (.snapshotSettleEnd xs) s = .next (snapshotBegun xs s) := by
  show execSnapshotSettleEnd s xs = _
  rw [execSnapshotSettleEnd, State.live, hs, hstream, hsampling]
  rfl

theorem exec_snapshotComplete (hstream : s.cap.stream = .snapshot) (hsampling : s.cap.sampling ≠ none) :
    exec (.snapshotComplete xs) s = .next (choose (snapshotStopped xs s)) := by
  obtain ⟨x, hx⟩ := Option.ne_none_iff_exists'.mp hsampling
  show execSnapshotComplete xs s = _
  rw [execSnapshotComplete, State.live, hs, hstream, hx]
  rfl

end

/-- The snapshot's samples are to come (R82). -/
theorem snapshotBegun_cap {s : State} {g : LegId} (xs : List Sample) (hsampling : s.cap.sampling = none) (hg : s.cap.coupler = some g) :
    (snapshotBegun xs s).cap = { s.cap with
      sampling := some ⟨s.cap.snapStart + 400, (s.legSettings g).chipDivider, 2 * (s.legSettings g).profileBins, xs⟩ } := by
  have hquiet : (s.atClock (s.cap.snapStart + 400)).cap = s.cap := Capture.sampleTo_none hsampling _
  unfold snapshotBegun
  dsimp only [State.setCap]
  rw [hquiet, hg]
  rfl

theorem snapshotBegun_clock (xs : List Sample) (s : State) : (snapshotBegun xs s).time.clock = max s.time.clock (s.cap.snapStart + 400) := by
  simp [snapshotBegun, Nat.max_comm]

theorem snapshotBegun_frame (xs : List Sample) (s : State) :
    (snapshotBegun xs s).seq = s.seq ∧ (snapshotBegun xs s).win = s.win ∧ (snapshotBegun xs s).plan = s.plan ∧
      (snapshotBegun xs s).cor = s.cor ∧ (snapshotBegun xs s).prof = s.prof ∧ (snapshotBegun xs s).div = s.div ∧
      (snapshotBegun xs s).arith = s.arith ∧ (snapshotBegun xs s).map = s.map ∧ (snapshotBegun xs s).stray = s.stray ∧
      (snapshotBegun xs s).ing = s.ing ∧ (snapshotBegun xs s).msg = s.msg := by
  simp [snapshotBegun]

/-- The snapshot has stopped, its half FULL, before the correlator's take. -/
def snapshotCut (ys : List Sample) (g : LegId) (s : State) : State :=
  let s1 := (s.told ys).atClock (s.cap.snapStart + 200 * snapshotMicros (s.legSettings g))
  s1.setCap (s1.cap.finish s1.time.clock false)

section
variable {s : State} {g : LegId} (ys : List Sample)

theorem snapshotStopped_eq (hg : s.cap.coupler = some g) : snapshotStopped ys s = correlatorTake (snapshotCut ys g s) := by
  unfold snapshotStopped snapshotCut
  rw [hg, Nat.mul_comm 200]
  rfl

theorem snapshotCut_cap : (snapshotCut ys g s).cap = (((s.told ys).atClock
    (s.cap.snapStart + 200 * snapshotMicros (s.legSettings g))).cap.finish (snapshotCut ys g s).time.clock false) := rfl

theorem snapshotCut_stopped : Stopped s (snapshotCut ys g s) := by
  refine .of_finish ?_ (snapshotCut_cap ys)
  simp [snapshotCut]

theorem snapshotCut_clock : (snapshotCut ys g s).time.clock =
    max s.time.clock (s.cap.snapStart + 200 * snapshotMicros (s.legSettings g)) := by
  simp [snapshotCut, Nat.max_comm]

end

/-- Where a snapshot streams after the choice, and none did before, it starts with the choice (R82, R84). -/
theorem choose_stream {s : State} (h : s.cap.stream ≠ .snapshot) (hafter : (choose s).cap.stream = .snapshot) :
    (choose s).cap.snapStart = s.time.clock ∧ (choose s).cap.sampling = none := by
  rcases choose_cases s with e | ⟨k, g, -, e⟩ | ⟨k, w, -, -, -, -, e⟩
  · rw [e] at hafter
    exact absurd hafter h
  · obtain ⟨-, -, -, hstart, -, hsampling, -⟩ := startSnapshot_writes k g s
    rw [e]
    exact ⟨hstart, hsampling⟩
  · rw [e, startAcquisition_cap] at hafter
    cases hafter

/-- What SNAPSHOT_COMPLETE leaves (R82, R83, R104). -/
theorem snapshotStopped_completes {s : State} {g : LegId} (ys : List Sample) (hg : s.cap.coupler = some g) :
    let t := choose (snapshotStopped ys s)
    t.time.clock = max s.time.clock (s.cap.snapStart + 200 * snapshotMicros (s.legSettings g)) ∧
      (∀ h, s.cap.inState .filling = some h →
        (s.cor.job ≠ none → (t.cap.half h).state = .full ∧ (t.cap.half h).void = false ∧
          (t.cap.half h).owner = (s.cap.half h).owner ∧ (t.cap.half h).fillOrder = some t.time.clock) ∧
        ∀ k, s.cor.job = none → (s.cap.half h).owner = some (.snapshot g k) → s.prof.lag.state = .capturing →
          s.prof.lag.leg = some g → (∀ i, i ≠ h → (s.cap.half i).state ≠ .full) →
          t.cor.job = some ⟨h, t.time.clock⟩ ∧ (t.cap.half h).state = .correlating ∧ t.prof.lag.state = .correlating) ∧
      (t.cap.stream = .snapshot → t.cap.snapStart = t.time.clock ∧ t.cap.sampling = none) ∧
      ∀ a, t.seq.inFlight = some a → s.seq.inFlight = some a ∨ a.startClock = t.time.clock := by
  intro t
  have heq : t = choose (correlatorTake (snapshotCut ys g s)) := congrArg choose (snapshotStopped_eq ys hg)
  have hstopped := snapshotCut_stopped (s := s) (g := g) ys
  have hkept : (snapshotCut ys g s).seq = s.seq ∧ (snapshotCut ys g s).prof = s.prof := by simp [snapshotCut]
  have hstream : (snapshotCut ys g s).cap.stream = .none := (Capture.finish_stream ..).1
  have hclock := snapshotCut_clock (s := s) (g := g) ys
  clear_value t
  subst heq
  generalize snapshotCut ys g s = y at *
  obtain ⟨hseq, hprof⟩ := hkept
  have htime : (choose (correlatorTake y)).time = y.time := by simp
  have htaken : (correlatorTake y).seq = y.seq ∧ (correlatorTake y).time = y.time := by simp
  refine ⟨(congrArg Time.clock htime).trans hclock,
    fun h hf => ⟨fun hjob => ?_, fun k hjob howner hlag hleg hother => ?_⟩, fun hsnap => ?_, fun a ha => ?_⟩
  · obtain ⟨htake, hhalf⟩ := hstopped.full hf hjob
    rw [htime, htake, hhalf]
    exact hstopped.half h hf
  · have hlives : ownerLives y (s.cap.half h).owner = true := by
      rw [howner, ownerLives, hprof, hlag, hleg]
      simp
    obtain ⟨hcor, hhalf, hcorrelating⟩ := hstopped.taken hf hjob hlives hother
    rw [hcor, hhalf, htime]
    exact ⟨rfl, rfl, hcorrelating g k howner⟩
  · have hquiet : (correlatorTake y).cap.stream ≠ .snapshot := by
      rw [correlatorTake, (takeHalves_stream 2 y).1, hstream]
      exact nofun
    rw [htime, ← htaken.2]
    exact choose_stream hquiet hsnap
  · rcases choose_flight (correlatorTake y) with e | ⟨v, -, -, e⟩
    · rw [e, htaken.1, hseq] at ha
      exact .inl ha
    · rw [e] at ha
      cases ha
      rw [htime, htaken.2]
      exact .inr rfl

/-- A snapshot's duration holds its settle and its 2K samples (R82). -/
theorem snapshotMicros_le (t : Settings) : 400 + 2 * t.profileBins * t.chipDivider ≤ 200 * snapshotMicros t := by
  have hassoc : 2 * t.profileBins * t.chipDivider = 2 * (t.profileBins * t.chipDivider) := Nat.mul_assoc ..
  have hassoc' : 10 * t.profileBins * t.chipDivider = 10 * (t.profileBins * t.chipDivider) := Nat.mul_assoc ..
  rw [snapshotMicros, hassoc, hassoc']
  omega

section
variable {s u : State} {g : LegId} {h : HalfId} {xs : List Sample}
  (hcap : u.cap = { s.cap with
    sampling := some ⟨s.cap.snapStart + 400, (s.legSettings g).chipDivider, 2 * (s.legSettings g).profileBins, xs⟩ })
  (hstream : s.cap.stream = .snapshot) (hf : s.cap.inState .filling = some h) (hpos : s.cap.position = 0)
  (hd : 1 ≤ (s.legSettings g).chipDivider) (hl : 2 * (s.legSettings g).profileBins ≤ (s.cap.half h).samples.length)
  (hbegun : s.cap.snapStart + 400 ≤ u.time.clock)
include hcap hstream hf hpos hd hl hbegun

/-- The samples of a snapshot as they come (R80 to R82). -/
theorem snapshot_samples_after (n : Nat) :
    let taken := min (2 * (s.legSettings g).profileBins)
      (((u.after n).time.clock - (s.cap.snapStart + 400)) / (s.legSettings g).chipDivider + 1)
    ((u.after n).cap.half h).samples =
        inputs xs (s.cap.snapStart + 400) (s.legSettings g).chipDivider taken ++ (s.cap.half h).samples.drop taken ∧
      (u.after n).cap.position = taken ∧ ((u.after n).cap.half h).clip = (s.cap.half h).clip ∧
      ((u.after n).cap.half h).state = .filling := by
  have hhalf : ∀ k, u.cap.half k = s.cap.half k := fun k => by rw [hcap]; cases k <;> rfl
  have hfilling : u.cap.inState .filling = some h := by rw [hcap]; exact hf
  have hposition : u.cap.position = 0 := by rw [hcap]; exact hpos
  have hnotAcq : u.cap.stream = .snapshot := by rw [hcap]; exact hstream
  obtain ⟨hwritten, htaken⟩ := Capture.sampleTo_fresh (congrArg Capture.sampling hcap) hfilling hposition hd (by rw [hhalf]; exact hl)
    (clock := (u.after n).time.clock) (hbegun.trans (by rw [State.after_clock]; omega))
  rw [hhalf, hnotAcq] at hwritten
  intro taken
  rw [State.after_cap, hwritten]
  exact ⟨rfl, htaken, Bool.or_false _, Capture.inState_state hf⟩

omit hstream hbegun in
/-- The samples that a snapshot leaves in its half (R82). -/
theorem snapshot_samples {ys : List Sample} (hlegs : u.legs = s.legs) (hg : s.cap.coupler = some g) :
    ((choose (snapshotStopped ys u)).cap.half h).samples =
      inputs (xs ++ ys) (s.cap.snapStart + 400) (s.legSettings g).chipDivider (2 * (s.legSettings g).profileBins) ++
        (s.cap.half h).samples.drop (2 * (s.legSettings g).profileBins) := by
  have hhalf : ∀ k, u.cap.half k = s.cap.half k := fun k => by rw [hcap]; cases k <;> rfl
  have hcoupler : u.cap.coupler = some g := by rw [hcap]; exact hg
  have hsnap : u.cap.snapStart = s.cap.snapStart := by rw [hcap]
  have hfilling : u.cap.inState .filling = some h := by rw [hcap]; exact hf
  have hposition : u.cap.position = 0 := by rw [hcap]; exact hpos
  have hset : u.legSettings g = s.legSettings g := legSettings_congr hlegs g
  have hclock := snapshotCut_clock (s := u) (g := g) ys
  rw [snapshotStopped_eq ys hcoupler]
  have hcut := snapshotCut_cap (s := u) (g := g) ys
  have htoldCap : ((u.told ys).atClock (u.cap.snapStart + 200 * snapshotMicros (u.legSettings g))).cap =
      (u.cap.tell ys).sampleTo (snapshotCut ys g u).time.clock := rfl
  rw [htoldCap] at hcut
  rw [hset, hsnap] at hclock
  generalize snapshotCut ys g u = y at *
  have hmicros := snapshotMicros_le (s.legSettings g)
  have hlate : s.cap.snapStart + 400 + 2 * (s.legSettings g).profileBins * (s.legSettings g).chipDivider ≤ y.time.clock := by omega
  have hwritten := samples_of_stream (zs := []) (congrArg Capture.sampling hcap) hfilling hposition hd (by rw [hhalf]; exact hl)
    (le_refl _) (m := s.cap.snapStart + 400) (n := y.time.clock) (ys := ys) (by omega) hlate (.inl rfl)
  rw [Capture.tell_nil, Capture.sampleTo_sampleTo _ (by omega), List.append_nil, hhalf] at hwritten
  rw [samples_stopped hcut (by rw [Capture.sampleTo_inState, Capture.tell_inState, hfilling]), hwritten]

end

/-- Settles O30: the settle end sets the sampling, the samples come by the clock alone, and the completion stops the stream. -/
theorem snapshotSettlesAndCompletes : Obligations.SnapshotSettlesAndCompletes := by
  refine ⟨fun xs s hs => ⟨exec_snapshotSettleEnd_idle hs xs, exec_snapshotComplete_idle hs xs⟩,
    fun s g h xs hs hstream hsampling hg hf hpos hd hl => ⟨_, exec_snapshotSettleEnd hs xs hstream hsampling, snapshotBegun_clock xs s, ?_⟩,
    fun ys s g hs hstream hsampling hg => ⟨_, exec_snapshotComplete hs ys hstream hsampling, ?_⟩⟩
  · have hcap := snapshotBegun_cap xs hsampling hg
    have hbegun : s.cap.snapStart + 400 ≤ (snapshotBegun xs s).time.clock := by
      rw [snapshotBegun_clock]
      exact Nat.le_max_right ..
    have hlegs : (snapshotBegun xs s).legs = s.legs := by simp [snapshotBegun]
    have hreset : (snapshotBegun xs s).inReset = false := by simp [snapshotBegun, hs]
    have hsnap : (snapshotBegun xs s).cap.stream = .snapshot ∧ (snapshotBegun xs s).cap.sampling ≠ none := by
      rw [hcap]
      exact ⟨hstream, Option.some_ne_none _⟩
    refine ⟨hsnap.1, hsnap.2, ?_⟩
    obtain ⟨hseq, hwin, hplan, hcor, hprof, hdiv, harith, hmap, hstray, hing, hmsg⟩ := snapshotBegun_frame xs s
    refine ⟨hseq, hwin, hplan, hlegs, hcor, hprof, hdiv, harith, hmap, hstray, hing, hmsg, fun n => snapshot_samples_after hcap hstream hf hpos hd hl hbegun n, fun ys v hv => ?_⟩
    rw [exec_snapshotComplete hreset ys hsnap.1 hsnap.2] at hv
    cases hv
    exact snapshot_samples hcap hf hpos hd hl hlegs hg
  · obtain ⟨hclock, hhalf, hsnap, hflight⟩ := snapshotStopped_completes ys hg
    refine ⟨hclock, hhalf, hsnap, hflight, ?_⟩
    simp [snapshotStopped]

end Sys2Proof.Machine
end

section
/-! PROOFS. One block whose actions come in order, beside others whose actions come anywhere between (log 7). -/

namespace Sys2Proof.Machine

open Sys2Proof

/-- The blocks that still have an action to do. -/
def unfinished (blocks : List (List (State → State))) : List (List (State → State)) := blocks.filter fun b => !b.isEmpty

theorem unfinished_cons {f : State → State} {rest : List (State → State)} {bs : List (List (State → State))} :
    unfinished ((f :: rest) :: bs) = (f :: rest) :: unfinished bs := rfl

theorem unfinished_twice (bs : List (List (State → State))) : unfinished (unfinished bs) = unfinished bs :=
  List.filter_eq_self.mpr fun _ hb => (List.mem_filter.mp hb).2

theorem flatten_eq_nil_of_unfinished {bs : List (List (State → State))} (h : unfinished bs = []) : bs.flatten = [] := by
  rw [← flatten_filter_nonempty]
  exact congrArg List.flatten h

theorem unfinished_rest (b : List (State → State)) (bs : List (List (State → State))) :
    unfinished (b :: unfinished bs) = unfinished (b :: bs) := by
  cases b with
  | nil => exact unfinished_twice bs
  | cons f rest => exact congrArg ((f :: rest) :: ·) (unfinished_twice bs)

/-- Taking the first action of a block leaves the rest of it, beside the others. -/
theorem taken_perm {blocks bs : List (List (State → State))} {i : Nat} {f : State → State} {rest : List (State → State)}
    (hi : blocks.getD i [] = f :: rest) (h : blocks.Perm ((f :: rest) :: bs)) : (blocks.set i rest).Perm (rest :: bs) := by
  have hlt : i < blocks.length := by
    by_contra hge
    rw [List.getD_eq_default _ _ (Nat.le_of_not_lt hge)] at hi
    cases hi
  rw [List.getD_eq_getElem _ _ hlt] at hi
  have hsplit := List.getElem_cons_eraseIdx_perm hlt
  rw [hi] at hsplit
  exact (List.set_perm_cons_eraseIdx hlt rest).trans ((hsplit.trans h).cons_inv.cons rest)

theorem getD_mem {blocks : List (List (State → State))} {i : Nat} {f : State → State} {rest : List (State → State)}
    (hi : blocks.getD i [] = f :: rest) : f :: rest ∈ blocks := by
  by_cases hlt : i < blocks.length
  · rw [List.getD_eq_getElem _ _ hlt] at hi
    exact hi ▸ List.getElem_mem hlt
  · rw [List.getD_eq_default _ _ (Nat.le_of_not_lt hlt)] at hi
    cases hi

section
variable {Q : List (State → State) → Nat → State → Prop} {Side : (State → State) → Prop}
  (hdraws : ∀ m k t n, Q m k t → Q m k (t.setDraws n))
  (hmain : ∀ f rest k t, Q (f :: rest) k t → Q rest k (f t))
  (hside : ∀ m k f t, Side f → Q m (k + 1) t → Q m k (f t))
include hdraws hmain hside

/-- `Q`, of the actions that the ordered block still has to do and of the number of the others', holds to the end. -/
theorem interleave_main : ∀ (n : Nat) (blocks sides : List (List (State → State))) (main : List (State → State)) (s : State),
    main.length + sides.flatten.length < n → (unfinished blocks).Perm (unfinished (main :: sides)) → (∀ b ∈ sides, ∀ f ∈ b, Side f) →
    Q main sides.flatten.length s → Q [] 0 (interleave n blocks s)
  | 0, _, _, _, _, hn, _, _, _ => absurd hn (Nat.not_lt_zero _)
  | n + 1, blocks, sides, main, s, hn, hperm, hall, hq => by
    have hfoldMain : ∀ (m : List (State → State)) (t : State), Q m 0 t → Q [] 0 (m.foldl (fun t f => f t) t) := fun m => by
      induction m with
      | nil => exact fun _ h => h
      | cons f m ih => exact fun t h => ih (f t) (hmain f m 0 t h)
    have hfoldSide : ∀ (m : List (State → State)) (t : State), (∀ f ∈ m, Side f) → Q [] m.length t →
        Q [] 0 (m.foldl (fun t f => f t) t) := fun m => by
      induction m with
      | nil => exact fun _ _ h => h
      | cons f m ih =>
        exact fun t hm h => ih (f t) (fun g hg => hm g (List.mem_cons_of_mem _ hg)) (hside [] _ f t (hm f List.mem_cons_self) h)
    have hwait : Q main sides.flatten.length (s.setDraws (s.draws + 1)) := hdraws _ _ _ _ hq
    have hfilter : (blocks.filter fun b => !b.isEmpty) = unfinished blocks := rfl
    have hself := unfinished_twice blocks
    unfold interleave
    rw [hfilter]
    generalize unfinished blocks = bs at hperm hself ⊢
    split
    · have hnone : unfinished (main :: sides) = [] := List.nil_perm.mp hperm
      cases main with
      | nil =>
        have hflat : sides.flatten = [] := by simpa using flatten_eq_nil_of_unfinished hnone
        rwa [hflat] at hq
      | cons f rest => cases hnone
    · next b =>
      have hone : unfinished (main :: sides) = [b] := List.singleton_perm.mp hperm |>.symm
      cases main with
      | nil =>
        have hflat : sides.flatten = b := by
          have h := congrArg List.flatten hone
          rw [unfinished, flatten_filter_nonempty] at h
          simpa using h
        rw [hflat] at hq
        refine hfoldSide b s (fun f hf => ?_) hq
        obtain ⟨c, hc, hfc⟩ := List.mem_flatten.mp (hflat ▸ hf)
        exact hall c hc f hfc
      | cons f rest =>
        rw [unfinished_cons] at hone
        obtain ⟨rfl, hrest⟩ := List.cons.inj hone
        rw [flatten_eq_nil_of_unfinished hrest] at hq
        exact hfoldMain _ s hq
    · dsimp only
      split
      · next hlong _ _ hempty =>
        have hmemSelf : ∀ c ∈ bs, c ∈ unfinished bs := fun c hc => by rwa [hself]
        have hlt : Config.nextBlock s.draws % bs.length < bs.length := Nat.mod_lt _ (List.length_pos_iff.mpr hlong)
        rw [List.getD_eq_getElem _ _ hlt] at hempty
        have hfull := (List.mem_filter.mp (hmemSelf _ (List.getElem_mem hlt))).2
        rw [hempty] at hfull
        cases hfull
      · next f rest htake =>
        have hmem := getD_mem htake
        rcases List.mem_cons.mp (List.mem_filter.mp (hperm.mem_iff.mp hmem)).1 with rfl | hin
        · refine interleave_main n _ sides rest _ (by rw [List.length_cons] at hn; omega) ?_ hall (hmain f rest _ _ hwait)
          exact ((taken_perm htake hperm).filter _).trans (List.Perm.of_eq (unfinished_rest rest sides))
        · obtain ⟨before, after, rfl⟩ := List.append_of_mem hin
          have hlength : (before ++ (f :: rest) :: after).flatten.length = (rest :: (before ++ after)).flatten.length + 1 := by
            simp only [List.flatten_append, List.flatten_cons, List.length_append, List.length_cons]
            omega
          rw [hlength] at hn hwait
          have hothers : (main :: (before ++ (f :: rest) :: after)).Perm ((f :: rest) :: (main :: (before ++ after))) :=
            (List.perm_middle.cons main).trans (List.Perm.swap ..)
          have hrest := (taken_perm htake (hperm.trans (hothers.filter _))).filter fun b => !b.isEmpty
          refine interleave_main n _ (rest :: (before ++ after)) main _ (by omega) ?_ (fun b hb g hg => ?_)
            (hside _ _ f _ (hall _ hin f List.mem_cons_self) hwait)
          · exact (hrest.trans (List.Perm.of_eq (unfinished_rest rest _))).trans ((List.Perm.swap ..).filter _)
          · rcases List.mem_cons.mp hb with rfl | hb
            · exact hall _ hin g (List.mem_cons_of_mem _ hg)
            · refine hall b (List.mem_append.mpr ?_) g hg
              exact (List.mem_append.mp hb).imp_right (List.mem_cons_of_mem _)

/-- The same of the blocks that act together. -/
theorem together_main {main : List (State → State)} {sides : List (List (State → State))} {s : State}
    (hall : ∀ b ∈ sides, ∀ f ∈ b, Side f) (h : Q main sides.flatten.length s) : Q [] 0 (together (main :: sides) s) := by
  refine interleave_main hdraws hmain hside _ (main :: sides) sides main s ?_ (List.Perm.refl _) hall h
  simp only [List.flatten_cons, List.length_append]
  omega

end

end Sys2Proof.Machine
end

section
/-! PROOFS. Sweeps that end one after another, beside other actions (R64, R65; log 7). -/

namespace Sys2Proof.Machine

open Sys2Proof

/-! ### A sweep that has ended stays so (R64) -/

theorem Ended.frame {s t : State} {w : Sweep} (h : Ended s w) (hseq : t.seq = s.seq) (hslot : ∀ i, t.slot i = s.slot i)
    (hdiv : ∀ P : Job → Prop, s.div.AllJobs P → t.div.AllJobs P) : Ended t w :=
  have hjobs := hdiv _ ⟨h.jobs, h.batches⟩
  ⟨(findSweep_of_queue (congrArg Sequencer.queue hseq) _).trans h.record, (hslot _).trans h.slot, hjobs.queue, hjobs.waiting,
    hseq ▸ h.flight⟩

theorem Divider.AllJobs.remove {P : Job → Prop} {d : Divider} (h : d.AllJobs P) (clock : Nat) (p : JobOwner → Bool) :
    (d.remove clock p).AllJobs P :=
  Divider.remove_allJobs clock p ⟨fun j hj _ => h.queue j hj, fun b hb j hj _ => h.waiting b hb j hj⟩

theorem Ended.abandon {s : State} {w : Sweep} (h : Ended s w) : Ended (abandon s) w where
  record := by
    rw [findSweep_none_iff_roster, abandon_roster, ← findSweep_none_iff_roster]
    exact h.record
  slot := (abandon_slot s _).trans h.slot
  jobs := by simpa using h.jobs
  batches := by simpa using h.batches
  flight := by
    rw [abandon_flight]
    nofun

theorem Ended.judgeClasses {s : State} {w : Sweep} (h : Ended s w) : Ended (judgeClasses s) w := by
  unfold Machine.judgeClasses
  split
  · exact h
  · split
    · exact h.abandon
    · exact h

theorem Ended.endSweep {s : State} {w : Sweep} (h : Ended s w) (id : Nat) {o : SweepOutcome} (ho : o ≠ .done ∧ o ≠ .doneClipped) :
    Ended (endSweep id o 0 0 s) w := by
  cases hv : s.findSweep id with
  | none =>
    have hsame : Machine.endSweep id o 0 0 s = s := by
      unfold Machine.endSweep
      rw [hv]
    rwa [hsame]
  | some v =>
    obtain rfl := findSweep_id hv
    have hremoved : Ended (sweepRemoved v s) w := by
      have hjobs : (sweepRemoved v s).div.AllJobs fun j => JobOwner.ofSweep w.id j.owner = false :=
        Divider.AllJobs.remove ⟨h.jobs, h.batches⟩ s.time.clock (JobOwner.ofSweep v.id)
      have hseq : (sweepRemoved v s).seq = (dropSweep v.id s).seq := by simp [sweepRemoved]
      refine ⟨?_, ?_, hjobs.queue, hjobs.waiting, ?_⟩
      · rw [findSweep_none_iff_roster, sweepRemoved_roster]
        exact fun u hu => findSweep_none_iff_roster.mp h.record u (List.mem_filter.mp hu).1
      · rw [sweepRemoved, State.setSlot_slot]
        split
        · rfl
        · exact (dropSweep_slot _ _ _).trans h.slot
      · rw [hseq]
        rcases dropSweep_flight v.id s with e | e <;> rw [e]
        · nofun
        · exact h.flight
    have hpost := hremoved.of_same (t := post (sweepEndIn s o (s.leg v.leg).level v) (sweepRemoved v s)) rfl rfl rfl
    rw [endSweep_eq hv ho]
    split
    · exact hpost.choose
    · exact hpost

theorem settlePairing_slots (o : PairingOutcome) (e n m : Option Nat) (s : State) :
    (settlePairing o e n m s).prof.slots = s.prof.slots := by
  unfold settlePairing
  split
  · rfl
  · dsimp only
    split <;> simp [State.setLag]

theorem closeIfQuiet_slots (g : LegId) (s : State) : (closeIfQuiet g s).prof.slots = s.prof.slots := by
  have hwithdraw : (withdrawAtClose g s).prof.slots = s.prof.slots := by
    unfold withdrawAtClose
    split
    · rfl
    · split
      · exact settlePairing_slots _ _ _ _ (s.setCap _)
      · rfl
  unfold closeIfQuiet closeRecord
  split
  · rfl
  · simpa using hwithdraw

theorem forceQuiet_slots (g : LegId) (s : State) : (forceQuiet g s).prof.slots = s.prof.slots := closeIfQuiet_slots g _

theorem Ended.forceQuiet {s : State} {w : Sweep} (h : Ended s w) (g : LegId) : Ended (forceQuiet g s) w :=
  h.frame (by simp) (fun i => by rw [State.slot, forceQuiet_slots]; rfl) fun _ hd => by simpa using hd

theorem stopSnapshot_slot (s : State) (i : SlotId) : (stopSnapshot s).slot i = s.slot i := by
  rw [stopSnapshot, correlatorTake_slot]
  rfl

theorem Ended.cancelPairing {s : State} {w : Sweep} (h : Ended s w) (g : LegId) : Ended (cancelPairing g s) w := by
  unfold Machine.cancelPairing
  split
  · exact h
  · split
    · have hsettled : ∀ p, Ended (settlePairing .off none none none
          ((withdrawSnapshot g s).setDiv ((withdrawSnapshot g s).div.remove (withdrawSnapshot g s).time.clock p))) w := fun p =>
        h.frame (by simp) (fun i => by rw [State.slot, settlePairing_slots]; simp [State.slot]) fun P hd => by
          have hsame : (withdrawSnapshot g s).div = s.div := by simp
          rw [(settlePairing_frame ..).2.2.2.2.2.2.2.2.2.2.2.1, State.setDiv_div, hsame]
          exact hd.remove _ _
      dsimp only
      split
      · exact ((hsettled _).frame (t := stopSnapshot _) (by simp) (fun i => stopSnapshot_slot _ i) fun _ hd => by simpa using hd).choose
      · exact hsettled _
    · exact h

theorem Ended.disableIngress {s : State} {w : Sweep} (h : Ended s w) (g : LegId) : Ended (disableIngress g s) w := by
  have hfiled : Ended (fileRecord g false true s.time.timebase s) w := h.of_same (by simp) (by simp) (by simp)
  exact (hfiled.cancelPairing g).of_same rfl rfl rfl

/-! ### A record that waits for its end stands as it was (R65) -/

/-- No record of the leg may start an acquisition (R56). -/
def Barred (t : State) (g : LegId) : Prop := t.admissible g = false ∨ (t.leg g).state ≠ .enabled

theorem Barred.congr {s t : State} {g : LegId} (h : Barred s g) (hplan : t.plan = s.plan) (hlegs : t.legs = s.legs) : Barred t g := by
  rw [Barred, admissible_congr hplan hlegs, State.leg, hlegs]
  exact h

theorem Barred.not_mayStart {t : State} {g : LegId} (h : Barred t g) {v : Sweep} (hv : v.leg = g) : ¬ MayStart t v := by
  rintro ⟨-, -, hleg, hadm, -⟩
  rw [hv] at hleg hadm
  rcases h with h | h
  · rw [h] at hadm
    cases hadm
  · exact h hleg

/-- The end of a sweep leaves the records of the others. -/
theorem dropSweep_findSweep_other {id i : Nat} (hid : i ≠ id) (t : State) : (dropSweep id t).findSweep i = t.findSweep i := by
  have hfilter := findSweep_filter_other (t := t) hid
  by_cases hflies : flies t id = true
  · obtain ⟨a, ha, haid⟩ := flies_iff.mp hflies
    have hother := abandon_findSweep (t := t.setSeq { t.seq with queue := t.seq.queue.filter fun w => w.id != id }) (a := a) ha i
    rw [dropSweep_flies hflies, hother, hfilter]
    simp [haid, hid]
  · rw [dropSweep_stays hflies, hfilter]

/-- The record of `w`, and what its slot holds, are in `t` as they were in `x`. -/
structure Waits (x t : State) (w : Sweep) : Prop where
  record  : t.findSweep w.id = some w
  leg     : ∀ v ∈ t.roster.queue, v.id = w.id → v.leg = w.leg
  content : (t.slot w.slot).content = (x.slot w.slot).content
  barred  : Barred t w.leg

section
variable {x t : State} {w : Sweep} (h : Waits x t w)
include h

theorem Waits.frame {u : State} (hseq : u.seq = t.seq) (hslot : ∀ i, (u.slot i).content = (t.slot i).content) (hplan : u.plan = t.plan)
    (hlegs : u.legs = t.legs) : Waits x u w :=
  ⟨(findSweep_of_queue (congrArg Sequencer.queue hseq) _).trans h.record, by rw [roster_of_seq hseq]; exact h.leg,
    (hslot _).trans h.content, h.barred.congr hplan hlegs⟩

theorem Waits.choose : Waits x (choose t) w := by
  have hnot : ∀ v ∈ t.seq.queue, MayStart t v → v.id ≠ w.id := fun v hv hmay hid =>
    h.barred.not_mayStart (v := v) (h.leg v.kept (mem_roster hv) hid) hmay
  refine ⟨?_, by simpa using h.leg, (choose_slot_content _ _).trans h.content, h.barred.congr (by simp) (by simp)⟩
  rcases choose_cases t with e | ⟨k, g, -, e⟩ | ⟨k, v, -, -, -, hchosen, e⟩ <;> rw [e]
  · exact h.record
  · exact (findSweep_of_queue (by simp) _).trans h.record
  · have hne : w.id ≠ v.id := fun hid => hnot v (List.mem_of_find?_eq_some hchosen)
      ((eligible_iff t v).mp (List.find?_some hchosen)) hid.symm
    have hqueue : (startAcquisition k v t).seq.queue = (t.updateSweep v.id (startedSweep (t.leg v.leg).level)).seq.queue := by
      rw [startAcquisition_seq]
    rw [findSweep_of_queue hqueue, findSweep_updateSweep (startedSweep_id _), h.record]
    simp [hne]

theorem Waits.endSweep {v : Sweep} (hv : t.findSweep v.id = some v) (hid : w.id ≠ v.id) (hslot : w.slot ≠ v.slot) {o : SweepOutcome}
    (ho : o ≠ .done ∧ o ≠ .doneClipped) : Waits x (endSweep v.id o 0 0 t) w := by
  have hpost : Waits x (post (sweepEndIn t o (t.leg v.leg).level v) (sweepRemoved v t)) w := by
    refine ⟨?_, ?_, ?_, h.barred.congr (by simp [sweepRemoved]) (by simp [sweepRemoved])⟩
    · have hqueue : (post (sweepEndIn t o (t.leg v.leg).level v) (sweepRemoved v t)).seq = (dropSweep v.id t).seq := by
        simp [sweepRemoved]
      rw [findSweep_of_queue (congrArg Sequencer.queue hqueue), dropSweep_findSweep_other hid, h.record]
    · have hroster : (post (sweepEndIn t o (t.leg v.leg).level v) (sweepRemoved v t)).roster = t.roster.without v.id :=
        (roster_of_seq (by simp)).trans (sweepRemoved_roster v t)
      rw [hroster]
      exact fun u hu => h.leg u (List.mem_filter.mp hu).1
    · show ((sweepRemoved v t).slot w.slot).content = _
      rw [sweepRemoved, State.setSlot_slot, if_neg hslot]
      exact (congrArg Slot.content (dropSweep_slot _ _ _)).trans h.content
  rw [endSweep_eq hv ho]
  split
  · exact hpost.choose
  · exact hpost

end

/-! ### The BURST_END reports of the monitor's closes, given room (R10; log 7) -/

/-- From `s` to `t` the report queue has only grown, by BURST_END reports, the transmitter taking none. -/
structure BurstsPosted (s t : State) : Prop where
  held    : t.msg.hold = s.msg.hold
  reports : ∃ rs, t.msg.reports = s.msg.reports ++ rs ∧ ∀ r ∈ rs, r.kind = 0x64

theorem BurstsPosted.of_msg {s t : State} (h : t.msg = s.msg) : BurstsPosted s t := ⟨by rw [h], [], by simp [h], nofun⟩

theorem BurstsPosted.trans {s t u : State} (h : BurstsPosted s t) (h' : BurstsPosted t u) : BurstsPosted s u := by
  obtain ⟨hheld, rs, hrs, hall⟩ := h
  obtain ⟨hheld', rs', hrs', hall'⟩ := h'
  refine ⟨hheld'.trans hheld, rs ++ rs', by rw [hrs', hrs, List.append_assoc], fun r hr => ?_⟩
  exact (List.mem_append.mp hr).elim (hall r) (hall' r)

theorem BurstsPosted.post {s : State} (hhold : s.msg.hold = true) (hroom : s.msg.reports.length < 32) (r : BurstRecord) :
    BurstsPosted s (post (.burstEnd r) s) := by
  have hmsg : (Machine.post (.burstEnd r) s).msg = { s.msg with reports := s.msg.reports ++ [.burstEnd r] } :=
    Message.post_room hhold hroom _ _
  refine ⟨by rw [hmsg], [.burstEnd r], by rw [hmsg], fun x hx => ?_⟩
  rw [List.mem_singleton.mp hx]
  rfl

theorem reports_length_le (s : State) : s.msg.reports.length ≤ s.reportsDue := Nat.le_add_right ..

theorem BurstsPosted.settlePairing {s : State} (hhold : s.msg.hold = true) (hroom : s.reportsDue ≤ 32) (o : PairingOutcome)
    (e n m : Option Nat) : BurstsPosted s (settlePairing o e n m s) := by
  unfold Machine.settlePairing
  split
  · exact .of_msg rfl
  · next p hp =>
    dsimp only
    split
    · next r _ =>
      have hlength : s.msg.reports.length + 1 ≤ 32 := by
        rw [State.reportsDue, hp] at hroom
        exact hroom
      refine (BurstsPosted.of_msg (t := updateLog p.serial (r.settled o e n m) ((s.setLag .reset).setIng { s.ing with pairing := none }))
        (by simp)).trans (BurstsPosted.post ?_ ?_ _)
      · simpa using hhold
      · simpa using hlength
    · exact .of_msg (by simp)

theorem BurstsPosted.fileRecord {s : State} (hhold : s.msg.hold = true) (hroom : s.msg.reports.length < 32) (g : LegId)
    (long cut : Bool) (time : Nat) : BurstsPosted s (fileRecord g long cut time s) := by
  unfold Machine.fileRecord
  split
  · exact .of_msg rfl
  · next r _ =>
    dsimp only
    have hlogged : ∀ x, (logRecord x (s.setIngLeg g { s.ingLeg g with record := none })).msg = s.msg := fun x => by simp
    split
    · exact .of_msg (by simp)
    · refine (BurstsPosted.of_msg (hlogged _)).trans (BurstsPosted.post ?_ ?_ _) <;> rw [hlogged]
      exacts [hhold, hroom]

theorem withdrawAtClose_reportsDue (g : LegId) (s : State) : (withdrawAtClose g s).reportsDue ≤ s.reportsDue := by
  unfold withdrawAtClose
  split
  · exact le_rfl
  · split
    · exact settlePairing_reportsDue _ _ _ _ (s.setCap _)
    · exact le_rfl

theorem BurstsPosted.withdrawAtClose {s : State} (hhold : s.msg.hold = true) (hroom : s.reportsDue ≤ 32) (g : LegId) :
    BurstsPosted s (withdrawAtClose g s) := by
  unfold Machine.withdrawAtClose
  split
  · exact .of_msg rfl
  · split
    · exact (BurstsPosted.of_msg (s := s) (t := s.setCap { s.cap with waiting := none }) rfl).trans (BurstsPosted.settlePairing (s := s.setCap { s.cap with waiting := none }) hhold hroom _ _ _ _)
    · exact .of_msg rfl

theorem BurstsPosted.forceQuiet {s : State} (hhold : s.msg.hold = true) (hroom : s.reportsDue + 1 ≤ 32) (g : LegId) :
    BurstsPosted s (forceQuiet g s) := by
  have hquiet : ∀ u : State, u.msg.hold = true → u.reportsDue + 1 ≤ 32 → BurstsPosted u (closeIfQuiet g u) := fun u hu hroom => by
    unfold closeIfQuiet
    split
    · exact .of_msg rfl
    · have hwithdrawn := BurstsPosted.withdrawAtClose hu (by omega) g
      have hdue := withdrawAtClose_reportsDue g u
      have hlength := reports_length_le (Machine.withdrawAtClose g u)
      exact (hwithdrawn.trans (.fileRecord (hwithdrawn.held.trans hu) (by omega) _ _ _ _)).trans (.of_msg rfl)
  exact (BurstsPosted.of_msg (s := s) (t := s.setIngLeg g { s.ingLeg g with detectors := watchedDetectors g s }) rfl).trans
    (hquiet _ hhold hroom)

theorem cancelPairing_reportsDue (g : LegId) (s : State) : (cancelPairing g s).reportsDue ≤ s.reportsDue := by
  unfold cancelPairing
  split
  · exact le_rfl
  · split
    · have hsettled : ∀ p, (settlePairing .off none none none
          ((withdrawSnapshot g s).setDiv ((withdrawSnapshot g s).div.remove (withdrawSnapshot g s).time.clock p))).reportsDue ≤
            s.reportsDue := fun p => (settlePairing_reportsDue _ _ _ _ _).trans (reportsDue_of_same (by simp) (by simp)).le
      dsimp only
      split
      · rw [choose_reportsDue, reportsDue_of_same (t := stopSnapshot _) (stopSnapshot_frame _).2.2.2.2.1 (by simp)]
        exact hsettled _
      · exact hsettled _
    · exact le_rfl

theorem BurstsPosted.cancelPairing {s : State} (hhold : s.msg.hold = true) (hroom : s.reportsDue ≤ 32) (g : LegId) :
    BurstsPosted s (cancelPairing g s) := by
  unfold Machine.cancelPairing
  split
  · exact .of_msg rfl
  · split
    · have hsettled : ∀ p, BurstsPosted s (Machine.settlePairing .off none none none
          ((withdrawSnapshot g s).setDiv ((withdrawSnapshot g s).div.remove (withdrawSnapshot g s).time.clock p))) := fun p => by
        have hmsg : ((withdrawSnapshot g s).setDiv ((withdrawSnapshot g s).div.remove (withdrawSnapshot g s).time.clock p)).msg = s.msg := by
          simp
        refine (BurstsPosted.of_msg hmsg).trans (.settlePairing (by rw [hmsg]; exact hhold) ?_ _ _ _ _)
        exact (reportsDue_of_same hmsg (by simp)).trans_le hroom
      dsimp only
      split
      · exact (hsettled (JobOwner.ofPairing g)).trans (.of_msg (by simp))
      · exact hsettled _
    · exact .of_msg rfl

theorem disableIngress_reportsDue (g : LegId) (s : State) : (disableIngress g s).reportsDue ≤ s.reportsDue + 1 :=
  (cancelPairing_reportsDue g _).trans (fileRecord_reportsDue g false true _ s)

theorem BurstsPosted.disableIngress {s : State} (hhold : s.msg.hold = true) (hroom : s.reportsDue + 1 ≤ 32) (g : LegId) :
    BurstsPosted s (disableIngress g s) := by
  have hlength := reports_length_le s
  have hfiled := BurstsPosted.fileRecord hhold (by omega) g false true s.time.timebase
  have hdue := fileRecord_reportsDue g false true s.time.timebase s
  exact (hfiled.trans (.cancelPairing (hfiled.held.trans hhold) (by omega) g)).trans (.of_msg rfl)

end Sys2Proof.Machine
end

section
/-! PROOFS. Sweeps that end in queue order, with their reports, while other blocks act (R64, R65; log 7). -/

namespace Sys2Proof.Machine

open Sys2Proof

/-! ### What the other actions leave of the records that wait for their end -/

section
variable {x t : State} {w : Sweep} (h : Waits x t w)
include h

theorem Waits.forceQuiet (g : LegId) : Waits x (forceQuiet g t) w :=
  h.frame (by simp) (fun i => by rw [State.slot, forceQuiet_slots]; rfl) (by simp) (by simp)

theorem Waits.cancelPairing (g : LegId) : Waits x (cancelPairing g t) w := by
  unfold Machine.cancelPairing
  split
  · exact h
  · split
    · have hsettled : ∀ p, Waits x (settlePairing .off none none none
          ((withdrawSnapshot g t).setDiv ((withdrawSnapshot g t).div.remove (withdrawSnapshot g t).time.clock p))) w := fun p =>
        h.frame (by simp) (fun i => by rw [State.slot, settlePairing_slots]; simp [State.slot]) (by simp) (by simp)
      dsimp only
      split
      · exact ((hsettled (JobOwner.ofPairing g)).frame (u := stopSnapshot _) (by simp) (fun i => congrArg Slot.content (stopSnapshot_slot _ i))
          (by simp) (by simp)).choose
      · exact hsettled _
    · exact h

theorem Waits.disableIngress (g : LegId) : Waits x (disableIngress g t) w := by
  have hfiled : Waits x (fileRecord g false true t.time.timebase t) w := h.frame (by simp) (fun i => by simp [State.slot]) (by simp) (by simp)
  exact (hfiled.cancelPairing g).frame rfl (fun _ => rfl) rfl rfl

end

/-- The actions beside the sequencer's: the monitor's closes. -/
def MonitorAction (f : State → State) : Prop := ∃ g, f = forceQuiet g ∨ f = disableIngress g

/-- The sequencer's actions after the ends. -/
def SequencerAction (f : State → State) : Prop := f = judgeClasses ∨ f = choose

/-! ### The records -/

/-- Of the records that are to end, those of `done` have ended in `t`, and those of `todo` are as they were in `x`. -/
structure Wound (x : State) (done todo : List Sweep) (t : State) : Prop where
  plan  : t.plan = x.plan
  legs  : t.legs = x.legs
  time  : t.time = x.time
  ended : ∀ w ∈ done, Ended t w
  waits : ∀ w ∈ todo, Waits x t w

section
variable {x t : State} {done todo : List Sweep} (h : Wound x done todo t)
include h

theorem Wound.monitor {f : State → State} (hf : MonitorAction f) : Wound x done todo (f t) := by
  obtain ⟨hplan, hlegs, htime, hended, hwaits⟩ := h
  obtain ⟨g, rfl | rfl⟩ := hf
  · exact ⟨by simpa, by simpa, by simpa, fun w hw => (hended w hw).forceQuiet g, fun w hw => (hwaits w hw).forceQuiet g⟩
  · exact ⟨by simpa, by simpa, by simpa, fun w hw => (hended w hw).disableIngress g, fun w hw => (hwaits w hw).disableIngress g⟩

theorem Wound.endSweep {w : Sweep} {rest : List Sweep} (htodo : todo = w :: rest)
    (hapart : ∀ v ∈ rest, w.id ≠ v.id ∧ w.slot ≠ v.slot) {o : SweepOutcome} (ho : o ≠ .done ∧ o ≠ .doneClipped) :
    Wound x (done ++ [w]) rest (endSweep w.id o 0 0 t) := by
  subst htodo
  have hw := h.waits w List.mem_cons_self
  refine ⟨by simpa using h.plan, by simpa using h.legs, by simpa using h.time, fun v hv => ?_, fun v hv => ?_⟩
  · rcases List.mem_append.mp hv with hv | hv
    · exact (h.ended v hv).endSweep w.id ho
    · rw [List.mem_singleton.mp hv]
      exact endSweep_ended hw.record ho
  · obtain ⟨hid, hslot⟩ := hapart v hv
    exact (h.waits v (List.mem_cons_of_mem _ hv)).endSweep hw.record hid.symm hslot.symm ho

end

theorem Wound.sequencer {x t : State} {done : List Sweep} (h : Wound x done [] t) {f : State → State} (hf : SequencerAction f) :
    Wound x done [] (f t) := by
  obtain ⟨hplan, hlegs, htime, hended, -⟩ := h
  rcases hf with rfl | rfl
  · exact ⟨by simpa, by simpa, by simpa, fun w hw => (hended w hw).judgeClasses, nofun⟩
  · exact ⟨by simpa, by simpa, by simpa, fun w hw => (hended w hw).choose, nofun⟩

/-! ### Their reports -/

/-- The reports that `t` has more than `x` are the SWEEP_ENDs of `done`, in their order, and BURST_ENDs. -/
structure Told (x : State) (o : SweepOutcome) (done : List Sweep) (t : State) : Prop where
  held    : t.msg.hold = true
  reports : ∃ rs, t.msg.reports = x.msg.reports ++ rs ∧
    rs.filter (fun r => r.kind == 0x61) = done.map (fun w => sweepEndIn x o (x.leg w.leg).level w) ∧
    ∀ r ∈ rs, r.kind = 0x61 ∨ r.kind = 0x64

theorem Told.start {x : State} (hold : x.msg.hold = true) (o : SweepOutcome) : Told x o [] x := ⟨hold, [], by simp, rfl, nofun⟩

section
variable {x t : State} {o : SweepOutcome} {done : List Sweep} (h : Told x o done t)
include h

theorem Told.bursts {u : State} (hu : BurstsPosted t u) : Told x o done u := by
  obtain ⟨hheld, rs, hrs, hall⟩ := hu
  obtain ⟨hold, ps, hps, hends, hkinds⟩ := h
  refine ⟨hheld.trans hold, ps ++ rs, by rw [hrs, hps, List.append_assoc], ?_, fun r hr => ?_⟩
  · have hnone : rs.filter (fun r => r.kind == 0x61) = [] := List.filter_eq_nil_iff.mpr fun r hr => by rw [hall r hr]; decide
    rw [List.filter_append, hends, hnone, List.append_nil]
  · exact (List.mem_append.mp hr).elim (hkinds r) fun hr => .inr (hall r hr)

theorem Told.monitor {f : State → State} (hf : MonitorAction f) (hroom : t.reportsDue + 1 ≤ 32) : Told x o done (f t) := by
  obtain ⟨g, rfl | rfl⟩ := hf
  · exact h.bursts (.forceQuiet h.held hroom g)
  · exact h.bursts (.disableIngress h.held hroom g)

theorem Told.endSweep {w : Sweep} (hw : Waits x t w) (hlegs : t.legs = x.legs) (htime : t.time = x.time) (hroom : t.reportsDue + 1 ≤ 32) :
    Told x o (done ++ [w]) (endSweep w.id o 0 0 t) := by
  obtain ⟨hold, ps, hps, hends, hkinds⟩ := h
  have hreport : sweepEndIn t o (t.leg w.leg).level w = sweepEndIn x o (x.leg w.leg).level w := by
    rw [sweepEndIn, sweepEndIn, hw.content, htime, State.leg, hlegs, State.leg]
  have hlength := reports_length_le t
  have hmsg : (Machine.endSweep w.id o 0 0 t).msg = { t.msg with reports := t.msg.reports ++ [sweepEndIn x o (x.leg w.leg).level w] } := by
    rw [endSweep_report hw.record rfl, hreport, Message.post_room hold (by omega)]
  refine ⟨by rw [hmsg, hold], ps ++ [sweepEndIn x o (x.leg w.leg).level w], by rw [hmsg, hps, List.append_assoc], ?_, fun r hr => ?_⟩
  · rw [List.filter_append, hends, List.map_append]
    rfl
  · rcases List.mem_append.mp hr with hr | hr
    · exact hkinds r hr
    · rw [List.mem_singleton.mp hr]
      exact .inl rfl

end

theorem endSweep_reportsDue (id : Nat) (o : SweepOutcome) (s : State) : (endSweep id o 0 0 s).reportsDue ≤ s.reportsDue + 1 := by
  have hpairing : (endSweep id o 0 0 s).ing.pairing = s.ing.pairing := (log_of_monitor (endSweep_monitor ..)).2.2.1
  cases hw : s.findSweep id with
  | none =>
    have hsame : endSweep id o 0 0 s = s := by
      unfold endSweep
      rw [hw]
    rw [hsame]
    exact Nat.le_succ _
  | some w =>
    have hmsg := endSweep_report hw (findSweep_id hw) o
    have hlength := Message.post_length s.time.clock (sweepEndIn s o (s.leg w.leg).level w) s.msg
    rw [State.reportsDue, hpairing, hmsg, State.reportsDue]
    omega

theorem MonitorAction.reportsDue {f : State → State} (hf : MonitorAction f) (t : State) : (f t).reportsDue ≤ t.reportsDue + 1 := by
  obtain ⟨g, rfl | rfl⟩ := hf
  · exact forceQuiet_reportsDue g t
  · exact disableIngress_reportsDue g t

theorem SequencerAction.same {f : State → State} (hf : SequencerAction f) (t : State) : (f t).msg = t.msg ∧ (f t).reportsDue = t.reportsDue := by
  rcases hf with rfl | rfl
  · exact ⟨by simp, reportsDue_of_same (by simp) (by simp)⟩
  · exact ⟨by simp, choose_reportsDue t⟩

/-! ### Both, while the blocks act together -/

/-- While the blocks act: the sequencer still has the ends of `todo` to do, then its last actions, and the monitor `k` closes. -/
def Winding (x : State) (o : SweepOutcome) (ws : List Sweep) (roomy : Prop) (m : List (State → State)) (k : Nat) (t : State) : Prop :=
  ∃ done todo last, ws = done ++ todo ∧ m = todo.map (fun w => endSweep w.id o 0 0) ++ last ∧ (∀ f ∈ last, SequencerAction f) ∧
    Wound x done todo t ∧ (roomy → Told x o done t ∧ t.reportsDue + todo.length + k ≤ 32)

section
variable {x t : State} {o : SweepOutcome} {ws : List Sweep} {roomy : Prop} {m : List (State → State)} {k : Nat}

theorem Winding.main (hws : ws.Pairwise fun v w => v.id ≠ w.id ∧ v.slot ≠ w.slot) (ho : o ≠ .done ∧ o ≠ .doneClipped)
    {f : State → State} (h : Winding x o ws roomy (f :: m) k t) : Winding x o ws roomy m k (f t) := by
  obtain ⟨done, todo, last, hsplit, hm, hlast, hwound, htold⟩ := h
  cases todo with
  | nil =>
    cases last with
    | nil => cases hm
    | cons g rest =>
      obtain ⟨rfl, rfl⟩ := List.cons.inj hm
      have hf := hlast f List.mem_cons_self
      obtain ⟨hmsg, hdue⟩ := hf.same t
      refine ⟨done, [], m, hsplit, rfl, fun g hg => hlast g (List.mem_cons_of_mem _ hg), hwound.sequencer hf, fun hr => ?_⟩
      obtain ⟨htold, hroom⟩ := htold hr
      exact ⟨htold.bursts (.of_msg hmsg), hdue.symm ▸ hroom⟩
  | cons w rest =>
    obtain ⟨rfl, rfl⟩ := List.cons.inj hm
    have hapart : ∀ v ∈ rest, w.id ≠ v.id ∧ w.slot ≠ v.slot := by
      rw [hsplit] at hws
      exact (List.pairwise_cons.mp (List.pairwise_append.mp hws).2.1).1
    refine ⟨done ++ [w], rest, last, by rw [hsplit, List.append_assoc]; rfl, rfl, hlast, hwound.endSweep rfl hapart ho, fun hr => ?_⟩
    obtain ⟨htold, hroom⟩ := htold hr
    have hdue : ((fun w : Sweep => endSweep w.id o 0 0) w t).reportsDue ≤ t.reportsDue + 1 := endSweep_reportsDue w.id o t
    rw [List.length_cons] at hroom
    exact ⟨htold.endSweep (hwound.waits w List.mem_cons_self) hwound.legs hwound.time (by omega), by omega⟩

theorem Winding.side {f : State → State} (hf : MonitorAction f) (h : Winding x o ws roomy m (k + 1) t) : Winding x o ws roomy m k (f t) := by
  obtain ⟨done, todo, last, hsplit, hm, hlast, hwound, htold⟩ := h
  refine ⟨done, todo, last, hsplit, hm, hlast, hwound.monitor hf, fun hr => ?_⟩
  obtain ⟨htold, hroom⟩ := htold hr
  have hdue := hf.reportsDue t
  exact ⟨htold.monitor hf (by omega), by omega⟩

theorem Winding.draws {n : Nat} (h : Winding x o ws roomy m k t) : Winding x o ws roomy m k (t.setDraws n) := by
  obtain ⟨done, todo, last, hsplit, hm, hlast, ⟨hplan, hlegs, htime, hended, hwaits⟩, htold⟩ := h
  refine ⟨done, todo, last, hsplit, hm, hlast, ⟨hplan, hlegs, htime, fun w hw => (hended w hw).of_same rfl rfl rfl,
    fun w hw => (hwaits w hw).frame rfl (fun _ => rfl) rfl rfl⟩, fun hr => ?_⟩
  obtain ⟨htold, hroom⟩ := htold hr
  exact ⟨htold.bursts (.of_msg rfl), hroom⟩

/-- The sequencer's ends come in their order, whatever the monitor does between (log 7). -/
theorem Winding.together (hws : ws.Pairwise fun v w => v.id ≠ w.id ∧ v.slot ≠ w.slot) (ho : o ≠ .done ∧ o ≠ .doneClipped)
    {last : List (State → State)} (hlast : ∀ f ∈ last, SequencerAction f) {sides : List (List (State → State))}
    (hsides : ∀ b ∈ sides, ∀ f ∈ b, MonitorAction f) (hwound : Wound x [] ws t)
    (hroom : roomy → Told x o [] t ∧ t.reportsDue + ws.length + sides.flatten.length ≤ 32) :
    Wound x ws [] (together ((ws.map (fun w => endSweep w.id o 0 0) ++ last) :: sides) t) ∧
      (roomy → Told x o ws (together ((ws.map (fun w => endSweep w.id o 0 0) ++ last) :: sides) t)) := by
  have hend := together_main (Q := Winding x o ws roomy) (Side := MonitorAction) (fun _ _ _ _ h => h.draws)
    (fun _ _ _ _ h => h.main hws ho) (fun _ _ _ _ hf h => h.side hf) hsides
    (⟨[], ws, last, rfl, rfl, hlast, hwound, hroom⟩ : Winding x o ws roomy _ sides.flatten.length t)
  obtain ⟨done, todo, rest, hsplit, hm, -, hwound, htold⟩ := hend
  cases todo with
  | nil =>
    rw [List.append_nil] at hsplit
    subst hsplit
    exact ⟨hwound, fun hr => (htold hr).1⟩
  | cons w ws => cases hm

end

/-- Every record of the queue stands as it is, while its leg may start nothing. -/
theorem QueueInv.waits {x : State} (hq : QueueInv x) {w : Sweep} (hw : w ∈ x.seq.queue) (hbarred : Barred x w.leg) : Waits x x w := by
  have hunique : ∀ v ∈ x.seq.queue, v.id = w.id → v = w := fun v hv hid => List.inj_on_of_nodup_map hq.ids hv hw hid
  refine ⟨?_, fun v hv hid => ?_, rfl, hbarred⟩
  · cases hfind : x.findSweep w.id with
    | none => exact absurd rfl (findSweep_eq_none.mp hfind w hw)
    | some v => rw [hunique v (List.mem_of_find?_eq_some hfind) (findSweep_id hfind)]
  · obtain ⟨u, hu, rfl⟩ := List.mem_map.mp hv
    rw [← hunique u hu hid]

theorem QueueInv.apart {x : State} (hq : QueueInv x) (p : Sweep → Bool) :
    (x.seq.queue.filter p).Pairwise fun v w => v.id ≠ w.id ∧ v.slot ≠ w.slot := by
  have hids := List.pairwise_map.mp hq.ids
  have hslots := List.pairwise_map.mp hq.slots
  exact (hids.and hslots).filter p

/-- The records that are left without those of which `p` holds (R64). -/
theorem QueueInv.roster_without {x : State} (hq : QueueInv x) (p : Sweep → Bool) :
    (x.roster.withoutAll ((x.seq.queue.filter p).map (·.id))).queue = keptRecords (x.seq.queue.filter fun w => !p w) := by
  have hmem : ∀ w ∈ x.seq.queue, ((x.seq.queue.filter p).map (·.id)).contains w.id = p w := fun w hw => by
    refine Bool.eq_iff_iff.mpr ?_
    rw [List.contains_iff_mem, List.mem_map]
    refine ⟨fun ⟨v, hv, hid⟩ => ?_, fun hbad => ⟨w, List.mem_filter.mpr ⟨hw, hbad⟩, rfl⟩⟩
    obtain ⟨hvmem, hbad⟩ := List.mem_filter.mp hv
    rwa [List.inj_on_of_nodup_map hq.ids hvmem hw hid] at hbad
  show (keptRecords x.seq.queue).filter _ = _
  rw [← keptRecords_filter (fun w => !((x.seq.queue.filter p).map (·.id)).contains w.id) fun _ => rfl]
  exact congrArg keptRecords (List.filter_congr fun w hw => by rw [hmem w hw])

end Sys2Proof.Machine
end

section
/-! PROOFS. CLASS_SET: the plan, and the sweeps it ends (R35 to R37, R67). -/

namespace Sys2Proof.Machine

open Sys2Proof

/-! ### The plan that is written (R35) -/

theorem binClassOf_code {v : Nat} (h : v ≤ 2) : ((binClassOf v).getD .fixed).code = v := by
  match v, h with
  | 0, _ | 1, _ | 2, _ => rfl

section
variable {first limit : Byte} {classes : List Byte} {s : State} (hok : ¬ ClassSetBad first limit classes)
  (hstored : s.plan.stored.length = 64)
include hok hstored

theorem classPlan_length : (classPlan first limit classes s).stored.length = 64 := by
  simp only [ClassSetBad, not_or, Nat.not_lt] at hok
  exact writeClasses_length hstored (by simpa using hok.2.2.1)

/-- The bins of the range have the classes carried, and the others keep theirs (R35). -/
theorem classPlan_code {b : Nat} (hb : b < 64) : ((classPlan first limit classes s).stored.getD b .fixed).code =
    if first.toNat ≤ b ∧ b < first.toNat + classes.length then (classes.getD (b - first.toNat) 0).toNat
    else (s.plan.stored.getD b .fixed).code := by
  obtain ⟨hfirst, -, hend, hclasses, -⟩ : first.toNat ≤ 63 ∧ classes.length ≤ 64 ∧ first.toNat + classes.length ≤ 64 ∧
      (∀ c ∈ classes, c.toNat ≤ 2) ∧ limit.toNat ≤ 64 := by
    simpa only [ClassSetBad, not_or, Nat.not_lt, not_exists, not_and] using hok
  simp only [classPlan, writeClasses, List.getD_eq_getElem?_getD, List.append_assoc, List.length_map]
  by_cases hbelow : b < first.toNat
  · rw [List.getElem?_append_left (by simp; omega), List.getElem?_take_of_lt hbelow, if_neg (by omega)]
  · rw [List.getElem?_append_right (by simp; omega), List.length_take, hstored, Nat.min_eq_left (by omega)]
    by_cases hin : b < first.toNat + classes.length
    · have hlt : b - first.toNat < classes.length := by omega
      rw [List.getElem?_append_left (by simpa using hlt), if_pos ⟨by omega, hin⟩, List.getElem?_map, List.getElem?_eq_getElem hlt]
      exact binClassOf_code (hclasses _ (List.getElem_mem hlt))
    · rw [List.getElem?_append_right (by simp; omega), if_neg (by omega), List.getElem?_drop, List.length_map]
      exact congrArg (fun i => (s.plan.stored[i]?.getD BinClass.fixed).code) (by omega)

end

/-! ### The sweeps that it ends (R67) -/

/-- The sweeps that are no longer admissible. -/
def State.excluded (x : State) : List Sweep := x.seq.queue.filter fun w => w.state != .analysing && !x.admissible w.leg

theorem planJudged_eq (x : State) : planJudged x =
    together ((x.excluded.map (fun w => endSweep w.id .excluded 0 0) ++ [judgeClasses, choose]) :: quietBlocks x) x := by
  rw [planJudged, classActions, sweepIdsOf, List.map_map]
  rfl

theorem quietBlocks_length (s : State) : (quietBlocks s).flatten.length ≤ 4 := by
  have hflat : ∀ gs : List LegId, (gs.map fun g => [forceQuiet g]).flatten.length = gs.length := fun gs => by
    induction gs with
    | nil => rfl
    | cons g gs ih => simp [ih]
  rw [quietBlocks, hflat]
  exact (List.length_filter_le ..).trans_eq rfl

theorem reportsDue_le (s : State) : s.reportsDue ≤ s.msg.reports.length + 1 := by
  unfold State.reportsDue
  cases s.ing.pairing <;> simp

section
variable {x : State} (hq : QueueInv x)
include hq

/-- They end in queue order, with their reports (R64, R65, R67). -/
theorem planJudged_ends : Wound x x.excluded [] (planJudged x) ∧
    (x.msg.hold = true ∧ x.msg.reports.length + 9 ≤ 32 → Told x .excluded x.excluded (planJudged x)) := by
  have hwound : Wound x [] x.excluded x := by
    refine ⟨rfl, rfl, rfl, nofun, fun w hw => ?_⟩
    obtain ⟨hmem, hbad⟩ := List.mem_filter.mp hw
    exact hq.waits hmem (.inl (by simpa using (Bool.and_eq_true_iff.mp hbad).2))
  rw [planJudged_eq]
  have ho : SweepOutcome.excluded ≠ .done ∧ SweepOutcome.excluded ≠ .doneClipped := ⟨nofun, nofun⟩
  refine Winding.together (o := .excluded) (ws := x.excluded) (roomy := x.msg.hold = true ∧ x.msg.reports.length + 9 ≤ 32) (hq.apart _) ho
    (fun f hf => ?_) (fun b hb f hf => ?_) hwound fun ⟨hold, hroom⟩ => ⟨.start hold _, ?_⟩
  · simpa [SequencerAction] using hf
  · obtain ⟨g, -, rfl⟩ := List.mem_map.mp hb
    exact ⟨g, .inl (List.mem_singleton.mp hf)⟩
  · have hdue := reportsDue_le x
    have hsides := quietBlocks_length x
    have hsweeps : x.excluded.length ≤ 4 := (List.length_filter_le ..).trans hq.sweeps
    omega

/-- The others stay in queue order (R67). -/
theorem planJudged_roster : (planJudged x).roster.queue =
    keptRecords (x.seq.queue.filter fun w => !(w.state != .analysing && !x.admissible w.leg)) := by
  have hids : (planJudged x).roster = x.roster.withoutAll (x.excluded.map (·.id)) := by
    refine together_roster (classBlocks_forall (fun id hid => .inl ⟨id, hid, endSweep_roster id _ 0 0⟩) (.inr judgeClasses_roster)
      (.inr choose_roster) fun g => .inr fun t => roster_of_seq (by simp)) (fun id hid => ⟨endSweep id .excluded 0 0, ?_, endSweep_roster id _ 0 0⟩) x
    exact List.mem_flatten.mpr ⟨_, List.mem_cons_self, List.mem_append_left _ (List.mem_map_of_mem hid)⟩
  rw [hids]
  exact hq.roster_without _

end

/-- What is kept of a record tells its leg, and whether it is ANALYSING. -/
theorem kept_leg {v w : Sweep} (h : v.kept = w.kept) : v.leg = w.leg ∧ (v.state = .analysing ↔ w.state = .analysing) := by
  have hleg : v.kept.leg = w.kept.leg := by rw [h]
  have hstate : v.kept.state = w.kept.state := by rw [h]
  refine ⟨hleg, ?_⟩
  simp only [Sweep.kept] at hstate
  by_cases hv : v.state = .analysing <;> by_cases hw : w.state = .analysing <;> simp_all

theorem exec_classSet_bad {n : Nat} {first limit tag : Byte} {classes : List Byte} {s : State} (h : Ready s) (hlength : classes.length < 256)
    (hbad : ClassSetBad first limit classes) :
    exec (.classSet n tag (classPayload first limit classes)) s = .next ((s.after n).replied 0x14 tag .badValue []) :=
  requestArrives_unchanged (kind := 0x14) (p := classPayload first limit classes) h rfl (class_lengthAllowed hlength)
    ((serveClassSet_eq hlength (s.after n).holding).1 hbad)

/-- Settles O23: the plan written, and the ends that follow from it. -/
theorem classSetWritesThePlan : Obligations.ClassSetWritesThePlan := by
  unfold Obligations.ClassSetWritesThePlan
  intro n first limit tag classes s hready hq hlength hstored
  refine ⟨fun hbad => exec_classSet_bad hready hlength hbad, fun hok => ?_⟩
  obtain ⟨t, ht, hans⟩ := exec_classSet (n := n) (tag := tag) (s := s) hready hlength hok
  obtain ⟨-, -, htime, -, hplan, hlegs, hseq, -, -, -, hprof, hdiv, harith, hmap, hstray, -⟩ := hans.frame
  have hx : ∀ x, x = judgeGate ((s.after n).holding.setPlan (classPlan first limit classes s)) → x.plan = classPlan first limit classes s ∧
      x.seq = s.seq ∧ x.legs = s.legs ∧ x.time = (s.after n).time ∧ x.prof = s.prof ∧ x.msg = { s.msg with hold := true } ∧
      x.div = s.div := by
    rintro _ rfl
    simp [State.holding, State.after]
  have henv : (planJudged (judgeGate ((s.after n).holding.setPlan (classPlan first limit classes s)))).arith = s.arith ∧
      (planJudged (judgeGate ((s.after n).holding.setPlan (classPlan first limit classes s)))).map = s.map ∧
      (planJudged (judgeGate ((s.after n).holding.setPlan (classPlan first limit classes s)))).stray = s.stray := by
    refine classBlocks_keeps (P := fun t => t.arith = s.arith ∧ t.map = s.map ∧ t.stray = s.stray) (fun _ _ h => h)
      (fun t id h => by simpa using h) (fun t h => by simpa using h) (fun t h => by simpa using h) (fun t g h => by simpa using h) _ ?_
    simp [State.holding, State.after]
  generalize hxdef : judgeGate ((s.after n).holding.setPlan (classPlan first limit classes s)) = x at *
  obtain ⟨hxplan, hxseq, hxlegs, hxtime, hxprof, hxmsg, hxdiv⟩ := hx x rfl
  have hxq : QueueInv x := by
    obtain ⟨h1, h2, h3, h4, h5, h6, h7⟩ := hq
    exact ⟨by rwa [hxseq], by rwa [hxseq], by rwa [hxseq], by rwa [hxseq], by rwa [hxseq], by rwa [hxdiv], by rwa [hxdiv]⟩
  obtain ⟨hwound, htold⟩ := planJudged_ends hxq
  have hadm : ∀ g, t.admissible g = x.admissible g := admissible_congr (hplan.trans hwound.plan) (hlegs.trans hwound.legs)
  have hroster := planJudged_roster hxq
  have hkept : keptRecords t.seq.queue = keptRecords (s.seq.queue.filter fun w => !(w.state != .analysing && !x.admissible w.leg)) := by
    rw [hseq, ← hxseq]
    exact hroster
  have htplan := hplan.trans (hwound.plan.trans hxplan)
  have hexcluded : ∀ w : Sweep, decide (w.state ≠ .analysing ∧ t.admissible w.leg = false) = (w.state != .analysing && !x.admissible w.leg) :=
    fun w => by rw [hadm, Bool.decide_and, decide_not]; cases x.admissible w.leg <;> rfl
  refine ⟨t, ht, by rw [htplan]; rfl, by rw [htplan]; exact classPlan_length hok hstored,
    fun b hb => by rw [htplan]; exact classPlan_code hok hstored hb, fun w hw hstate => ?_, hans.answered,
    htime.trans (hwound.time.trans hxtime), hlegs.trans (hwound.legs.trans hxlegs), harith.trans henv.1, hmap.trans henv.2.1,
    hstray.trans henv.2.2, ?_⟩
  · have hmem : w.kept ∈ keptRecords t.seq.queue := List.mem_map_of_mem hw
    rw [hkept] at hmem
    obtain ⟨v, hv, hvw⟩ := List.mem_map.mp hmem
    obtain ⟨hleg, hsame⟩ := kept_leg hvw
    have hgood := (List.mem_filter.mp hv).2
    rw [hadm, ← hleg]
    by_contra hbad
    simp [hbad, mt hsame.mp hstate] at hgood
  · simp only [hexcluded]
    refine ⟨hkept, fun w hw hbad => ?_, fun hroom => ?_⟩
    · exact (hwound.ended w (List.mem_filter.mpr ⟨hxseq ▸ hw, hbad⟩)).of_same hseq hprof hdiv
    · obtain ⟨-, rs, hrs, hends, hkinds⟩ := htold ⟨by rw [hxmsg], by rw [hxmsg]; exact hroom⟩
      refine ⟨rs, hans.joined (by rw [hrs, hxmsg]), ?_, hkinds⟩
      rw [hends, State.excluded, hxseq]
      refine List.map_congr_left fun w _ => ?_
      rw [sweepEndIn, sweepEndIn, State.slot, hxprof, hxtime, State.leg, hxlegs]
      rfl

end Sys2Proof.Machine
end

section
/-! PROOFS. What LEG_DISABLE makes of the monitor's record and pairing (R68, R86, R188, R198). -/

namespace Sys2Proof.Machine

open Sys2Proof

/-! ### The monitor's books: the log, the pairing that runs, the records reported -/

/-- The log, the pairing that runs, and the records of which BURST_END is posted. -/
structure Books where
  log     : List BurstRecord
  pairing : Option Pairing
  posted  : List BurstRecord

/-- The books of `s`, before anything is posted. -/
def State.books (s : State) : Books := ⟨s.ing.log, s.ing.pairing, []⟩

/-- The open record goes to the log: its pairing keeps it if one runs, otherwise its BURST_END is posted (R187 to R190). -/
def Books.file (record : Option BurstRecord) (b : Books) : Books :=
  match record with
  | none => b
  | some r =>
    if b.pairing.elim false fun p => p.serial == r.serial then
      ⟨loggedWith b.log r, b.pairing.map fun p => { p with closed := some r }, b.posted⟩
    else ⟨loggedWith b.log r, b.pairing, b.posted ++ [r]⟩

/-- A record whose pairing settled OFF (R198). -/
def BurstRecord.off (r : BurstRecord) : BurstRecord := r.settled .off none none none

/-- The pairing of the leg settles OFF, and the record it kept is reported (R198). -/
def Books.cancel (g : LegId) (b : Books) : Books :=
  match b.pairing with
  | none => b
  | some p =>
    if p.leg = g then
      match p.closed with
      | some r => ⟨b.log.map fun x => if x.serial = p.serial then r.off else x, none, b.posted ++ [r.off]⟩
      | none => ⟨b.log, none, b.posted⟩
    else b

/-- The books after LEG_DISABLE at the time `time`. -/
def Books.disable (g : LegId) (time : Nat) (record : Option BurstRecord) (b : Books) : Books :=
  (b.file (record.map (BurstRecord.shut false true time))).cancel g

section
variable {s : State} {g : LegId}

theorem pairingOf_books (r : BurstRecord) (long cut : Bool) (time : Nat) :
    pairingOf s r = s.books.pairing.elim false fun p => p.serial == (r.shut long cut time).serial := by
  unfold pairingOf State.books
  cases s.ing.pairing <;> rfl

theorem fileRecord_books (time : Nat) :
    let b := s.books.file ((s.ingLeg g).record.map (BurstRecord.shut false true time))
    (fileRecord g false true time s).ing.log = b.log ∧ (fileRecord g false true time s).ing.pairing = b.pairing ∧
      (s.msg.hold = true → s.msg.reports.length < 32 →
        (fileRecord g false true time s).msg.reports = s.msg.reports ++ b.posted.map .burstEnd) := by
  cases hr : (s.ingLeg g).record with
  | none =>
    rw [fileRecord_absent hr]
    exact ⟨rfl, rfl, fun _ _ => (List.append_nil _).symm⟩
  | some r =>
    have hlog := (fileRecord_log hr false true time).1
    have hbooks := pairingOf_books (s := s) r false true time
    cases hp : pairingOf s r with
    | true =>
      obtain ⟨hpairing, hmsg⟩ := fileRecord_paired hr false true time hp
      rw [hp] at hbooks
      simp only [Option.map_some, Books.file, ← hbooks, ↓reduceIte]
      exact ⟨hlog, hpairing, fun _ _ => (congrArg Message.reports hmsg).trans (List.append_nil _).symm⟩
    | false =>
      obtain ⟨hpairing, hmsg⟩ := fileRecord_unpaired hr false true time hp
      rw [hp] at hbooks
      simp only [Option.map_some, Books.file, ← hbooks, Bool.false_eq_true, ↓reduceIte]
      exact ⟨hlog, hpairing, fun hhold hroom => by rw [hmsg, Message.post_room hhold hroom]; rfl⟩

/-- The pairing of the leg settles OFF: what is left of the lag slot and of the divider's jobs (R115, R198). -/
def pairingOff (g : LegId) (s : State) : State :=
  settlePairing .off none none none
    ((withdrawSnapshot g s).setDiv ((withdrawSnapshot g s).div.remove (withdrawSnapshot g s).time.clock (JobOwner.ofPairing g)))

theorem cancelPairing_none (h : ∀ p, s.ing.pairing = some p → p.leg ≠ g) : cancelPairing g s = s := by
  unfold cancelPairing
  split
  · rfl
  · next p hp => exact if_neg (h p hp)

theorem cancelPairing_some {p : Pairing} (hp : s.ing.pairing = some p) (hleg : p.leg = g) : cancelPairing g s =
    if s.cap.stream = .snapshot ∧ s.cap.coupler = some g then choose (stopSnapshot (pairingOff g s)) else pairingOff g s := by
  have hcond : ((withdrawSnapshot g s).cap.stream == .snapshot && (withdrawSnapshot g s).cap.coupler == some g) =
      decide (s.cap.stream = .snapshot ∧ s.cap.coupler = some g) := by
    rw [Bool.decide_and]
    exact congrArg₂ (· && ·) (beq_eq_decide ..) (beq_eq_decide ..)
  unfold cancelPairing
  rw [hp]
  dsimp only
  rw [if_pos hleg, hcond]
  simp only [decide_eq_true_eq]
  rfl

theorem pairingOff_settled {p : Pairing} (hp : s.ing.pairing = some p) :
    Settled s (pairingOff g s) p .off none none none :=
  (settlePairing_settled (s := (withdrawSnapshot g s).setDiv _) hp .off none none none).of_start (by simp) (by simp)

theorem stopSnapshot_lag {u : State} (h : u.prof.lag.state ≠ .capturing) : (stopSnapshot u).prof.lag = u.prof.lag :=
  takeHalves_lag (s := u.setCap (u.cap.finish u.time.clock true)) h 2

/-- What follows the settling leaves monitor, lag slot, messages and time. -/
theorem cancelPairing_after {p : Pairing} (hp : s.ing.pairing = some p) (hleg : p.leg = g) :
    (cancelPairing g s).monitor = (pairingOff g s).monitor ∧ (cancelPairing g s).prof.lag = (pairingOff g s).prof.lag ∧
      (cancelPairing g s).msg = (pairingOff g s).msg ∧ (cancelPairing g s).div = (pairingOff g s).div := by
  have hlag : (pairingOff g s).prof.lag.state ≠ .capturing := by
    rw [(pairingOff_settled hp).2.1]
    exact nofun
  rw [cancelPairing_some hp hleg]
  split
  · exact ⟨(choose_monitor _).trans (monitor_of_ing (by simp)), (choose_lag _).trans (stopSnapshot_lag hlag), by simp, by simp⟩
  · exact ⟨rfl, rfl, rfl, rfl⟩

theorem cancelPairing_books : (cancelPairing g s).ing.log = (s.books.cancel g).log ∧
    (cancelPairing g s).ing.pairing = (s.books.cancel g).pairing ∧ (s.msg.hold = true → s.reportsDue ≤ 32 →
      (cancelPairing g s).msg.reports = s.msg.reports ++ (s.books.cancel g).posted.map .burstEnd) := by
  by_cases hnone : ∀ p, s.ing.pairing = some p → p.leg ≠ g
  · have hsame : s.books.cancel g = s.books := by
      unfold Books.cancel
      split
      · rfl
      · next p hp => exact if_neg (hnone p hp)
    rw [cancelPairing_none hnone, hsame]
    exact ⟨rfl, rfl, fun _ _ => (List.append_nil _).symm⟩
  · obtain ⟨p, hp, hleg⟩ : ∃ p, s.ing.pairing = some p ∧ p.leg = g := by simpa using hnone
    obtain ⟨hmonitor, -, hmsg, -⟩ := cancelPairing_after hp hleg
    obtain ⟨hpairing, -, hopen, hclosed⟩ := pairingOff_settled (g := g) hp
    obtain ⟨hlog', -, hpairing', -⟩ := log_of_monitor hmonitor
    have hbooks : s.books.pairing = some p := hp
    unfold Books.cancel
    rw [hlog', hpairing', hmsg, hbooks]
    dsimp only
    rw [if_pos hleg]
    cases hc : p.closed with
    | none =>
      obtain ⟨hm, hl, -⟩ := hopen hc
      exact ⟨hl, hpairing, fun _ _ => (congrArg Message.reports hm).trans (List.append_nil _).symm⟩
    | some r =>
      obtain ⟨hl, -, hm⟩ := hclosed r hc
      refine ⟨hl, hpairing, fun hhold hroom => ?_⟩
      rw [State.reportsDue, hp] at hroom
      rw [hm, Message.post_room hhold hroom]
      rfl

/-- The books after the monitor's part of LEG_DISABLE (R68, R188, R198). -/
theorem disableIngress_books : (disableIngress g s).ing.log = (s.books.disable g s.time.timebase (s.ingLeg g).record).log ∧
    (disableIngress g s).ing.pairing = (s.books.disable g s.time.timebase (s.ingLeg g).record).pairing ∧
    (s.msg.hold = true → s.reportsDue + 1 ≤ 32 → (disableIngress g s).msg.reports =
      s.msg.reports ++ (s.books.disable g s.time.timebase (s.ingLeg g).record).posted.map .burstEnd) := by
  obtain ⟨hlog, hpairing, hposted⟩ := fileRecord_books (s := s) (g := g) s.time.timebase
  obtain ⟨hlog', hpairing', hposted'⟩ := cancelPairing_books (s := fileRecord g false true s.time.timebase s) (g := g)
  have hcancel : ∀ b : Books, (b.cancel g).log = (Books.cancel g ⟨b.log, b.pairing, []⟩).log ∧
      (b.cancel g).pairing = (Books.cancel g ⟨b.log, b.pairing, []⟩).pairing ∧
      (b.cancel g).posted = b.posted ++ (Books.cancel g ⟨b.log, b.pairing, []⟩).posted := fun b => by
    obtain ⟨log, pairing, posted⟩ := b
    cases pairing with
    | none => exact ⟨rfl, rfl, (List.append_nil _).symm⟩
    | some p =>
      unfold Books.cancel
      dsimp only
      split
      · cases p.closed <;> simp
      · exact ⟨rfl, rfl, (List.append_nil _).symm⟩
  have hbooks : (fileRecord g false true s.time.timebase s).books =
      ⟨(s.books.file ((s.ingLeg g).record.map (BurstRecord.shut false true s.time.timebase))).log,
        (s.books.file ((s.ingLeg g).record.map (BurstRecord.shut false true s.time.timebase))).pairing, []⟩ := by
    rw [State.books, hlog, hpairing]
  obtain ⟨clog, cpairing, cposted⟩ := hcancel (s.books.file ((s.ingLeg g).record.map (BurstRecord.shut false true s.time.timebase)))
  rw [hbooks] at hlog' hpairing' hposted'
  refine ⟨hlog'.trans clog.symm, hpairing'.trans cpairing.symm, fun hhold hroom => ?_⟩
  have hlength := reports_length_le s
  have hfiled := BurstsPosted.fileRecord hhold (by omega) g false true s.time.timebase
  have hdue := fileRecord_reportsDue g false true s.time.timebase s
  refine (hposted' (hfiled.held.trans hhold) (by omega)).trans ?_
  rw [hposted hhold (by omega), Books.disable, cposted, List.map_append, List.append_assoc]

end

end Sys2Proof.Machine
end

section
/-! PROOFS. LEG_DISABLE: the work of the sequencer and of the monitor, in any order (R46, R68; log 7). -/

namespace Sys2Proof.Machine

open Sys2Proof

/-! ### The two blocks at work -/

/-- The sweeps of a leg. -/
def State.sweepsOf (x : State) (g : LegId) : List Sweep := x.seq.queue.filter fun w => w.leg == g

/-- The sequencer's actions at a LEG_DISABLE. -/
def DisableAction (ws : List Sweep) (f : State → State) : Prop := f = choose ∨ ∃ w ∈ ws, f = endSweep w.id .legOff 0 0

/-- `Q`, of what the sequencer still has to do and of whether the monitor still has to act, holds to the end of the work. -/
theorem disableWork_reaches {Q : List (State → State) → Nat → State → Prop} {g : LegId} {x : State}
    (hdraws : ∀ m k t n, Q m k t → Q m k (t.setDraws n)) (hmain : ∀ f rest k t, Q (f :: rest) k t → Q rest k (f t))
    (hside : ∀ m k t, Q m (k + 1) t → Q m k (disableIngress g t))
    (h : Q ((x.sweepsOf g).map (fun w => endSweep w.id .legOff 0 0) ++ [choose]) 1 x) : Q [] 0 (disableWork g x) := by
  have hends : (sweepIdsOf (fun w => w.leg == g) x).map (fun id => endSweep id .legOff 0 0) =
      (x.sweepsOf g).map (fun w => endSweep w.id .legOff 0 0) := by
    rw [sweepIdsOf, List.map_map]
    rfl
  have hmonitor : ∀ m k f t, f = disableIngress g → Q m (k + 1) t → Q m k (f t) := by
    rintro m k _ t rfl
    exact hside m k t
  unfold disableWork
  dsimp only
  rw [hends]
  split
  · refine together_main (Side := fun f => f = disableIngress g) hdraws hmain hmonitor (fun b hb f hf => ?_) h
    rw [List.mem_singleton.mp hb] at hf
    exact List.mem_singleton.mp hf
  · exact together_main (Side := fun f => f = disableIngress g) (sides := []) hdraws hmain hmonitor nofun (hside _ 0 x h)

theorem disableActions (x : State) (g : LegId) :
    ∀ f ∈ (x.sweepsOf g).map (fun w => endSweep w.id .legOff 0 0) ++ [choose], DisableAction (x.sweepsOf g) f := by
  intro f hf
  rcases List.mem_append.mp hf with hf | hf
  · obtain ⟨w, hw, rfl⟩ := List.mem_map.mp hf
    exact .inr ⟨w, hw, rfl⟩
  · exact .inl (List.mem_singleton.mp hf)

/-! ### What is cut off stays so (R62, R85) -/

/-- No record of `ws`, and no snapshot of the leg `g`, can start. -/
structure Outside (ws : List Sweep) (g : LegId) (t : State) : Prop where
  leg     : ∀ v ∈ t.roster.queue, ∀ w ∈ ws, v.id = w.id → v.leg = g
  waiting : t.cap.waiting ≠ some g
  barred  : Barred t g

/-- The half `h`, which was FILLING in `u`, has been cut off, and nothing of `ws` or `g` is in flight or streams any more. -/
structure Aground (u : State) (h : HalfId) (ws : List Sweep) (g : LegId) (t : State) : Prop where
  cut     : CutOff u t h
  busy    : u.cor.job ≠ none → t.cor.job ≠ none
  flight  : ∀ b, t.seq.inFlight = some b → ∀ w ∈ ws, b.sweepId ≠ w.id
  stream  : ¬ (t.cap.stream = .snapshot ∧ t.cap.coupler = some g)
  outside : Outside ws g t

/-- The half `h` is FILLING as it was in `u`, and what is in flight and streams is what was. -/
structure Poised (u : State) (h : HalfId) (ws : List Sweep) (g : LegId) (t : State) : Prop where
  halves  : ∀ k, t.cap.half k = u.cap.half k
  cor     : t.cor = u.cor
  time    : t.time = u.time
  filling : u.cap.inState .filling = some h
  flight  : t.seq.inFlight = u.seq.inFlight
  stream  : t.cap.stream = u.cap.stream ∧ t.cap.coupler = u.cap.coupler
  outside : Outside ws g t

theorem Outside.not_mayStart {ws : List Sweep} {g : LegId} {t : State} (h : Outside ws g t) {v : Sweep} (hv : v ∈ t.seq.queue)
    (hmay : MayStart t v) : ∀ w ∈ ws, v.id ≠ w.id := fun w hw hid =>
  h.barred.not_mayStart (v := v) (h.leg v.kept (mem_roster hv) w hw hid) hmay

theorem Outside.frame {ws : List Sweep} {g : LegId} {t v : State} (h : Outside ws g t)
    (hroster : ∀ w ∈ v.roster.queue, w ∈ t.roster.queue) (hwaiting : v.cap.waiting = t.cap.waiting ∨ v.cap.waiting = none)
    (hplan : v.plan = t.plan) (hlegs : v.legs = t.legs) : Outside ws g v := by
  refine ⟨fun w hw => h.leg w (hroster w hw), ?_, h.barred.congr hplan hlegs⟩
  rcases hwaiting with e | e <;> rw [e]
  · exact h.waiting
  · nofun

theorem choose_waiting (t : State) : (choose t).cap.waiting = t.cap.waiting ∨ (choose t).cap.waiting = none := by
  rcases choose_cases t with e | ⟨k, g, -, e⟩ | ⟨k, w, -, -, -, -, e⟩ <;> rw [e]
  · exact .inl rfl
  · exact .inr (startSnapshot_writes k g t).1
  · rw [startAcquisition_cap]
    cases k <;> exact .inl rfl

/-- The choice streams a snapshot that was streaming, or that waited (R84). -/
theorem choose_streams {t : State} {g : LegId} (h : (choose t).cap.stream = .snapshot ∧ (choose t).cap.coupler = some g) :
    (t.cap.stream = .snapshot ∧ t.cap.coupler = some g) ∨ t.cap.waiting = some g := by
  unfold choose at h
  split at h
  · exact .inl h
  · split at h
    · exact .inl h
    · next k _ =>
      split at h
      · rw [startAcquisition_cap] at h
        cases h.1
      · split at h
        · next i hi =>
          obtain ⟨-, -, hcoupler, -⟩ := startSnapshot_writes k i t
          exact .inr (hi.trans (hcoupler.symm.trans h.2))
        · exact .inl h

theorem Outside.choose {ws : List Sweep} {g : LegId} {t : State} (h : Outside ws g t) : Outside ws g (choose t) :=
  h.frame (by simp) (choose_waiting t) (by simp) (by simp)

section
variable {u : State} {h : HalfId} {ws : List Sweep} {g : LegId} {t : State}

theorem Aground.choose (ht : Aground u h ws g t) : Aground u h ws g (choose t) := by
  refine ⟨ht.cut.choose, fun hu => by simpa using ht.busy hu, ?_, ?_, ht.outside.choose⟩
  · rcases choose_flight t with e | ⟨v, hv, hmay, e⟩ <;> rw [e]
    · exact ht.flight
    · rintro b ⟨⟩
      exact ht.outside.not_mayStart hv hmay
  · exact fun hs => (choose_streams hs).elim ht.stream ht.outside.waiting

/-- A sweep that does not fly ends without a trace in the halves and in flight (R64). -/
theorem endSweep_grounded {w : Sweep} (hflies : ¬ flies t w.id = true) (o : SweepOutcome) :
    (endSweep w.id o 0 0 t).cap = t.cap ∧ (endSweep w.id o 0 0 t).cor = t.cor ∧
      (endSweep w.id o 0 0 t).seq.inFlight = t.seq.inFlight := by
  unfold endSweep
  split
  · exact ⟨rfl, rfl, rfl⟩
  · dsimp only
    rw [if_neg hflies, dropSweep_stays hflies]
    exact ⟨rfl, rfl, rfl⟩

theorem Outside.endSweep {w : Sweep} (ht : Outside ws g t) (o : SweepOutcome)
    (hwaiting : (endSweep w.id o 0 0 t).cap.waiting = t.cap.waiting) : Outside ws g (endSweep w.id o 0 0 t) := by
  refine ht.frame (fun v hv => ?_) (.inl hwaiting) (by simp) (by simp)
  rw [endSweep_roster] at hv
  exact (List.mem_filter.mp hv).1

theorem Aground.endSweep (ht : Aground u h ws g t) {w : Sweep} (hw : w ∈ ws) (o : SweepOutcome) :
    Aground u h ws g (endSweep w.id o 0 0 t) := by
  have hflies : ¬ flies t w.id = true := fun hf => by
    obtain ⟨b, hb, hid⟩ := flies_iff.mp hf
    exact ht.flight b hb w hw hid
  obtain ⟨hcap, hcor, hflight⟩ := endSweep_grounded hflies o
  exact ⟨ht.cut.of_cap hcap, fun hu => hcor ▸ ht.busy hu, hflight ▸ ht.flight, hcap ▸ ht.stream, ht.outside.endSweep o (by rw [hcap])⟩

theorem fileRecord_pairing_leg (g : LegId) (long cut : Bool) (time : Nat) (s : State) :
    (fileRecord g long cut time s).ing.pairing.map (·.leg) = s.ing.pairing.map (·.leg) := by
  cases hr : (s.ingLeg g).record with
  | none => rw [fileRecord_absent hr]
  | some r =>
    cases hp : pairingOf s r with
    | true =>
      rw [(fileRecord_paired hr long cut time hp).1, Option.map_map]
      rfl
    | false => rw [(fileRecord_unpaired hr long cut time hp).1]

/-- The monitor's part stops no snapshot of another leg (R198). -/
theorem disableIngress_cap (h : ∀ p, t.ing.pairing = some p → p.leg = g → ¬ (t.cap.stream = .snapshot ∧ t.cap.coupler = some g)) :
    (∀ k, (disableIngress g t).cap.half k = t.cap.half k) ∧ (disableIngress g t).cor = t.cor ∧ (disableIngress g t).seq = t.seq ∧
      (disableIngress g t).cap.stream = t.cap.stream ∧ (disableIngress g t).cap.coupler = t.cap.coupler ∧
      ((disableIngress g t).cap.waiting = t.cap.waiting ∨ (disableIngress g t).cap.waiting = none) := by
  have hcancel : ∀ v : State, v.cap = t.cap → v.cor = t.cor → v.seq = t.seq → 
      v.ing.pairing.map (·.leg) = t.ing.pairing.map (·.leg) →
      (∀ k, (cancelPairing g v).cap.half k = t.cap.half k) ∧ (cancelPairing g v).cor = t.cor ∧ (cancelPairing g v).seq = t.seq ∧
      (cancelPairing g v).cap.stream = t.cap.stream ∧ (cancelPairing g v).cap.coupler = t.cap.coupler ∧
      ((cancelPairing g v).cap.waiting = t.cap.waiting ∨ (cancelPairing g v).cap.waiting = none) := fun v hcap hcor hseq hpair => by
    by_cases hnone : ∀ p, v.ing.pairing = some p → p.leg ≠ g
    · rw [cancelPairing_none hnone, hcap, hcor, hseq]
      exact ⟨fun _ => rfl, rfl, rfl, rfl, rfl, .inl rfl⟩
    · obtain ⟨p, hp, hleg⟩ : ∃ p, v.ing.pairing = some p ∧ p.leg = g := by simpa using hnone
      rw [hp, Option.map_some] at hpair
      obtain ⟨q, hq, hqleg⟩ := Option.map_eq_some_iff.mp hpair.symm
      rw [cancelPairing_some hp hleg, if_neg (by rw [hcap]; exact h q hq (hqleg.trans hleg)), ← hcap, ← hcor, ← hseq]
      have hoff : (pairingOff g v).cap = (withdrawSnapshot g v).cap ∧ (pairingOff g v).cor = v.cor ∧ (pairingOff g v).seq = v.seq := by
        simp [pairingOff]
      rw [hoff.1, hoff.2.1, hoff.2.2]
      refine ⟨fun k => by cases k <;> rfl, rfl, rfl, rfl, rfl, ?_⟩
      by_cases hg : v.cap.waiting = some g
      · exact .inr (if_pos hg)
      · exact .inl (if_neg hg)
  exact hcancel (fileRecord g false true t.time.timebase t) (by simp) (by simp) (by simp) (fileRecord_pairing_leg ..)

theorem Aground.disableIngress (ht : Aground u h ws g t) : Aground u h ws g (disableIngress g t) := by
  obtain ⟨hhalf, hcor, hseq, hstream, hcoupler, hwaiting⟩ := disableIngress_cap (g := g) (t := t) fun _ _ _ => ht.stream
  refine ⟨?_, fun hu => hcor ▸ ht.busy hu, hseq ▸ ht.flight, by rw [hstream, hcoupler]; exact ht.stream,
    ht.outside.frame (by simp) hwaiting (by simp) (by simp)⟩
  have hcut := ht.cut
  unfold CutOff at hcut ⊢
  rwa [hhalf]

/-! ### What is in flight, or streams, until it is cut off -/

theorem Poised.inState (ht : Poised u h ws g t) : t.cap.inState .filling = some h :=
  (Capture.inState_congr (ht.halves .h0) (ht.halves .h1) _).trans ht.filling

theorem Poised.choose (ht : Poised u h ws g t) : Poised u h ws g (choose t) := by
  rw [choose_blocked (.inl (by rw [ht.inState]; nofun))]
  exact ht

/-- What is cut off from a state with the same halves is cut off. -/
theorem CutOff.of_halves {s s' t : State} (hcut : CutOff s t h) (hhalf : ∀ k, s'.cap.half k = s.cap.half k) (hcor : s'.cor = s.cor)
    (htime : s'.time = s.time) : CutOff s' t h := by
  unfold CutOff at hcut ⊢
  simp only [hhalf, hcor, htime]
  exact hcut

theorem abandon_waiting (s : State) : (abandon s).cap.waiting = s.cap.waiting := by
  cases ha : s.seq.inFlight with
  | none =>
    unfold abandon
    rw [ha]
  | some a =>
    rw [abandon_eq ha, correlatorTake, (takeHalves_stream 2 _).2.2.2]
    exact (Capture.finish_stream ..).2.2.1

/-- An acquisition of `ws` is cut off with its sweep (R62, R64). -/
theorem Poised.endSweep_flies (ht : Poised u h ws g t) {v : Sweep} (hv : t.findSweep v.id = some v) {o : SweepOutcome}
    (ho : o ≠ .done ∧ o ≠ .doneClipped) (hflies : flies t v.id = true) : Aground u h ws g (Machine.endSweep v.id o 0 0 t) := by
  obtain ⟨a, ha, hid⟩ := flies_iff.mp hflies
  rw [endSweep_eq hv ho, if_pos hflies]
  refine Aground.choose ?_
  generalize ht1 : t.setSeq { t.seq with queue := t.seq.queue.filter fun w => w.id != v.id } = t1
  have hdrop : dropSweep v.id t = Machine.abandon t1 := by rw [← ht1]; exact dropSweep_flies hflies
  have haloft : Aloft a u t1 := by
    rw [← ht1]
    exact ⟨ha, ht.halves, ht.cor, ht.time, by rw [ht.filling]; nofun⟩
  have hremoved : (post (sweepEndIn t o (t.leg v.leg).level v) (sweepRemoved v t)).cap = (Machine.abandon t1).cap ∧
      (post (sweepEndIn t o (t.leg v.leg).level v) (sweepRemoved v t)).cor = (Machine.abandon t1).cor ∧
      (post (sweepEndIn t o (t.leg v.leg).level v) (sweepRemoved v t)).seq = (Machine.abandon t1).seq := by
    rw [← hdrop]
    simp [sweepRemoved]
  obtain ⟨hcap, hcor, hseq⟩ := hremoved
  refine ⟨?_, fun hbusy => ?_, ?_, ?_, ?_⟩
  · have hcut := abandon_cutOff haloft.flight ((haloft.inState _).trans ht.filling)
    exact (hcut.of_halves (fun k => (haloft.halves k).symm) haloft.cor.symm haloft.time.symm).of_cap hcap
  · rw [hcor, haloft.abandon_cor hbusy]
    exact hbusy
  · rw [hseq, abandon_flight]
    nofun
  · rw [hcap, (abandon_stream haloft.flight).1]
    nofun
  · refine ht.outside.frame (fun w hw => ?_) (.inl ?_) (by simp [sweepRemoved]) (by simp [sweepRemoved])
    · have hw : w ∈ (sweepRemoved v t).roster.queue := hw
      rw [sweepRemoved_roster] at hw
      exact (List.mem_filter.mp hw).1
    · rw [hcap, abandon_waiting, ← ht1]
      rfl

theorem Poised.endSweep (ht : Poised u h ws g t) (id : Nat) {o : SweepOutcome} (ho : o ≠ .done ∧ o ≠ .doneClipped) :
    Poised u h ws g (Machine.endSweep id o 0 0 t) ∨ Aground u h ws g (Machine.endSweep id o 0 0 t) := by
  cases hv : t.findSweep id with
  | none =>
    have hsame : Machine.endSweep id o 0 0 t = t := by
      unfold Machine.endSweep
      rw [hv]
    exact .inl (hsame.symm ▸ ht)
  | some v =>
    obtain rfl := findSweep_id hv
    by_cases hflies : flies t v.id = true
    · exact .inr (ht.endSweep_flies hv ho hflies)
    · obtain ⟨hcap, hcor, hflight⟩ := endSweep_grounded hflies o
      exact .inl ⟨fun k => (congrArg (Capture.half · k) hcap).trans (ht.halves k), hcor.trans ht.cor, (by simpa using ht.time), ht.filling,
        hflight.trans ht.flight, by rw [hcap]; exact ht.stream, ht.outside.endSweep o (by rw [hcap])⟩

theorem Poised.disableIngress_stays (ht : Poised u h ws g t)
    (hstays : ∀ p, t.ing.pairing = some p → p.leg = g → ¬ (u.cap.stream = .snapshot ∧ u.cap.coupler = some g)) :
    Poised u h ws g (disableIngress g t) := by
  obtain ⟨hhalf, hcor, hseq, hstream, hcoupler, hwaiting⟩ := disableIngress_cap (g := g) (t := t) fun p hp hleg => by
    rw [ht.stream.1, ht.stream.2]
    exact hstays p hp hleg
  exact ⟨fun k => (hhalf k).trans (ht.halves k), hcor.trans ht.cor, (by simpa using ht.time), ht.filling, hseq ▸ ht.flight,
    ⟨hstream.trans ht.stream.1, hcoupler.trans ht.stream.2⟩, ht.outside.frame (by simp) hwaiting (by simp) (by simp)⟩

/-- A snapshot of the leg that is filling a half is cut off with its pairing (R86, R198). -/
theorem Poised.disableIngress_cuts (ht : Poised u h ws g t) {p : Pairing} (hp : t.ing.pairing = some p) (hleg : p.leg = g)
    (hsnap : u.cap.stream = .snapshot ∧ u.cap.coupler = some g) (hidle : u.seq.inFlight = none) :
    Aground u h ws g (disableIngress g t) := by
  generalize hv : fileRecord g false true t.time.timebase t = v
  have hfiled : v.cap = t.cap ∧ v.cor = t.cor ∧ v.seq = t.seq ∧ v.plan = t.plan ∧ v.legs = t.legs ∧ v.time = t.time := by
    rw [← hv]
    simp
  obtain ⟨hcap, hcor, hseq, hplan, hlegs, htime⟩ := hfiled
  have hpair := fileRecord_pairing_leg g false true t.time.timebase t
  rw [hv, hp, Option.map_some] at hpair
  obtain ⟨q, hq, hqleg⟩ := Option.map_eq_some_iff.mp hpair
  have hoff : (pairingOff g v).cap = (withdrawSnapshot g v).cap ∧ (pairingOff g v).cor = v.cor ∧ (pairingOff g v).seq = v.seq ∧
      (pairingOff g v).time = v.time ∧ (pairingOff g v).plan = v.plan ∧ (pairingOff g v).legs = v.legs := by
    simp [pairingOff]
  obtain ⟨ocap, ocor, oseq, otime, oplan, olegs⟩ := hoff
  have hhalves : ∀ k, (pairingOff g v).cap.half k = u.cap.half k := fun k => by
    rw [ocap, ← ht.halves, ← hcap]
    cases k <;> rfl
  have hfilling : (pairingOff g v).cap.inState .filling = some h :=
    (Capture.inState_congr (hhalves .h0) (hhalves .h1) _).trans ht.filling
  have hwork : Aground u h ws g (Machine.choose (stopSnapshot (pairingOff g v))) := by
    generalize pairingOff g v = y at *
    have hstopped : (stopSnapshot y).cap.stream = .none ∧ (stopSnapshot y).cap.waiting = y.cap.waiting := by
      obtain ⟨hstream, -, hwaiting, -⟩ := Capture.finish_stream y.cap y.time.clock true
      obtain ⟨htaken, -, -, htaken'⟩ := takeHalves_stream 2 (y.setCap (y.cap.finish y.time.clock true))
      exact ⟨htaken.trans hstream, htaken'.trans hwaiting⟩
    refine Aground.choose ⟨?_, fun hbusy => ?_, ?_, by rw [hstopped.1]; nofun, ?_⟩
    · exact (cutOff_taken (s := y) (t := y.setCap (y.cap.finish y.time.clock true)) hfilling rfl rfl).of_halves
        (fun k => (hhalves k).symm) ((ht.cor.symm.trans hcor.symm).trans ocor.symm) ((ht.time.symm.trans htime.symm).trans otime.symm)
    · have hybusy : y.cor.job ≠ none := by
        rw [ocor, hcor, ht.cor]
        exact hbusy
      rw [stopSnapshot, correlatorTake_busy (by exact hybusy)]
      exact hybusy
    · have hidle' : (stopSnapshot y).seq.inFlight = none := by
        rw [(stopSnapshot_frame y).2.2.2.2.2.2.2.2.1, oseq, hseq, ht.flight, hidle]
      rw [hidle']
      nofun
    · refine ht.outside.frame (fun w hw => ?_) ?_ (by simp [oplan, hplan]) (by simp [olegs, hlegs])
      · rwa [roster_of_seq (show (stopSnapshot y).seq = t.seq by simp [oseq, hseq])] at hw
      · rw [hstopped.2, ocap, ← hcap]
        by_cases hg : v.cap.waiting = some g
        · exact .inr (if_pos hg)
        · exact .inl (if_neg hg)
  have hcancel : cancelPairing g v = Machine.choose (stopSnapshot (pairingOff g v)) := by
    rw [cancelPairing_some hq (hqleg.trans hleg), if_pos (by rw [hcap, ht.stream.1, ht.stream.2]; exact hsnap)]
  rw [← hcancel] at hwork
  unfold disableIngress
  rw [hv]
  exact ⟨hwork.cut, hwork.busy, hwork.flight, hwork.stream, hwork.outside.frame (fun _ hw => hw) (.inl rfl) rfl rfl⟩

end

end Sys2Proof.Machine
end

section
/-! PROOFS. LEG_DISABLE (R46, R68, R86, R115, R188, R198). -/

namespace Sys2Proof.Machine

open Sys2Proof

/-! ### What the monitor's part leaves, and what keeps it -/

theorem abandon_lag {s : State} (h : s.prof.lag.state ≠ .capturing) : (abandon s).prof.lag = s.prof.lag := by
  cases ha : s.seq.inFlight with
  | none =>
    unfold abandon
    rw [ha]
  | some a =>
    rw [abandon_eq ha, correlatorTake, takeHalves_lag (by exact h)]
    rfl

theorem result_of_monitor {s t : State} (h : t.monitor = s.monitor) (g : LegId) : (t.ingLeg g).result = (s.ingLeg g).result := by
  have hresult : (t.ingLeg g).unmarked.result = (s.ingLeg g).unmarked.result := by rw [unmarked_of_monitor h]
  exact hresult

theorem dropSweep_lag {s : State} (h : s.prof.lag.state ≠ .capturing) (id : Nat) : (dropSweep id s).prof.lag = s.prof.lag := by
  by_cases hflies : flies s id = true
  · rw [dropSweep_flies hflies]
    exact abandon_lag h
  · rw [dropSweep_stays hflies]
    rfl

theorem endSweep_lag {s : State} (h : s.prof.lag.state ≠ .capturing) (id : Nat) (o : SweepOutcome) :
    (endSweep id o 0 0 s).prof.lag = s.prof.lag := by
  have hdrop := dropSweep_lag h id
  unfold endSweep
  split
  · rfl
  · dsimp only
    split
    · rw [choose_lag]
      exact hdrop
    · exact hdrop

theorem endSweep_allJobs {s : State} {P : Job → Prop} (h : s.div.AllJobs P) (id : Nat) {o : SweepOutcome}
    (ho : o ≠ .done ∧ o ≠ .doneClipped) : (endSweep id o 0 0 s).div.AllJobs P := by
  cases hv : s.findSweep id with
  | none =>
    unfold endSweep
    rwa [hv]
  | some v =>
    obtain rfl := findSweep_id hv
    rw [endSweep_div hv ho]
    exact h.remove _ _

theorem endSweep_waiting (id : Nat) (o : SweepOutcome) (s : State) :
    (endSweep id o 0 0 s).cap.waiting = s.cap.waiting ∨ (endSweep id o 0 0 s).cap.waiting = none := by
  have hdrop : (dropSweep id s).cap.waiting = s.cap.waiting := by
    by_cases hflies : flies s id = true
    · rw [dropSweep_flies hflies, abandon_waiting]
      rfl
    · rw [dropSweep_stays hflies]
      rfl
  have hpost : ∀ d i v r, (post r (((dropSweep id s).setDiv d).setSlot i v)).cap.waiting = s.cap.waiting := fun _ _ _ _ => hdrop
  unfold endSweep
  split
  · exact .inl rfl
  · dsimp only
    split
    · exact (choose_waiting _).imp_left fun e => e.trans (hpost _ _ _ _)
    · exact .inl hdrop

theorem disableIngress_waiting {g : LegId} {s : State} (h : s.cap.waiting ≠ some g) : (disableIngress g s).cap.waiting ≠ some g := by
  have hcancel : ∀ v : State, v.cap = s.cap → (cancelPairing g v).cap.waiting ≠ some g := fun v hv => by
    by_cases hnone : ∀ p, v.ing.pairing = some p → p.leg ≠ g
    · rw [cancelPairing_none hnone, hv]
      exact h
    · obtain ⟨p, hp, hleg⟩ : ∃ p, v.ing.pairing = some p ∧ p.leg = g := by simpa using hnone
      have hoff : (pairingOff g v).cap.waiting ≠ some g := by
        have hcap : (pairingOff g v).cap = (withdrawSnapshot g v).cap := by simp [pairingOff]
        rw [hcap]
        show (if v.cap.waiting = some g then none else v.cap.waiting) ≠ _
        split
        exacts [nofun, ‹_›]
      rw [cancelPairing_some hp hleg]
      split
      · have hstop : (stopSnapshot (pairingOff g v)).cap.waiting = (pairingOff g v).cap.waiting :=
          ((takeHalves_stream 2 ((pairingOff g v).setCap _)).2.2.2).trans (Capture.finish_stream ..).2.2.1
        rcases choose_waiting (stopSnapshot (pairingOff g v)) with e | e <;> rw [e]
        · rw [hstop]
          exact hoff
        · nofun
      · exact hoff
  exact hcancel (fileRecord g false true s.time.timebase s) (by simp)

/-- The leg's part of the monitor is torn down, but for the latched result of its last survey (R68). -/
def IngressLeg.TornDown (r : Option SurveyResult) (l : IngressLeg) : Prop :=
  l.record = none ∧ l.survey = none ∧ l.longHeld = false ∧ l.detectors = List.replicate 64 .quiet ∧
    l.readings = List.replicate 64 none ∧ l.result = r

/-- The monitor has done its part of the LEG_DISABLE that started in `x`. -/
structure Disabled (x : State) (g : LegId) (t : State) : Prop where
  leg     : (t.ingLeg g).TornDown (x.ingLeg g).result
  log     : t.ing.log = (x.books.disable g x.time.timebase (x.ingLeg g).record).log
  pairing : t.ing.pairing = (x.books.disable g x.time.timebase (x.ingLeg g).record).pairing
  settled : ∀ p, x.ing.pairing = some p → p.leg = g → t.prof.lag = ⟨.free, none, none, none⟩ ∧
    t.div.AllJobs fun j => j.owner ≠ .refinePairing g

theorem pairingOff_ingLeg {g : LegId} {s : State} {p : Pairing} (hp : s.ing.pairing = some p) (hleg : p.leg = g)
    (hrecord : (s.ingLeg g).record = none) : (pairingOff g s).ingLeg g = s.ingLeg g := by
  have hsettle : ∀ v : State, v.ing = s.ing → (settlePairing .off none none none v).ingLeg g = s.ingLeg g := fun v hv => by
    unfold settlePairing
    rw [hv, hp]
    dsimp only
    cases p.closed with
    | some r => exact rfl
    | none =>
      rw [State.setIngLeg_ingLeg, if_pos hleg.symm]
      subst hleg
      have hl : ((v.setLag .reset).setIng { s.ing with pairing := none }).ingLeg p.leg = s.ingLeg p.leg := rfl
      rw [hl, hrecord, Option.map_none, ← hrecord]
  exact hsettle _ (by simp)

theorem disableIngress_leg (g : LegId) (s : State) : ((disableIngress g s).ingLeg g).TornDown (s.ingLeg g).result := by
  have hfiled : ((fileRecord g false true s.time.timebase s).ingLeg g).record = none ∧
      ((fileRecord g false true s.time.timebase s).ingLeg g).result = (s.ingLeg g).result := by
    cases hr : (s.ingLeg g).record with
    | none =>
      rw [fileRecord_absent hr]
      exact ⟨hr, rfl⟩
    | some r =>
      rw [fileRecord_legs hr, if_pos rfl]
      exact ⟨rfl, rfl⟩
  have hcancel : ∀ v : State, (v.ingLeg g).record = none →
      ((cancelPairing g v).ingLeg g).record = none ∧ ((cancelPairing g v).ingLeg g).result = (v.ingLeg g).result := fun v hv => by
    by_cases hnone : ∀ p, v.ing.pairing = some p → p.leg ≠ g
    · rw [cancelPairing_none hnone]
      exact ⟨hv, rfl⟩
    · obtain ⟨p, hp, hleg⟩ : ∃ p, v.ing.pairing = some p ∧ p.leg = g := by simpa using hnone
      have hmonitor := (cancelPairing_after hp hleg).1
      have hsame := pairingOff_ingLeg hp hleg hv
      exact ⟨(record_of_monitor hmonitor g).trans (by rw [hsame, hv]), (result_of_monitor hmonitor g).trans (by rw [hsame])⟩
  obtain ⟨hrecord, hresult⟩ := hcancel _ hfiled.1
  unfold disableIngress
  dsimp only
  rw [State.setIngLeg_ingLeg, if_pos rfl]
  exact ⟨hrecord, rfl, rfl, rfl, rfl, hresult.trans hfiled.2⟩

section
variable {x : State} {g : LegId} {t : State}

theorem disableIngress_disabled (hmonitor : t.monitor = x.monitor) (htime : t.time = x.time) : Disabled x g (disableIngress g t) := by
  obtain ⟨hlog, -, hpairing, -⟩ := log_of_monitor hmonitor
  have hbooks : t.books = x.books := by rw [State.books, hlog, hpairing, State.books]
  obtain ⟨blog, bpairing, -⟩ := disableIngress_books (s := t) (g := g)
  rw [hbooks, htime, record_of_monitor hmonitor] at blog bpairing
  have hresult : (t.ingLeg g).result = (x.ingLeg g).result := result_of_monitor hmonitor g
  refine ⟨hresult ▸ disableIngress_leg g t, blog, bpairing, fun p hp hleg => ?_⟩
  have hpair := fileRecord_pairing_leg g false true t.time.timebase t
  rw [hpairing, hp, Option.map_some] at hpair
  obtain ⟨q, hq, hqleg⟩ := Option.map_eq_some_iff.mp hpair
  obtain ⟨-, hlag, -, hdiv⟩ := cancelPairing_after hq (hqleg.trans hleg)
  refine ⟨hlag.trans (pairingOff_settled hq).2.1, ?_⟩
  show (cancelPairing g (fileRecord g false true t.time.timebase t)).div.AllJobs _
  rw [hdiv]
  have hremoved : ∀ v : State, (pairingOff g v).div = v.div.remove v.time.clock (JobOwner.ofPairing g) := fun v => by simp [pairingOff]
  rw [hremoved]
  have hsome : ∀ j : Job, JobOwner.ofPairing g j.owner = false → j.owner ≠ .refinePairing g := fun j hj e => by
    rw [e] at hj
    simp [JobOwner.ofPairing] at hj
  exact Divider.remove_allJobs _ _ ⟨fun j _ => hsome j, fun _ _ j _ => hsome j⟩

theorem Disabled.of_monitor {u : State} (h : Disabled x g t) (hmonitor : u.monitor = t.monitor)
    (hsettled : ∀ p, x.ing.pairing = some p → p.leg = g → t.prof.lag = ⟨.free, none, none, none⟩ →
      (t.div.AllJobs fun j => j.owner ≠ .refinePairing g) → u.prof.lag = ⟨.free, none, none, none⟩ ∧
        u.div.AllJobs fun j => j.owner ≠ .refinePairing g) : Disabled x g u := by
  obtain ⟨hlog, -, hpairing, -⟩ := log_of_monitor hmonitor
  refine ⟨?_, hlog.trans h.log, hpairing.trans h.pairing, fun p hp hleg => ?_⟩
  · have hleg : (u.ingLeg g).unmarked.TornDown (x.ingLeg g).result := by
      rw [unmarked_of_monitor hmonitor]
      exact h.leg
    exact hleg
  · obtain ⟨hlag, hjobs⟩ := h.settled p hp hleg
    exact hsettled p hp hleg hlag hjobs

theorem Disabled.action (h : Disabled x g t) {ws : List Sweep} {f : State → State} (hf : DisableAction ws f) : Disabled x g (f t) := by
  rcases hf with rfl | ⟨w, -, rfl⟩
  · exact h.of_monitor (choose_monitor t) fun _ _ _ hlag hjobs => ⟨(choose_lag t).trans hlag, by simpa using hjobs⟩
  · exact h.of_monitor (endSweep_monitor ..) fun _ _ _ hlag hjobs =>
      ⟨(endSweep_lag (by rw [hlag]; exact nofun) _ _).trans hlag, endSweep_allJobs hjobs _ ⟨nofun, nofun⟩⟩

theorem DisableAction.monitor {ws : List Sweep} {f : State → State} (hf : DisableAction ws f) (t : State) :
    (f t).monitor = t.monitor ∧ (f t).time = t.time ∧ ((f t).cap.waiting = t.cap.waiting ∨ (f t).cap.waiting = none) := by
  rcases hf with rfl | ⟨w, -, rfl⟩
  · exact ⟨choose_monitor t, by simp, choose_waiting t⟩
  · exact ⟨endSweep_monitor .., by simp, endSweep_waiting ..⟩

/-- The monitor has done its part at the end of the work, and no snapshot of the leg waits. -/
theorem disableWork_disabled (hwait : x.cap.waiting ≠ some g) : (disableWork g x).time = x.time ∧
    (disableWork g x).cap.waiting ≠ some g ∧ Disabled x g (disableWork g x) := by
  have hend := disableWork_reaches (Q := fun m k t => (∀ f ∈ m, DisableAction (x.sweepsOf g) f) ∧ t.time = x.time ∧
      t.cap.waiting ≠ some g ∧ ((k = 1 ∧ t.monitor = x.monitor) ∨ (k = 0 ∧ Disabled x g t)))
    (fun m k t n h => ⟨h.1, h.2.1, h.2.2.1, h.2.2.2.imp_right fun h => ⟨h.1, h.2.of_monitor rfl fun _ _ _ hl hj => ⟨hl, hj⟩⟩⟩)
    (fun f rest k t ⟨hall, htime, hw, hphase⟩ => ?_) (fun m k t ⟨hall, htime, hw, hphase⟩ => ?_)
    (g := g) (x := x) ⟨disableActions x g, rfl, hwait, .inl ⟨rfl, rfl⟩⟩
  · obtain ⟨-, htime, hw, ⟨hk, -⟩ | ⟨-, hdis⟩⟩ := hend
    · cases hk
    · exact ⟨htime, hw, hdis⟩
  · have hf := hall f List.mem_cons_self
    obtain ⟨hmonitor, htime', hwait'⟩ := hf.monitor t
    refine ⟨fun f hf => hall f (List.mem_cons_of_mem _ hf), htime'.trans htime, ?_,
      hphase.imp (fun h => ⟨h.1, hmonitor.trans h.2⟩) fun h => ⟨h.1, h.2.action hf⟩⟩
    rcases hwait' with e | e <;> rw [e]
    · exact hw
    · nofun
  · refine ⟨hall, by simpa using htime, disableIngress_waiting hw, .inr ?_⟩
    rcases hphase with ⟨hk, hmonitor⟩ | ⟨hk, -⟩
    · exact ⟨by omega, disableIngress_disabled hmonitor htime⟩
    · omega

end

end Sys2Proof.Machine
end

section
/-! PROOFS. LEG_DISABLE: its reports, the streams it cuts off, and its answer (R46, R62, R65, R68, R198; log 7). -/

namespace Sys2Proof.Machine

open Sys2Proof

/-! ### The reports (R65, R190) -/

/-- The BURST_END reports that `t` has more than `x` are those of `bs`. -/
def BurstsTold (x : State) (bs : List BurstRecord) (t : State) : Prop :=
  ∃ rs, t.msg.reports = x.msg.reports ++ rs ∧ rs.filter (fun r => r.kind == 0x64) = bs.map .burstEnd

theorem BurstsTold.append {x t u : State} {bs cs : List BurstRecord} (h : BurstsTold x bs t) {ps : List Report}
    (hps : u.msg.reports = t.msg.reports ++ ps) (hcs : ps.filter (fun r => r.kind == 0x64) = cs.map .burstEnd) :
    BurstsTold x (bs ++ cs) u := by
  obtain ⟨rs, hrs, hbs⟩ := h
  exact ⟨rs ++ ps, by rw [hps, hrs, List.append_assoc], by rw [List.filter_append, hbs, hcs, List.map_append]⟩

theorem BurstsTold.same {x t u : State} {bs : List BurstRecord} (h : BurstsTold x bs t) (hmsg : u.msg = t.msg) : BurstsTold x bs u := by
  simpa using h.append (ps := []) (cs := []) (by rw [hmsg, List.append_nil]) rfl

theorem BurstsTold.endSweep {x t : State} {bs : List BurstRecord} (h : BurstsTold x bs t) (hhold : t.msg.hold = true)
    (hroom : t.reportsDue + 1 ≤ 32) (id : Nat) (o : SweepOutcome) : BurstsTold x bs (endSweep id o 0 0 t) := by
  cases hv : t.findSweep id with
  | none =>
    have hsame : Machine.endSweep id o 0 0 t = t := by
      unfold Machine.endSweep
      rw [hv]
    rwa [hsame]
  | some v =>
    have hlength := reports_length_le t
    have hmsg := endSweep_report hv (findSweep_id hv) o
    rw [Message.post_room hhold (by omega)] at hmsg
    simpa using h.append (ps := [sweepEndIn t o (t.leg v.leg).level v]) (cs := []) (congrArg Message.reports hmsg) rfl

/-- The front action of the sequencer is one of its last, or ends a sweep, with room for its report. -/
theorem Winding.head {x t : State} {o : SweepOutcome} {ws : List Sweep} {roomy : Prop} {f : State → State} {m : List (State → State)}
    {k : Nat} (h : Winding x o ws roomy (f :: m) k t) : SequencerAction f ∨
      ∃ w : Sweep, f = endSweep w.id o 0 0 ∧ (roomy → t.msg.hold = true ∧ t.reportsDue + 1 ≤ 32) := by
  obtain ⟨done, todo, last, -, hm, hlast, -, htold⟩ := h
  cases todo with
  | nil =>
    have hm : f :: m = last := hm
    exact .inl (hlast f (hm ▸ List.mem_cons_self))
  | cons w rest =>
    obtain ⟨rfl, -⟩ := List.cons.inj hm
    refine .inr ⟨w, rfl, fun hr => ?_⟩
    obtain ⟨htold, hroom⟩ := htold hr
    rw [List.length_cons] at hroom
    exact ⟨htold.held, by omega⟩

theorem SequencerAction.monitor {f : State → State} (hf : SequencerAction f) (t : State) : (f t).monitor = t.monitor := by
  rcases hf with rfl | rfl
  · exact monitor_of_ing (by simp)
  · exact choose_monitor t

section
variable {x : State} {g : LegId} (hq : QueueInv x) (hoff : (x.leg g).state = .off)
include hq hoff

theorem sweepsOf_wound : Wound x [] (x.sweepsOf g) x := by
  refine ⟨rfl, rfl, rfl, nofun, fun w hw => ?_⟩
  obtain ⟨hmem, hleg⟩ := List.mem_filter.mp hw
  exact hq.waits hmem (.inr (by rw [beq_iff_eq.mp hleg, hoff]; exact nofun))

/-- The sweeps of the leg end in queue order, and the monitor's reports come between (R65, R68; log 7). -/
theorem disableWork_ends (hhold : x.msg.hold = true) : Wound x (x.sweepsOf g) [] (disableWork g x) ∧
    (x.msg.reports.length + 6 ≤ 32 → Told x .legOff (x.sweepsOf g) (disableWork g x) ∧
      BurstsTold x (x.books.disable g x.time.timebase (x.ingLeg g).record).posted (disableWork g x)) := by
  have ho : SweepOutcome.legOff ≠ .done ∧ SweepOutcome.legOff ≠ .doneClipped := ⟨nofun, nofun⟩
  have hstart : x.msg.reports.length + 6 ≤ 32 → Told x .legOff [] x ∧ x.reportsDue + (x.sweepsOf g).length + 1 ≤ 32 := fun hroom => by
    have hdue := reportsDue_le x
    have hsweeps : (x.sweepsOf g).length ≤ 4 := (List.length_filter_le ..).trans hq.sweeps
    exact ⟨.start hhold _, by omega⟩
  have hend := disableWork_reaches (g := g) (x := x) (Q := fun m k t =>
      Winding x .legOff (x.sweepsOf g) (x.msg.reports.length + 6 ≤ 32) m k t ∧
      ((k = 1 ∧ t.monitor = x.monitor ∧ (x.msg.reports.length + 6 ≤ 32 → BurstsTold x [] t)) ∨ (k = 0 ∧
        (x.msg.reports.length + 6 ≤ 32 → BurstsTold x (x.books.disable g x.time.timebase (x.ingLeg g).record).posted t))))
    (fun m k t n h => ⟨h.1.draws, h.2⟩) (fun f rest k t ⟨hwind, hphase⟩ => ⟨hwind.main (hq.apart _) ho, ?_⟩)
    (fun m k t ⟨hwind, hphase⟩ => ⟨hwind.side ⟨g, .inr rfl⟩, .inr ?_⟩)
    ⟨⟨[], _, _, rfl, rfl, fun f hf => .inr (List.mem_singleton.mp hf), sweepsOf_wound hq hoff, hstart⟩,
      .inl ⟨rfl, rfl, fun _ => ⟨[], (List.append_nil _).symm, rfl⟩⟩⟩
  · obtain ⟨⟨done, todo, last, hsplit, hm, -, hwound, htold⟩, ⟨hk, -⟩ | ⟨-, hbursts⟩⟩ := hend
    · cases hk
    · cases todo with
      | nil =>
        rw [List.append_nil] at hsplit
        rw [hsplit]
        exact ⟨hwound, fun hroom => ⟨(htold hroom).1, hbursts hroom⟩⟩
      | cons w ws => cases hm
  · have hkept : (f t).monitor = t.monitor ∧ ∀ bs, x.msg.reports.length + 6 ≤ 32 → BurstsTold x bs t → BurstsTold x bs (f t) := by
      rcases hwind.head with hf | ⟨w, rfl, hroomy⟩
      · exact ⟨hf.monitor t, fun bs _ h => h.same (hf.same t).1⟩
      · exact ⟨endSweep_monitor .., fun bs hroom h => h.endSweep (hroomy hroom).1 (hroomy hroom).2 _ _⟩
    exact hphase.imp (fun h => ⟨h.1, hkept.1.trans h.2.1, fun hr => hkept.2 _ hr (h.2.2 hr)⟩) fun h => ⟨h.1, fun hr => hkept.2 _ hr (h.2 hr)⟩
  · obtain ⟨done, todo, last, -, -, -, hwound, htold⟩ := hwind
    rcases hphase with ⟨hk, hmonitor, hbursts⟩ | ⟨hk, -⟩
    · refine ⟨by omega, fun hroom => ?_⟩
      obtain ⟨htold, hcount⟩ := htold hroom
      obtain ⟨-, -, hposted⟩ := disableIngress_books (s := t) (g := g)
      obtain ⟨hlog, -, hpairing, -⟩ := log_of_monitor hmonitor
      have hbooks : t.books = x.books := by rw [State.books, hlog, hpairing, State.books]
      rw [hbooks, hwound.time, record_of_monitor hmonitor] at hposted
      refine (hbursts hroom).append (hposted htold.held (by omega)) (List.filter_eq_self.mpr fun r hr => ?_)
      obtain ⟨b, -, rfl⟩ := List.mem_map.mp hr
      rfl
    · omega

/-! ### The streams that are cut off (R62, R85, R86) -/

theorem sweepsOf_outside (hwait : x.cap.waiting ≠ some g) : Outside (x.sweepsOf g) g x := by
  refine ⟨fun v hv w hw hid => ?_, hwait, .inr (by rw [hoff]; exact nofun)⟩
  obtain ⟨hmem, hleg⟩ := List.mem_filter.mp hw
  rw [← beq_iff_eq.mp hleg]
  exact (hq.waits hmem (.inr (by rw [beq_iff_eq.mp hleg, hoff]; exact nofun))).leg v hv hid

end

section
variable {x u : State} {g : LegId} {h : HalfId} (hx : Poised u h (x.sweepsOf g) g x)
include hx

/-- An acquisition of the leg's sweeps is cut off with its sweep. -/
theorem disableWork_cuts (hstream : u.cap.stream = .acquisition) {a : InFlight} (ha : u.seq.inFlight = some a)
    (hgone : ∀ b, (disableWork g x).seq.inFlight = some b → b.sweepId ≠ a.sweepId) : CutOff u (disableWork g x) h := by
  have hend := disableWork_reaches (Q := fun m _ t => (∀ f ∈ m, DisableAction (x.sweepsOf g) f) ∧
      (Poised u h (x.sweepsOf g) g t ∨ Aground u h (x.sweepsOf g) g t))
    (fun m k t n h => ⟨h.1, h.2.imp (fun h => ⟨h.halves, h.cor, h.time, h.filling, h.flight, h.stream, h.outside.frame (fun _ hw => hw) (.inl rfl) rfl rfl⟩)
      fun h => ⟨h.cut, h.busy, h.flight, h.stream, h.outside.frame (fun _ hw => hw) (.inl rfl) rfl rfl⟩⟩)
    (fun f rest k t ⟨hall, hphase⟩ => ⟨fun f hf => hall f (List.mem_cons_of_mem _ hf), ?_⟩)
    (fun m k t ⟨hall, hphase⟩ => ⟨hall, hphase.imp
      (fun h => h.disableIngress_stays fun _ _ _ hs => by rw [hstream] at hs; cases hs.1) fun h => h.disableIngress⟩)
    (g := g) (x := x) ⟨disableActions x g, .inl hx⟩
  · rcases hend.2 with hpoised | haground
    · exact absurd rfl (hgone a (hpoised.flight.trans ha))
    · exact haground.cut
  · rcases hall f List.mem_cons_self with rfl | ⟨w, hw, rfl⟩
    · exact hphase.imp (fun h => h.choose) fun h => h.choose
    · rcases hphase with hpoised | haground
      · exact hpoised.endSweep w.id ⟨nofun, nofun⟩
      · exact .inr (haground.endSweep hw _)

/-- A snapshot of the leg is cut off with its pairing. -/
theorem disableWork_cuts_snapshot {p : Pairing} (hp : x.ing.pairing = some p) (hleg : p.leg = g)
    (hsnap : u.cap.stream = .snapshot ∧ u.cap.coupler = some g) (hidle : u.seq.inFlight = none) : CutOff u (disableWork g x) h := by
  have hend := disableWork_reaches (Q := fun m k t => (∀ f ∈ m, DisableAction (x.sweepsOf g) f) ∧
      ((k = 1 ∧ t.monitor = x.monitor ∧ Poised u h (x.sweepsOf g) g t) ∨ Aground u h (x.sweepsOf g) g t))
    (fun m k t n h => ⟨h.1, h.2.imp (fun h => ⟨h.1, h.2.1, h.2.2.halves, h.2.2.cor, h.2.2.time, h.2.2.filling, h.2.2.flight, h.2.2.stream,
        h.2.2.outside.frame (fun _ hw => hw) (.inl rfl) rfl rfl⟩)
      fun h => ⟨h.cut, h.busy, h.flight, h.stream, h.outside.frame (fun _ hw => hw) (.inl rfl) rfl rfl⟩⟩)
    (fun f rest k t ⟨hall, hphase⟩ => ⟨fun f hf => hall f (List.mem_cons_of_mem _ hf), ?_⟩)
    (fun m k t ⟨hall, hphase⟩ => ⟨hall, .inr ?_⟩) (g := g) (x := x) ⟨disableActions x g, .inl ⟨rfl, rfl, hx⟩⟩
  · rcases hend.2 with ⟨hk, -⟩ | haground
    · cases hk
    · exact haground.cut
  · have hf := hall f List.mem_cons_self
    have hmonitor := (hf.monitor t).1
    rcases hphase with ⟨hk, hsame, hpoised⟩ | haground
    · rcases hf with rfl | ⟨w, hw, rfl⟩
      · exact .inl ⟨hk, hmonitor.trans hsame, hpoised.choose⟩
      · exact (hpoised.endSweep w.id (o := .legOff) ⟨nofun, nofun⟩).imp_left fun h => ⟨hk, hmonitor.trans hsame, h⟩
    · rcases hf with rfl | ⟨w, hw, rfl⟩
      · exact .inr haground.choose
      · exact .inr (haground.endSweep hw _)
  · rcases hphase with ⟨-, hsame, hpoised⟩ | haground
    · exact hpoised.disableIngress_cuts ((log_of_monitor hsame).2.2.1.trans hp) hleg hsnap hidle
    · exact haground.disableIngress

end

end Sys2Proof.Machine
end

section
/-! PROOFS. LEG_DISABLE: the probe at rest, the books told out, and the obligation (R46, R68). -/

namespace Sys2Proof.Machine

open Sys2Proof

/-! ### The probe (R68, R76) -/

/-- With nothing in flight the probe is IDLE and its gate shut. -/
def ProbeRests (t : State) : Prop := t.seq.inFlight = none → t.probe.phase = .idle ∧ t.probe.gate = false

theorem ProbeRests.frame {t u : State} (h : ProbeRests t) (hflight : u.seq.inFlight = t.seq.inFlight) (hprobe : u.probe = t.probe) :
    ProbeRests u := fun hu => by
  rw [hprobe]
  exact h (hflight ▸ hu)

theorem ProbeRests.choose {t : State} (h : ProbeRests t) : ProbeRests (choose t) := fun hnone => by
  have hflight : t.seq.inFlight = none := by
    rcases choose_flight t with e | ⟨w, -, -, e⟩
    · exact e.symm.trans hnone
    · rw [e] at hnone
      cases hnone
  obtain ⟨hphase, hgate⟩ := choose_probe_still hnone
  rw [hphase, hgate]
  exact h hflight

theorem ProbeRests.endSweep {t : State} (h : ProbeRests t) (id : Nat) (o : SweepOutcome) : ProbeRests (endSweep id o 0 0 t) := by
  have hdrop : ProbeRests (dropSweep id t) := by
    by_cases hflies : flies t id = true
    · obtain ⟨a, ha, -⟩ := flies_iff.mp hflies
      rw [dropSweep_flies hflies]
      intro
      rw [abandon_probe (s := t.setSeq { t.seq with queue := t.seq.queue.filter fun w => w.id != id }) (a := a) ha]
      exact ⟨rfl, rfl⟩
    · rw [dropSweep_stays hflies]
      exact h
  have hpost : ∀ d i v r, ProbeRests (post r (((dropSweep id t).setDiv d).setSlot i v)) := fun _ _ _ _ => hdrop.frame rfl rfl
  unfold Machine.endSweep
  split
  · exact h
  · dsimp only
    split
    · exact (hpost _ _ _ _).choose
    · exact hpost _ _ _ _

theorem ProbeRests.disableIngress {t : State} (h : ProbeRests t) (g : LegId) : ProbeRests (disableIngress g t) := by
  have hcancel : ∀ v : State, ProbeRests v → ProbeRests (cancelPairing g v) := fun v hv => by
    by_cases hnone : ∀ p, v.ing.pairing = some p → p.leg ≠ g
    · rwa [cancelPairing_none hnone]
    · obtain ⟨p, hp, hleg⟩ : ∃ p, v.ing.pairing = some p ∧ p.leg = g := by simpa using hnone
      have hoff : ProbeRests (pairingOff g v) := hv.frame (by simp [pairingOff]) (by simp [pairingOff])
      rw [cancelPairing_some hp hleg]
      split
      · exact (hoff.frame (u := stopSnapshot _) (by simp) (by simp)).choose
      · exact hoff
  exact (hcancel _ (h.frame (u := fileRecord g false true t.time.timebase t) (by simp) (by simp))).frame rfl rfl

theorem disableWork_probe {g : LegId} {x : State} (h : ProbeRests x) : ProbeRests (disableWork g x) :=
  disableBlocks_keeps (P := ProbeRests) (fun _ _ h => h) (fun _ id h => h.endSweep id _) (fun _ h => h.choose)
    (fun _ h => h.disableIngress g) x h

/-! ### The books, case by case (R188, R190, R198) -/

section
variable {b : Books} {g : LegId} {record : Option BurstRecord} {time : Nat} (hb : b.posted = [])
include hb

theorem Books.disable_apart (h : ∀ p, b.pairing = some p → p.leg ≠ g ∧ ∀ r, record = some r → p.serial ≠ r.serial) :
    (b.disable g time record).posted = (record.map (BurstRecord.shut false true time)).toList ∧
      (b.disable g time record).log = record.elim b.log (fun r => loggedWith b.log (r.shut false true time)) ∧
      (b.disable g time record).pairing = b.pairing := by
  obtain ⟨log, pairing, posted⟩ := b
  subst hb
  cases pairing with
  | none => cases record <;> exact ⟨rfl, rfl, rfl⟩
  | some p =>
    obtain ⟨hleg, hserial⟩ := h p rfl
    cases record with
    | none => simp [Books.disable, Books.file, Books.cancel, hleg]
    | some r => simp [Books.disable, Books.file, Books.cancel, BurstRecord.shut, hleg, hserial r rfl]

theorem Books.disable_own {p : Pairing} {r : BurstRecord} (hp : b.pairing = some p) (hleg : p.leg = g) (hr : record = some r)
    (hserial : p.serial = r.serial) : (b.disable g time record).posted = [(r.shut false true time).off] ∧
      (b.disable g time record).log = (loggedWith b.log (r.shut false true time)).map fun x =>
        if x.serial = p.serial then (r.shut false true time).off else x := by
  obtain ⟨log, pairing, posted⟩ := b
  subst hb hr hp
  simp [Books.disable, Books.file, Books.cancel, BurstRecord.shut, hleg, hserial]

theorem Books.disable_kept {p : Pairing} {x : BurstRecord} (hp : b.pairing = some p) (hleg : p.leg = g) (hx : p.closed = some x)
    (hother : ∀ r, record = some r → p.serial ≠ r.serial) :
    (b.disable g time record).posted = (record.map (BurstRecord.shut false true time)).toList ++ [x.off] ∧
      (b.disable g time record).log = (record.elim b.log (fun r => loggedWith b.log (r.shut false true time))).map fun y =>
        if y.serial = p.serial then x.off else y := by
  obtain ⟨log, pairing, posted⟩ := b
  subst hb hp
  cases record with
  | none => simp [Books.disable, Books.file, Books.cancel, hleg, hx]
  | some r => simp [Books.disable, Books.file, Books.cancel, BurstRecord.shut, hleg, hx, hother r rfl]

theorem Books.disable_off {p : Pairing} (hp : b.pairing = some p) (hleg : p.leg = g) : (b.disable g time record).pairing = none := by
  obtain ⟨log, pairing, posted⟩ := b
  subst hb hp
  have hcancel : ∀ (l ps : List BurstRecord) (c : Option BurstRecord),
      (Books.cancel g ⟨l, some { p with closed := c }, ps⟩).pairing = none := fun l ps c => by cases c <;> simp [Books.cancel, hleg]
  cases record with
  | none => exact hcancel _ _ p.closed
  | some r =>
    unfold Books.disable Books.file
    dsimp only [Option.map_some]
    split
    · exact hcancel _ _ _
    · exact hcancel _ _ p.closed

end

/-! ### The request (R46) -/

section
variable {p : List Byte} {g : LegId} {s : State} (hleg : legOf (field p 0 1) = some g)
include hleg

theorem serveLegDisable_off (h : (s.leg g).state = .off) : serveLegDisable p s = (s, refuse .legState) := by
  rw [serveLegDisable, hleg]
  exact if_pos h

/-- The leg is OFF with countdown 0, its waiting snapshot withdrawn (R46, R86). -/
def legOff (g : LegId) (s : State) : State := withdrawSnapshot g (s.setLeg g { s.leg g with state := .off, settle := 0 })

theorem serveLegDisable_works (h : (s.leg g).state ≠ .off) :
    serveLegDisable p s = (disableWork g (legOff g s), okReply (u8 (s.leg g).state.code)) := by
  rw [serveLegDisable, hleg]
  exact if_neg h

end

theorem exec_legDisable {n : Nat} {leg tag : Byte} {s : State} {g : LegId} (h : Ready s) (hg : leg.toNat = g.val)
    (hon : (s.leg g).state ≠ .off) : ∃ t, exec (.legDisable n tag [leg]) s = .next t ∧
      Answers (disableWork g (legOff g (s.after n).holding)) t 0x12 tag .ok (u8 (s.leg g).state.code) := by
  have hserve := serveLegDisable_works (p := [leg]) (s := (s.after n).holding) (legOf_field hg) hon
  have hslot := (PostsOnly.serveLegDisable [leg] (s.after n).holding).slot (held_of_ready (h.after n))
  rw [hserve] at hslot
  exact exec_answers (c := .legDisable n tag [leg]) (f := ⟨0x12, tag, [leg]⟩) h rfl rfl rfl hserve hslot

theorem getD_replicate_same {α : Type} (n i : Nat) (a : α) : (List.replicate n a).getD i a = a := by
  rw [List.getD_eq_getElem?_getD, List.getElem?_replicate]
  split <;> rfl

/-- The state from which the work starts, block by block. -/
theorem legOff_frame (g : LegId) (n : Nat) (s : State) {x : State} (hx : legOff g (s.after n).holding = x) :
    x.seq = s.seq ∧ x.plan = s.plan ∧ x.legs = s.legs.set g { s.leg g with state := .off, settle := 0 } ∧ x.time = (s.after n).time ∧
      x.ing = s.ing ∧ x.prof = s.prof ∧ x.msg = { s.msg with hold := true } ∧ x.div = s.div ∧ x.cor = s.cor ∧ x.win = s.win ∧
      x.arith = s.arith ∧ x.map = s.map ∧ x.stray = s.stray ∧ x.cap = { (s.after n).cap with
        waiting := if (s.after n).cap.waiting = some g then none else (s.after n).cap.waiting } := by
  subst hx
  simp [legOff, withdrawSnapshot, State.setLeg, State.holding, State.after, State.leg]

theorem disableWork_env (g : LegId) (x : State) : (disableWork g x).plan = x.plan ∧ (disableWork g x).legs = x.legs ∧
    (disableWork g x).arith = x.arith ∧ (disableWork g x).map = x.map ∧ (disableWork g x).stray = x.stray :=
  disableBlocks_keeps (P := fun t => t.plan = x.plan ∧ t.legs = x.legs ∧ t.arith = x.arith ∧ t.map = x.map ∧ t.stray = x.stray)
    (fun _ _ h => h) (fun t id h => by simpa using h) (fun t h => by simpa using h) (fun t h => by simpa using h) x ⟨rfl, rfl, rfl, rfl, rfl⟩

theorem disableWork_kept {g : LegId} {x : State} (hq : QueueInv x) :
    keptRecords (disableWork g x).seq.queue = keptRecords (x.seq.queue.filter fun w => w.leg ≠ g) := by
  have hroster := congrArg Sequencer.queue (disableWork_roster g x)
  refine (hroster.trans (hq.roster_without _)).trans (congrArg keptRecords (List.filter_congr fun w _ => ?_))
  by_cases hw : w.leg = g <;> simp [hw]

/-- Settles O22: the sequencer's ends, the monitor's part and what they cut off, in whatever order they come. -/
theorem legDisableTearsDown : Obligations.LegDisableTearsDown := by
  unfold Obligations.LegDisableTearsDown
  intro n leg tag s hready
  refine ⟨fun hnone => ?_, fun g hg => ⟨fun hoff => ?_, fun hon => ?_⟩⟩
  · refine exec_legRead hready rfl rfl ?_
    show serveLegDisable [leg] _ = _
    rw [serveLegDisable, legOf_field_none hnone]
    rfl
  · exact exec_legRead hready rfl rfl (serveLegDisable_off (s := (s.after n).holding) (legOf_field hg) hoff)
  · obtain ⟨t, ht, hans⟩ := exec_legDisable (n := n) (tag := tag) hready hg hon
    obtain ⟨-, -, htime, hwin, hplan, hlegs, hseq, hprobe, hcap, -, hprof, hdiv, harith, hmap, hstray, hing⟩ := hans.frame
    generalize hx : legOff g (s.after n).holding = x at *
    obtain ⟨xseq, xplan, xlegs, xtime, xing, xprof, xmsg, xdiv, xcor, xwin, xarith, xmap, xstray, xcap⟩ := legOff_frame g n s hx
    have xwait : x.cap.waiting ≠ some g := by
      rw [xcap]
      dsimp only
      split
      exacts [nofun, ‹_›]
    have xoff : (x.leg g).state = .off := by rw [State.leg, xlegs, Quad.get_set_same]
    obtain ⟨wtime, wwait, wdisabled⟩ := disableWork_disabled xwait
    obtain ⟨wplan, wlegs, warith, wmap, wstray⟩ := disableWork_env g x
    have hids : t.win.table.map (·.id) = s.win.table.map (·.id) := by
      have hgrants := table_map_of_grants (disableWork_grants g x) (f := fun w => w.id) fun _ => rfl
      rw [hwin, hgrants, xwin]
    have hleg : (t.ingLeg g).TornDown (s.ingLeg g).result := by
      rw [ingLeg_of_ing hing, ← ingLeg_of_ing xing]
      exact wdisabled.leg
    obtain ⟨hrecord, hsurvey, hlong, hdetectors, hreadings, hresult⟩ := hleg
    refine ⟨t, ht, hlegs.trans (wlegs.trans xlegs), hans.answered, fun w hw => disableWork_leg g x w (hseq ▸ hw), hcap ▸ wwait, hrecord,
      hsurvey, hlong, fun b => ?_, fun b => ?_, hresult, htime.trans (wtime.trans xtime), hplan.trans (wplan.trans xplan), hids,
      harith.trans (warith.trans xarith), hmap.trans (wmap.trans xmap), hstray.trans (wstray.trans xstray), fun hq => ?_⟩
    · rw [IngressLeg.detector, hdetectors, getD_replicate_same]
    · rw [hreadings, getD_replicate_same]
    · have xq : QueueInv x := by
        obtain ⟨h1, h2, h3, h4, h5, h6, h7⟩ := hq
        exact ⟨by rwa [xseq], by rwa [xseq], by rwa [xseq], by rwa [xseq], by rwa [xseq], by rwa [xdiv], by rwa [xdiv]⟩
      have xbooks : x.books = ⟨s.ing.log, s.ing.pairing, []⟩ := by rw [State.books, xing]
      have xrecord : (x.ingLeg g).record = (s.ingLeg g).record := by rw [ingLeg_of_ing xing]
      have xsweeps : x.sweepsOf g = s.seq.queue.filter fun w => w.leg = g := by
        rw [State.sweepsOf, xseq]
        exact List.filter_congr fun w _ => beq_eq_decide ..
      obtain ⟨wwound, wtold⟩ := disableWork_ends xq xoff (by rw [xmsg])
      have wlog := hing ▸ wdisabled.log
      have wpairing := hing ▸ wdisabled.pairing
      rw [xbooks, xrecord, xtime] at wlog wpairing
      have hposed : ∀ h, s.cap.inState .filling = some h → Poised (s.after n) h (x.sweepsOf g) g x := fun h hf => by
        have hcaps : (∀ k, x.cap.half k = (s.after n).cap.half k) ∧ x.cap.stream = (s.after n).cap.stream ∧
            x.cap.coupler = (s.after n).cap.coupler := by
          rw [xcap]
          exact ⟨fun k => by cases k <;> rfl, rfl, rfl⟩
        exact ⟨hcaps.1, xcor, xtime, (State.after_inState n s _).trans hf, congrArg Sequencer.inFlight xseq, hcaps.2,
          sweepsOf_outside xq xoff xwait⟩
      refine ⟨fun w hw hleg => ?_, ?_, fun a h ha hown hstream hf => ⟨?_, fun hnone => ?_⟩, fun p hp hleg => ?_,
        (Books.disable g (s.after n).time.timebase (s.ingLeg g).record ⟨s.ing.log, s.ing.pairing, []⟩).posted.map .burstEnd,
        fun hapart => ?_, fun p r hp hleg hr hserial => ?_, fun p y hp hleg hy hother => ?_, fun hroom => ?_⟩
      · have hmem : w ∈ x.sweepsOf g := by
          rw [xsweeps]
          exact List.mem_filter.mpr ⟨hw, by simpa using hleg⟩
        exact (wwound.ended w hmem).of_same hseq hprof hdiv
      · rw [hseq, disableWork_kept xq, xseq]
      · obtain ⟨w, hw, hid, hleg⟩ := hown
        have hmem : w ∈ x.sweepsOf g := by
          rw [xsweeps]
          exact List.mem_filter.mpr ⟨hw, by simpa using hleg⟩
        refine (disableWork_cuts (hposed h hf) ?_ ha ?_).of_cap hcap
        · simpa [State.after, State.passTo] using hstream
        · exact fun b hb => hid ▸ (wwound.ended w hmem).flight b hb
      · rw [hprobe]
        rw [hseq] at hnone
        exact disableWork_probe (fun hx => by rw [xseq, ha] at hx; cases hx) hnone
      · have hxp : x.ing.pairing = some p := by rw [xing, hp]
        obtain ⟨hlag, hjobs⟩ := wdisabled.settled p hxp hleg
        refine ⟨wpairing.trans (Books.disable_off rfl hp hleg), by rw [hprof, hlag], hdiv ▸ hjobs.queue, hdiv ▸ hjobs.waiting,
          fun h hstream hcoupler hf hidle => ?_⟩
        refine (disableWork_cuts_snapshot (hposed h hf) hxp hleg ?_ hidle).of_cap hcap
        constructor
        · simpa [State.after, State.passTo] using hstream
        · simpa [State.after, State.passTo] using hcoupler
      · obtain ⟨hposted, hlog, hpairing⟩ := Books.disable_apart (time := (s.after n).time.timebase) (g := g)
          (b := ⟨s.ing.log, s.ing.pairing, []⟩) rfl hapart
        refine ⟨?_, wlog.trans hlog, wpairing.trans hpairing⟩
        rw [hposted]
        cases (s.ingLeg g).record <;> rfl
      · obtain ⟨hposted, hlog⟩ := Books.disable_own (time := (s.after n).time.timebase) (b := ⟨s.ing.log, s.ing.pairing, []⟩)
          rfl hp hleg hr hserial
        refine ⟨by rw [hposted]; rfl, wlog.trans (hlog.trans ?_)⟩
        rw [hr]
        rfl
      · obtain ⟨hposted, hlog⟩ := Books.disable_kept (time := (s.after n).time.timebase) (b := ⟨s.ing.log, s.ing.pairing, []⟩)
          rfl hp hleg hy hother
        refine ⟨?_, wlog.trans hlog⟩
        rw [hposted]
        cases (s.ingLeg g).record <;> rfl
      · obtain ⟨⟨-, rs, hrs, hends, hkinds⟩, rs', hrs', hbursts⟩ := wtold (by rw [xmsg]; exact hroom)
        obtain rfl := List.append_cancel_left (hrs.symm.trans hrs')
        rw [xbooks, xrecord, xtime] at hbursts
        refine ⟨rs, hans.joined (by rw [hrs, xmsg]), ?_, hbursts, hkinds⟩
        rw [hends, xsweeps]
        refine List.map_congr_left fun w hw => ?_
        have hleg : w.leg = g := by simpa using (List.mem_filter.mp hw).2
        have hlevel : (x.leg w.leg).level = (s.leg g).level := by rw [hleg, State.leg, xlegs, Quad.get_set_same]
        rw [sweepEndIn, sweepEndIn, hlevel, State.slot, xprof, xtime]
        rfl

end Sys2Proof.Machine
end

section
/-! PROOFS. The scan of a leg: what its steps compute (R180 to R187, R193). -/

namespace Sys2Proof.Machine

open Sys2Proof

/-! ### The readings and the detectors (R180, R183) -/

/-- The reading that a bin gives at a scan, if it is read (R179, R180; log 18). -/
def readingOf (g : LegId) (held : Bool) (levels : List Int) (s : State) (b : Nat) : Option Int :=
  if s.watched g b && !(held && (s.legSettings g).inBand b) then some (max (-240) (min 240 (levels.getD b (-240)))) else none

theorem scanReadings_getD (g : LegId) (held : Bool) (levels : List Int) (s : State) {b : Nat} (hb : b < 64) :
    (scanReadings g held levels s).getD b none = readingOf g held levels s b := by
  rw [scanReadings, getD_map_bins _ _ hb]
  rfl

/-- The detector of a bin after a reading scan (R183). -/
def detectorAfter (l : IngressLeg) (reading : Option Int) (b : Nat) : Detector :=
  match reading with
  | none => l.detector b
  | some r =>
    if l.detector b = .quiet then (if l.onsetOf b ≤ r then .burst else .quiet)
    else if r < l.onsetOf b - l.settings.hysteresis then .quiet else .burst

theorem scanDetectors_getD (readings : List (Option Int)) (l : IngressLeg) {b : Nat} (hb : b < 64) :
    (scanDetectors readings l).getD b .quiet = detectorAfter l (readings.getD b none) b := by
  rw [scanDetectors, getD_map_bins _ _ hb, detectorAfter.eq_def]
  cases readings.getD b none with
  | none => rfl
  | some r => cases l.detector b <;> rfl

/-- A leg has a bin in BURST. -/
theorem anyBurst_iff {l : IngressLeg} {readings : List (Option Int)} {l0 : IngressLeg} (h : l.detectors = scanDetectors readings l0) :
    l.anyBurst = true ↔ ∃ b < 64, l.detector b = .burst := by
  have hbin : ∀ b < 64, l.detector b = detectorAfter l0 (readings.getD b none) b := fun b hb => by
    rw [IngressLeg.detector, h, scanDetectors_getD _ _ hb]
  rw [IngressLeg.anyBurst, List.any_eq_true]
  constructor
  · rintro ⟨d, hd, hburst⟩
    rw [h] at hd
    obtain ⟨b, hb, rfl⟩ := List.mem_map.mp hd
    refine ⟨b, List.mem_range.mp hb, ?_⟩
    rw [IngressLeg.detector, h, scanDetectors, getD_map_bins _ _ (List.mem_range.mp hb)]
    exact beq_iff_eq.mp hburst
  · rintro ⟨b, hb, hburst⟩
    refine ⟨l.detector b, ?_, by rw [hburst]; rfl⟩
    have hlength : b < l.detectors.length := by
      rw [h, scanDetectors, List.length_map]
      simpa [allBins] using hb
    rw [IngressLeg.detector, List.getD_eq_getElem _ _ hlength]
    exact List.getElem_mem hlength

/-! ### The peak of a scan (R185, R186) -/

/-- The reading of a bin in BURST. -/
def burstReading (readings : List (Option Int)) (l : IngressLeg) (b : Nat) : Option Int :=
  if l.detector b = .burst then readings.getD b none else none

theorem burstReading_eq_some {readings : List (Option Int)} {l : IngressLeg} {b : Nat} {x : Int} :
    burstReading readings l b = some x ↔ l.detector b = .burst ∧ readings.getD b none = some x := by
  unfold burstReading
  split <;> simp [*]

/-- Among the bins below `n`, `peak` is the highest reading in BURST, at the lowest bin among equals. -/
def IsPeak (readings : List (Option Int)) (l : IngressLeg) (n : Nat) : Option (Int × Nat) → Prop
  | none => ∀ b < n, burstReading readings l b = none
  | some (m, c) => c < n ∧ burstReading readings l c = some m ∧
    ∀ b < n, ∀ x, burstReading readings l b = some x → x < m ∨ (x = m ∧ c ≤ b)

/-- One bin of the search. -/
def peakStep (readings : List (Option Int)) (l : IngressLeg) (best : Option (Int × Nat)) (b : Nat) : Option (Int × Nat) :=
  match readings.getD b none with
  | some r =>
    if l.detector b = .burst then
      match best with
      | none => some (r, b)
      | some (m, c) => if m < r then some (r, b) else some (m, c)
    else best
  | none => best

theorem peakStep_eq (readings : List (Option Int)) (l : IngressLeg) (best : Option (Int × Nat)) (b : Nat) :
    peakStep readings l best b = match burstReading readings l b with
      | none => best
      | some r => match best with
        | none => some (r, b)
        | some (m, c) => if m < r then some (r, b) else some (m, c) := by
  unfold peakStep burstReading
  cases readings.getD b none <;> by_cases h : l.detector b = .burst <;> simp [h]

theorem IsPeak.step {readings : List (Option Int)} {l : IngressLeg} {n : Nat} {best : Option (Int × Nat)} (h : IsPeak readings l n best) :
    IsPeak readings l (n + 1) (peakStep readings l best n) := by
  rw [peakStep_eq]
  cases hn : burstReading readings l n with
  | none =>
    have hlt : ∀ b < n + 1, ∀ x, burstReading readings l b = some x → b < n := fun b hb x hx => by
      refine Nat.lt_of_le_of_ne (by omega) fun e => ?_
      rw [e, hn] at hx
      cases hx
    cases best with
    | none =>
      intro b hb
      cases hx : burstReading readings l b with
      | none => rfl
      | some x => exact absurd (h b (hlt b hb x hx)) (by rw [hx]; nofun)
    | some peak =>
      obtain ⟨hc, hm, hmax⟩ := h
      exact ⟨by omega, hm, fun b hb x hx => hmax b (hlt b hb x hx) x hx⟩
  | some r =>
    have hcases : ∀ b < n + 1, ∀ x, burstReading readings l b = some x → b < n ∨ (b = n ∧ x = r) := fun b hb x hx => by
      by_cases e : b = n
      · subst e
        rw [hn] at hx
        exact .inr ⟨rfl, (Option.some.inj hx).symm⟩
      · exact .inl (by omega)
    cases best with
    | none =>
      refine ⟨by omega, hn, fun b hb x hx => ?_⟩
      rcases hcases b hb x hx with hlt | ⟨rfl, rfl⟩
      · rw [h b hlt] at hx
        cases hx
      · exact .inr ⟨rfl, le_rfl⟩
    | some peak =>
      obtain ⟨m, c⟩ := peak
      obtain ⟨hc, hm, hmax⟩ := h
      dsimp only
      split
      · next hless =>
        refine ⟨by omega, hn, fun b hb x hx => ?_⟩
        rcases hcases b hb x hx with hlt | ⟨rfl, rfl⟩
        · rcases hmax b hlt x hx with hx | ⟨rfl, -⟩ <;> exact .inl (by omega)
        · exact .inr ⟨rfl, le_rfl⟩
      · next hless =>
        refine ⟨by omega, hm, fun b hb x hx => ?_⟩
        rcases hcases b hb x hx with hlt | ⟨rfl, rfl⟩
        · exact hmax b hlt x hx
        · rcases lt_or_eq_of_le (not_lt.mp hless) with hx | hx
          · exact .inl hx
          · exact .inr ⟨hx, by omega⟩

theorem scanPeak_isPeak (readings : List (Option Int)) (l : IngressLeg) : IsPeak readings l 64 (scanPeak readings l) := by
  have hfold : ∀ n, IsPeak readings l n ((List.range n).foldl (peakStep readings l) none) := fun n => by
    induction n with
    | zero => nofun
    | succ n ih =>
      rw [List.range_succ, List.foldl_append]
      exact ih.step
  exact hfold 64

/-! ### The survey (R193, R194) -/

theorem Survey.add_bin (readings : List (Option Int)) (x : Survey) {b : Nat} (hb : b < 64) : (x.add readings).bins.getD b ⟨0, 0, none⟩ =
    match readings.getD b none with
    | none => x.bins.getD b ⟨0, 0, none⟩
    | some r => ⟨(x.bins.getD b ⟨0, 0, none⟩).sum + r, (x.bins.getD b ⟨0, 0, none⟩).count + 1,
      some ((x.bins.getD b ⟨0, 0, none⟩).maximum.elim r fun m => max r m)⟩ := by
  rw [Survey.add, getD_map_bins _ _ hb, SurveyBin.add.eq_def]
  cases readings.getD b none with
  | none => rfl
  | some r => cases (x.bins.getD b ⟨0, 0, none⟩).maximum <;> rfl

/-- A bin has a mean and a maximum in the result when a reading was taken of it (R194). -/
theorem Survey.add_latch_bin (readings : List (Option Int)) (x : Survey) (full : Bool) (time : Nat) {b : Nat} (hb : b < 64) :
    (((x.add readings).latch full time).bins.getD b none).isSome =
      ((readings.getD b none).isSome || decide (0 < (x.bins.getD b ⟨0, 0, none⟩).count)) := by
  have hbin : ((x.add readings).latch full time).bins.getD b none =
      ((x.bins.getD b ⟨0, 0, none⟩).add (readings.getD b none)).latch := by
    rw [Survey.latch, Survey.add]
    dsimp only
    rw [List.map_map, getD_map_bins _ _ hb]
    rfl
  have hlatch : ∀ y : SurveyBin, y.latch.isSome = decide (0 < y.count) := fun y => by
    unfold SurveyBin.latch
    split
    · next h => simp [h]
    · next h => simp [Nat.pos_of_ne_zero h]
  rw [hbin, hlatch]
  cases readings.getD b none with
  | none => rfl
  | some r => simp [SurveyBin.add]

section
variable {l : IngressLeg} (time : Nat) (readings : List (Option Int))

theorem scanSurvey_none (h : l.survey = none) : scanSurvey time readings l = l := by
  unfold scanSurvey
  rw [h]

theorem scanSurvey_goes {x : Survey} (h : l.survey = some x) (hscans : x.scans + 1 < 3600000) :
    scanSurvey time readings l = { l with survey := some (x.add readings) } := by
  unfold scanSurvey
  rw [h]
  exact if_neg (Nat.not_le.mpr hscans)

theorem scanSurvey_full {x : Survey} (h : l.survey = some x) (hscans : 3600000 ≤ x.scans + 1) :
    scanSurvey time readings l = { l with survey := none, result := some ((x.add readings).latch true time) } := by
  unfold scanSurvey
  rw [h]
  exact if_pos hscans

/-- The survey's step leaves the rest of the leg's monitor. -/
theorem scanSurvey_rest : { scanSurvey time readings l with survey := l.survey, result := l.result } = l := by
  unfold scanSurvey
  split
  · rfl
  · dsimp only
    split <;> rfl

end

/-! ### The open record (R185, R186) -/

/-- A record after a further reading scan (R186). -/
theorem updateRecord_scanUpdated (readings : List (Option Int)) (l0 l : IngressLeg) (r : BurstRecord) :
    ScanUpdated l0.detector l.detector (fun b => readings.getD b none) r (updateRecord readings l0.detectors l r) := by
  have hpeak := scanPeak_isPeak readings l
  have hbins : ∀ m c, ({ r with scans := r.scans + 1, bins := allBins.filter fun b => r.bins.contains b ||
      (allBins.filter fun b => l.detector b == .burst && l0.detectors.getD b .quiet == .quiet).contains b, peakLevel := m, peakBin := c } :
        BurstRecord).bins = (List.range 64).filter fun b => decide (b ∈ r.bins ∨ (l.detector b = .burst ∧ l0.detector b = .quiet)) := by
    intro m c
    refine List.filter_congr fun b hb => Bool.eq_iff_iff.mpr ?_
    simp only [Bool.or_eq_true, List.contains_iff_mem, List.mem_filter, Bool.and_eq_true, beq_iff_eq, decide_eq_true_eq]
    exact or_congr_right ⟨fun h => h.2, fun h => ⟨hb, h⟩⟩
  unfold updateRecord
  dsimp only
  cases hscan : scanPeak readings l with
  | none =>
    rw [hscan] at hpeak
    refine ⟨rfl, hbins _ _, fun _ => ⟨rfl, rfl⟩, fun b hb hburst x hx => ?_⟩
    rw [IsPeak] at hpeak
    have hsome := hpeak b hb
    rw [burstReading_eq_some.mpr ⟨hburst, hx⟩] at hsome
    cases hsome
  | some peak =>
    obtain ⟨m, c⟩ := peak
    rw [hscan] at hpeak
    obtain ⟨hc, hm, hmax⟩ := hpeak
    obtain ⟨hcburst, hcread⟩ := burstReading_eq_some.mp hm
    dsimp only
    split
    · next hless =>
      refine ⟨rfl, hbins _ _, fun hall => ?_, fun b hb hburst x hx hrise hlow => ?_⟩
      · exact absurd (hall c hc hcburst m hcread) (not_le.mpr hless)
      · rcases hmax b hb x (burstReading_eq_some.mpr ⟨hburst, hx⟩) with h | ⟨rfl, hcb⟩
        · rcases hlow c hc hcburst m hcread with h' | ⟨rfl, -⟩ <;> omega
        · rcases hlow c hc hcburst x hcread with h' | ⟨-, hbc⟩
          · omega
          · exact ⟨rfl, Nat.le_antisymm hcb hbc⟩
    · next hless =>
      refine ⟨rfl, hbins _ _, fun _ => ⟨rfl, rfl⟩, fun b hb hburst x hx hrise _ => ?_⟩
      rcases hmax b hb x (burstReading_eq_some.mpr ⟨hburst, hx⟩) with h | ⟨rfl, -⟩ <;> omega

theorem updateRecord_kept (readings : List (Option Int)) (before : List Detector) (l : IngressLeg) (r : BurstRecord) :
    (updateRecord readings before l r).serial = r.serial ∧ (updateRecord readings before l r).leg = r.leg ∧
      (updateRecord readings before l r).startTime = r.startTime ∧ (updateRecord readings before l r).scans = r.scans + 1 := by
  unfold updateRecord
  dsimp only
  split
  · exact ⟨rfl, rfl, rfl, rfl⟩
  · split <;> exact ⟨rfl, rfl, rfl, rfl⟩

end Sys2Proof.Machine
end

section
/-! PROOFS. The scan of a leg: its record, its mark and what else of the leg stays (R185 to R187, R189; log 16). -/

namespace Sys2Proof.Machine

open Sys2Proof

/-! ### The step of a scan that updates or opens a record (R185, R186) -/

section
variable {g : LegId} {s : State} (readings : List (Option Int)) (before : List Detector)

theorem scanRecord_updates {r : BurstRecord} (h : (s.ingLeg g).record = some r) : scanRecord g readings before s =
    s.setIngLeg g { s.ingLeg g with record := some (updateRecord readings before (s.ingLeg g) r) } := by
  rw [scanRecord, h]

theorem scanRecord_opens (h : (s.ingLeg g).record = none) (hheld : (s.ingLeg g).longHeld = false) {peak : Int × Nat}
    (hpeak : scanPeak readings (s.ingLeg g) = some peak) :
    scanRecord g readings before s = openRecord g (newRecord g s.time.timebase peak (s.ingLeg g)) s := by
  rw [scanRecord, h, hpeak]
  exact if_neg (by rw [hheld]; nofun)

/-- Where no record is open, a scan leaves the state or opens one. -/
theorem scanRecord_cases (h : (s.ingLeg g).record = none) :
    scanRecord g readings before s = s ∨ ∃ r, scanRecord g readings before s = openRecord g r s := by
  rw [scanRecord, h]
  dsimp only
  split
  · split
    · exact .inl rfl
    · exact .inr ⟨_, rfl⟩
  · exact .inl rfl

end

/-! ### The step of a scan that closes a record (R187) -/

section
variable {g : LegId} {s : State}

theorem scanClose_quiet (h : (s.ingLeg g).anyBurst = false) : scanClose g s =
    (closeRecord g false false s.time.timebase s).setIngLeg g
      { (closeRecord g false false s.time.timebase s).ingLeg g with longHeld := false } := by
  rw [scanClose, h, if_neg Bool.false_ne_true, closeIfQuiet, h, if_neg Bool.false_ne_true]

theorem scanClose_long (h : (s.ingLeg g).anyBurst = true) {r : BurstRecord} (hr : (s.ingLeg g).record = some r)
    (hscans : 10000 ≤ r.scans) : scanClose g s =
    (closeRecord g true false s.time.timebase s).setIngLeg g
      { (closeRecord g true false s.time.timebase s).ingLeg g with longHeld := true } := by
  rw [scanClose, h, if_pos rfl, hr]
  exact if_pos hscans

theorem scanClose_goes (h : (s.ingLeg g).anyBurst = true) (hr : ∀ r, (s.ingLeg g).record = some r → r.scans < 10000) :
    scanClose g s = s := by
  rw [scanClose, h, if_pos rfl]
  dsimp only
  split
  · next r hrecord => exact if_neg (Nat.not_le.mpr (hr r hrecord))
  · rfl

/-- A scan leaves the state or closes a record and sets or clears the long-held mark. -/
theorem scanClose_cases (g : LegId) (s : State) : scanClose g s = s ∨ ∃ long held, scanClose g s =
    (closeRecord g long false s.time.timebase s).setIngLeg g
      { (closeRecord g long false s.time.timebase s).ingLeg g with longHeld := held } := by
  cases hburst : (s.ingLeg g).anyBurst with
  | false => exact .inr ⟨false, false, scanClose_quiet hburst⟩
  | true =>
    cases hr : (s.ingLeg g).record with
    | none => exact .inl (scanClose_goes hburst fun r hr' => by rw [hr] at hr'; cases hr')
    | some r =>
      by_cases hscans : 10000 ≤ r.scans
      · exact .inr ⟨true, true, scanClose_long hburst hr hscans⟩
      · exact .inl (scanClose_goes hburst fun r' hr' => by
          obtain rfl := Option.some.inj (hr.symm.trans hr')
          omega)

end

/-! ### What those steps leave of the leg's monitor -/

/-- A leg's part of the monitor without its record and its marks. -/
def IngressLeg.steady (l : IngressLeg) : IngressLeg := { l with record := none, longHeld := false, acquired := false }

theorem steady_of_recordless {l m : IngressLeg} (h : l.recordless = m.recordless) : l.steady = m.steady := by
  have hsteady : l.recordless.steady = m.recordless.steady := by rw [h]
  exact hsteady

theorem steady_of_unmarked {l m : IngressLeg} (h : l.unmarked = m.unmarked) : l.steady = m.steady := by
  have hsteady : l.unmarked.steady = m.unmarked.steady := by rw [h]
  exact hsteady

theorem putRecord_ingLeg (g : LegId) (r : BurstRecord) (o : PairingOutcome) (s : State) :
    (putRecord g r o s).ingLeg g = { s.ingLeg g with record := some { r with serial := s.ing.serial, outcome := o } } := by
  rw [putRecord, State.setIngLeg_ingLeg, if_pos rfl]

theorem snapshotAsked_ingLeg (g : LegId) (r : BurstRecord) (s : State) :
    (snapshotAsked g r s).ingLeg g = { s.ingLeg g with record := some { r with serial := s.ing.serial, outcome := .pending } } :=
  putRecord_ingLeg g r .pending s

theorem openRecord_steady (g : LegId) (r : BurstRecord) (s : State) : ((openRecord g r s).ingLeg g).steady = (s.ingLeg g).steady := by
  by_cases hpending : openingOutcome s g = .pending
  · rw [openRecord_pending hpending, steady_of_unmarked (unmarked_of_monitor (choose_monitor _) g), snapshotAsked_ingLeg]
    rfl
  · rw [openRecord_decided hpending, putRecord_ingLeg]
    rfl

theorem scanRecord_steady (g : LegId) (readings : List (Option Int)) (before : List Detector) (s : State) :
    ((scanRecord g readings before s).ingLeg g).steady = (s.ingLeg g).steady := by
  cases hr : (s.ingLeg g).record with
  | some r =>
    rw [scanRecord_updates readings before hr, State.setIngLeg_ingLeg, if_pos rfl]
    rfl
  | none =>
    rcases scanRecord_cases readings before hr with h | ⟨r, h⟩
    · rw [h]
    · rw [h, openRecord_steady]

theorem scanClose_steady (g : LegId) (s : State) : ((scanClose g s).ingLeg g).steady = (s.ingLeg g).steady := by
  rcases scanClose_cases g s with h | ⟨long, held, h⟩
  · rw [h]
  · rw [h, State.setIngLeg_ingLeg, if_pos rfl]
    exact (show _ = ((closeRecord g long false s.time.timebase s).ingLeg g).steady from rfl).trans
      (steady_of_recordless (closeRecord_recordless ..))

/-! ### The mark of an acquisition in progress (log 16) -/

/-- The leg bears the mark of log 16 just while an acquisition of it is in flight. -/
def Marked (g : LegId) (s : State) : Prop := (s.ingLeg g).acquired = s.seq.inFlight.elim false fun a => a.leg == g

theorem Marked.frame {g : LegId} {s t : State} (h : Marked g s) (hleg : (t.ingLeg g).acquired = (s.ingLeg g).acquired)
    (hseq : t.seq = s.seq) : Marked g t := by
  rw [Marked, hleg, hseq]
  exact h

theorem startAcquisition_inFlight (h : HalfId) (w : Sweep) (s : State) :
    ∃ a, (startAcquisition h w s).seq.inFlight = some a ∧ a.leg = w.leg :=
  ⟨_, rfl, rfl⟩

theorem startAcquisition_ingLeg_other (h : HalfId) (w : Sweep) (s : State) {g : LegId} (hg : g ≠ w.leg) :
    (startAcquisition h w s).ingLeg g = s.ingLeg g := by
  unfold startAcquisition
  dsimp only
  rw [State.setIngLeg_ingLeg, if_neg hg]
  split <;> simp [State.ingLeg]

theorem Marked.choose {g : LegId} {s : State} (h : Marked g s) : Marked g (Machine.choose s) := by
  rcases choose_cases s with hsame | ⟨half, i, -, hsnap⟩ | ⟨half, w, hnone, -, -, -, hstart⟩
  · rwa [hsame]
  · rw [hsnap]
    exact h.frame rfl (by simp)
  · rw [Marked, hnone] at h
    obtain ⟨a, ha, hleg⟩ := startAcquisition_inFlight half w s
    rw [hstart, Marked, ha]
    by_cases hg : g = w.leg
    · rw [hg, startAcquisition_ingLeg]
      exact (beq_iff_eq.mpr hleg).symm
    · rw [startAcquisition_ingLeg_other half w s hg, h]
      exact (beq_eq_false_iff_ne.mpr fun e => hg (e.symm.trans hleg)).symm

theorem Marked.openRecord {g : LegId} {s : State} (h : Marked g s) (r : BurstRecord) : Marked g (Machine.openRecord g r s) := by
  by_cases hpending : openingOutcome s g = .pending
  · rw [openRecord_pending hpending]
    exact (h.frame (by rw [snapshotAsked_ingLeg]) (by simp)).choose
  · rw [openRecord_decided hpending]
    exact h.frame (by rw [putRecord_ingLeg]) (by simp)

theorem Marked.scanRecord {g : LegId} {s : State} (h : Marked g s) (readings : List (Option Int)) (before : List Detector) :
    Marked g (Machine.scanRecord g readings before s) := by
  cases hr : (s.ingLeg g).record with
  | some r =>
    rw [scanRecord_updates readings before hr]
    exact h.frame (by rw [State.setIngLeg_ingLeg, if_pos rfl]) rfl
  | none =>
    rcases scanRecord_cases readings before hr with hsame | ⟨r, hopen⟩
    · rwa [hsame]
    · rw [hopen]
      exact h.openRecord r

theorem Marked.scanClose {g : LegId} {s : State} (h : Marked g s) : Marked g (Machine.scanClose g s) := by
  refine h.frame ?_ (by simp)
  rcases scanClose_cases g s with hsame | ⟨long, held, hclose⟩
  · rw [hsame]
  · have hmark : ((closeRecord g long false s.time.timebase s).ingLeg g).recordless.acquired = (s.ingLeg g).recordless.acquired := by
      rw [closeRecord_recordless]
    rw [hclose, State.setIngLeg_ingLeg, if_pos rfl]
    exact hmark

/-! ### The close of a record, told of the log (R86, R187, R189, R190) -/

theorem closeRecord_intoLog {g : LegId} {s : State} {r : BurstRecord} (hr : (s.ingLeg g).record = some r) (long cut : Bool)
    (time : Nat) : ClosedIntoLog s (closeRecord g long cut time s) g (r.shut long cut time) := by
  have htime : (closeRecord g long cut time s).time = s.time := by simp
  refine ⟨fun hp => ?_, fun p hp hserial => ⟨fun hwait => ?_, fun hwait hleg hclosed => ?_⟩⟩
  · obtain ⟨hlog, hpairing, -, -, hmsg⟩ := closeRecord_unpaired hr long cut time hp
    rw [htime]
    exact ⟨hlog, hpairing, hmsg⟩
  · obtain ⟨hlog, hpairing, -, -, hmsg⟩ := closeRecord_paired hr long cut time hp hserial hwait
    exact ⟨hlog, hpairing, hmsg⟩
  · obtain ⟨hlog, hpairing, hcap, -, hmsg⟩ := closeRecord_withdrawn hr long cut time hp hserial hwait hleg hclosed
    rw [htime, hcap]
    exact ⟨hlog, hpairing, rfl, hmsg⟩

theorem ClosedIntoLog.congr {s s' t t' : State} {g : LegId} {r : BurstRecord} (h : ClosedIntoLog s t g r)
    (hslog : s'.ing.log = s.ing.log) (hspairing : s'.ing.pairing = s.ing.pairing) (hsmsg : s'.msg = s.msg) (hscap : s'.cap.waiting = s.cap.waiting)
    (htlog : t'.ing.log = t.ing.log) (htpairing : t'.ing.pairing = t.ing.pairing) (htmsg : t'.msg = t.msg)
    (htcap : t'.cap.waiting = t.cap.waiting)
    (httime : t'.time = t.time) : ClosedIntoLog s' t' g r := by
  unfold ClosedIntoLog at h ⊢
  rwa [hslog, hspairing, hsmsg, hscap, htlog, htpairing, htmsg, htcap, httime]

/-- What the end of a pairing leaves of a record. -/
theorem withdrawAtClose_keeps {g : LegId} {s : State} {r : BurstRecord} (hr : (s.ingLeg g).record = some r) :
    ∃ r', ((withdrawAtClose g s).ingLeg g).record = some r' ∧ r'.serial = r.serial ∧ r'.leg = r.leg ∧ r'.startTime = r.startTime ∧
      r'.scans = r.scans := by
  cases hwaits : pairingOf s r && s.cap.waiting.isSome with
  | false =>
    refine ⟨r, ?_, rfl, rfl, rfl, rfl⟩
    rw [withdrawAtClose, hr]
    dsimp only
    rw [hwaits]
    exact hr
  | true =>
    obtain ⟨hpaired, hwait⟩ := Bool.and_eq_true_iff.mp hwaits
    obtain ⟨p, hp⟩ : ∃ p, s.ing.pairing = some p := by
      refine Option.ne_none_iff_exists'.mp fun hnone => ?_
      rw [pairingOf, hnone] at hpaired
      cases hpaired
    have hrecord := settlePairing_record (s := s.setCap { s.cap with waiting := none }) hp .captureBusy none none none g
    rw [show ((s.setCap { s.cap with waiting := none }).ingLeg g).record = some r from hr] at hrecord
    rw [withdrawAtClose_withdraws hr hpaired (Option.isSome_iff_ne_none.mp hwait), hrecord]
    split
    · rw [Option.map_some]
      split <;> exact ⟨_, rfl, rfl, rfl, rfl, rfl⟩
    · exact ⟨r, rfl, rfl, rfl, rfl, rfl⟩

/-- A record that closes is the newest of the log. -/
theorem closeRecord_newest {g : LegId} {s : State} {r : BurstRecord} (hr : (s.ingLeg g).record = some r) (long cut : Bool)
    (time : Nat) : ∃ r', (closeRecord g long cut time s).ing.log.getLast? = some r' ∧ r'.serial = r.serial ∧ r'.leg = r.leg ∧
      r'.startTime = r.startTime ∧ r'.scans = r.scans ∧ r'.long = long ∧ r'.cut = cut ∧ r'.endTime = some time := by
  obtain ⟨r', hr', hserial, hleg, hstart, hscans⟩ := withdrawAtClose_keeps hr
  obtain ⟨older, hlog⟩ := loggedWith_last (withdrawAtClose g s).ing.log (r'.shut long cut time)
  refine ⟨r'.shut long cut time, ?_, hserial, hleg, hstart, hscans, rfl, rfl, rfl⟩
  rw [closeRecord, (fileRecord_log hr' long cut time).1, hlog, List.getLast?_append_of_ne_nil _ (List.cons_ne_nil _ _)]
  rfl

end Sys2Proof.Machine
end

section
/-! PROOFS. The scan of a leg: the record, and the obligation on scans (R180 to R187, R193 to R195). -/

namespace Sys2Proof.Machine

open Sys2Proof

/-! ### The third and fourth step of a reading scan (R185 to R187) -/

/-- A record is updated, opened or closed by a reading scan (R185 to R187). -/
def recordsScanned (g : LegId) (readings : List (Option Int)) (before : List Detector) (s : State) : State :=
  scanClose g (scanRecord g readings before s)

section
variable {g : LegId} {s : State} (readings : List (Option Int)) (before : List Detector)

theorem recordsScanned_steady : ((recordsScanned g readings before s).ingLeg g).steady = (s.ingLeg g).steady :=
  (scanClose_steady ..).trans (scanRecord_steady ..)

theorem scanRecord_anyBurst : ((scanRecord g readings before s).ingLeg g).anyBurst = (s.ingLeg g).anyBurst := by
  have hsame : ((scanRecord g readings before s).ingLeg g).steady.anyBurst = (s.ingLeg g).steady.anyBurst := by
    rw [scanRecord_steady]
  exact hsame

/-- A record that a scan closes has taken the scan, and goes to the log (R186, R187). -/
theorem closed_intoLog {r : BurstRecord} (hr : (s.ingLeg g).record = some r) (long held : Bool)
    (hclose : recordsScanned g readings before s =
      (closeRecord g long false s.time.timebase (scanRecord g readings before s)).setIngLeg g
        { (closeRecord g long false s.time.timebase (scanRecord g readings before s)).ingLeg g with longHeld := held }) :
    ClosedIntoLog s (recordsScanned g readings before s) g
      ((updateRecord readings before (s.ingLeg g) r).shut long false s.time.timebase) := by
  have hupdated := scanRecord_updates readings before hr
  have hrecord : ((scanRecord g readings before s).ingLeg g).record = some (updateRecord readings before (s.ingLeg g) r) := by
    rw [hupdated, State.setIngLeg_ingLeg, if_pos rfl]
  have hclosed := closeRecord_intoLog hrecord long false s.time.timebase
  rw [hclose]
  refine hclosed.congr ?_ ?_ ?_ ?_ rfl rfl rfl rfl rfl <;> rw [hupdated] <;> rfl

/-- With no bin in BURST an open record closes, and the long-held mark is cleared (R187). -/
theorem recordsScanned_quiet (hquiet : (s.ingLeg g).anyBurst = false) :
    ((recordsScanned g readings before s).ingLeg g).record = none ∧
      ((recordsScanned g readings before s).ingLeg g).longHeld = false ∧
      ∀ r, (s.ingLeg g).record = some r → ClosedIntoLog s (recordsScanned g readings before s) g
        ((updateRecord readings before (s.ingLeg g) r).shut false false s.time.timebase) := by
  have hclose := scanClose_quiet ((scanRecord_anyBurst readings before).trans hquiet)
  rw [(scanRecord_frame g readings before s).2.2.2.1] at hclose
  have hnone : ((recordsScanned g readings before s).ingLeg g).record = none := by
    rw [recordsScanned, hclose, State.setIngLeg_ingLeg, if_pos rfl]
    cases hr : ((scanRecord g readings before s).ingLeg g).record with
    | none => exact closeRecord_none hr g false false s.time.timebase
    | some r => exact (closeRecord_closed hr false false s.time.timebase).1
  refine ⟨hnone, ?_, fun r hr => closed_intoLog readings before hr false false hclose⟩
  rw [recordsScanned, hclose, State.setIngLeg_ingLeg, if_pos rfl]

/-- With a bin in BURST an open record goes on below its long limit (R186). -/
theorem recordsScanned_goes (hburst : (s.ingLeg g).anyBurst = true) {r : BurstRecord} (hr : (s.ingLeg g).record = some r)
    (hscans : r.scans + 1 < 10000) : recordsScanned g readings before s =
      s.setIngLeg g { s.ingLeg g with record := some (updateRecord readings before (s.ingLeg g) r) } := by
  have hupdated := scanRecord_updates readings before hr
  obtain ⟨-, -, -, hcount⟩ := updateRecord_kept readings before (s.ingLeg g) r
  rw [recordsScanned, scanClose_goes ((scanRecord_anyBurst readings before).trans hburst), hupdated]
  intro r' hr'
  rw [hupdated, State.setIngLeg_ingLeg, if_pos rfl] at hr'
  obtain rfl := Option.some.inj hr'
  omega

/-- At its long limit an open record closes with LONG, and the long-held mark is set (R187). -/
theorem recordsScanned_long (hburst : (s.ingLeg g).anyBurst = true) {r : BurstRecord} (hr : (s.ingLeg g).record = some r)
    (hscans : 10000 ≤ r.scans + 1) :
    ((recordsScanned g readings before s).ingLeg g).record = none ∧
      ((recordsScanned g readings before s).ingLeg g).longHeld = true ∧
      (∃ r', (recordsScanned g readings before s).ing.log.getLast? = some r' ∧ r'.serial = r.serial ∧ r'.leg = r.leg ∧
        r'.startTime = r.startTime ∧ r'.scans = r.scans + 1 ∧ r'.long = true ∧ r'.cut = false ∧
        r'.endTime = some s.time.timebase) ∧
      ClosedIntoLog s (recordsScanned g readings before s) g
        ((updateRecord readings before (s.ingLeg g) r).shut true false s.time.timebase) := by
  have hrecord : ((scanRecord g readings before s).ingLeg g).record = some (updateRecord readings before (s.ingLeg g) r) := by
    rw [scanRecord_updates readings before hr, State.setIngLeg_ingLeg, if_pos rfl]
  obtain ⟨hserial, hleg, hstart, hcount⟩ := updateRecord_kept readings before (s.ingLeg g) r
  have hclose := scanClose_long ((scanRecord_anyBurst readings before).trans hburst) hrecord (by omega)
  rw [(scanRecord_frame g readings before s).2.2.2.1] at hclose
  have hnewest := closeRecord_newest hrecord true false s.time.timebase
  rw [hserial, hleg, hstart, hcount] at hnewest
  refine ⟨?_, ?_, ?_, closed_intoLog readings before hr true true hclose⟩
  · rw [recordsScanned, hclose, State.setIngLeg_ingLeg, if_pos rfl]
    exact (closeRecord_closed hrecord true false s.time.timebase).1
  · rw [recordsScanned, hclose, State.setIngLeg_ingLeg, if_pos rfl]
  · rw [recordsScanned, hclose]
    exact hnewest

/-- Where none is open or held, a bin that is read in BURST opens a record (R185, R195). -/
theorem recordsScanned_opens (hburst : (s.ingLeg g).anyBurst = true) (hr : (s.ingLeg g).record = none)
    (hheld : (s.ingLeg g).longHeld = false) {peak : Int × Nat} (hpeak : scanPeak readings (s.ingLeg g) = some peak) :
    ((recordsScanned g readings before s).ingLeg g).record = some { newRecord g s.time.timebase peak (s.ingLeg g) with
      serial := s.ing.serial, outcome := openingOutcome s g } := by
  have hopens := scanRecord_opens readings before hr hheld hpeak
  have hrecord : ((scanRecord g readings before s).ingLeg g).record = some { newRecord g s.time.timebase peak (s.ingLeg g) with
      serial := s.ing.serial, outcome := openingOutcome s g } := by
    rw [hopens]
    exact (openRecord_record g _ s).1
  rw [recordsScanned, scanClose_goes ((scanRecord_anyBurst readings before).trans hburst) fun r' hr' => by
    obtain rfl := Option.some.inj (hrecord.symm.trans hr')
    exact Nat.lt_of_sub_eq_succ rfl]
  exact hrecord

end

/-! ### What is read at a scan -/

/-- The readings of a reading scan taken at its instant. -/
def readingsTaken (g : LegId) (levels : List Int) (s : State) : List (Option Int) :=
  scanReadings g ((s.ingLeg g).acquired || acquiringOn s g) levels (scanDue g s)

/-- The leg's part of the monitor after the first two steps of a reading scan (R183, R193). -/
def legRead (g : LegId) (levels : List Int) (s : State) : IngressLeg :=
  let l := (scanDue g s).ingLeg g
  let readings := readingsTaken g levels s
  scanSurvey (scanDue g s).time.timebase readings { l with detectors := scanDetectors readings l, readings := readings }

/-- A reading scan at its instant, in its four steps (R180). -/
def scanRead (g : LegId) (levels : List Int) (s : State) : State :=
  recordsScanned g (readingsTaken g levels s) ((scanDue g s).ingLeg g).detectors ((scanDue g s).setIngLeg g (legRead g levels s))

section
variable (g : LegId) (levels : List Int) (s : State)

theorem exec_ingressScan {s : State} (hs : s.inReset = false) : exec (.ingressScan g levels) s = .next (scanned g levels s) := by
  show execIngressScan g levels s = _
  rw [execIngressScan, State.live, hs]
  rfl

theorem scanned_reads {s : State} (hon : (s.leg g).state ≠ .off) (hsettle : (s.leg g).settle = 0) :
    scanned g levels s = scanRead g levels s := by
  unfold scanned
  dsimp only
  rw [if_neg hon, if_neg (by omega)]
  rfl

theorem scanDue_ingLeg : (scanDue g s).ingLeg g =
    { s.ingLeg g with nextScan := (s.ingLeg g).nextScan + 200000, acquired := acquiringOn s g } := by
  unfold scanDue
  dsimp only
  rw [State.setIngLeg_ingLeg, if_pos rfl]

theorem scanDue_time : (scanDue g s).time = (s.atClock (s.ingLeg g).nextScan).time := rfl

theorem readingsTaken_getD {b : Nat} (hb : b < 64) : (readingsTaken g levels s).getD b none =
    readingOf g ((s.ingLeg g).acquired || acquiringOn s g) levels s b := by
  have hwatched : (scanDue g s).watched g b = s.watched g b :=
    watched_of_grants (by simp [scanDue]) (grants_of_win (by simp [scanDue])) g b
  have hsettings : (scanDue g s).legSettings g = s.legSettings g := legSettings_congr (by simp [scanDue]) g
  rw [readingsTaken, scanReadings_getD _ _ _ _ hb, readingOf, hwatched, hsettings, readingOf]

theorem legRead_rest : { legRead g levels s with survey := (s.ingLeg g).survey, result := (s.ingLeg g).result } =
    { (scanDue g s).ingLeg g with
      detectors := scanDetectors (readingsTaken g levels s) (s.ingLeg g), readings := readingsTaken g levels s } := by
  have hdetectors : scanDetectors (readingsTaken g levels s) ((scanDue g s).ingLeg g) =
      scanDetectors (readingsTaken g levels s) (s.ingLeg g) := by
    rw [scanDue_ingLeg]
    rfl
  have hrest := scanSurvey_rest (l := { (scanDue g s).ingLeg g with
    detectors := scanDetectors (readingsTaken g levels s) ((scanDue g s).ingLeg g), readings := readingsTaken g levels s })
    (scanDue g s).time.timebase (readingsTaken g levels s)
  rw [hdetectors, scanDue_ingLeg] at hrest
  rw [legRead, hdetectors, scanDue_ingLeg]
  exact hrest

end

end Sys2Proof.Machine
end

section
/-! PROOFS. The obligation on scans (R180 to R187, R193 to R195). -/

namespace Sys2Proof.Machine

open Sys2Proof

/-! ### The leg after a reading scan -/

section
variable (g : LegId) (levels : List Int) (s : State)

/-- The leg as a reading scan reads it, before its survey takes the readings. -/
def legJudged : IngressLeg :=
  { (scanDue g s).ingLeg g with
    detectors := scanDetectors (readingsTaken g levels s) (s.ingLeg g), readings := readingsTaken g levels s }

theorem legRead_eq : legRead g levels s =
    scanSurvey (s.atClock (s.ingLeg g).nextScan).time.timebase (readingsTaken g levels s) (legJudged g levels s) := by
  unfold legRead legJudged
  rw [scanDue_ingLeg, scanDue_time]
  rfl

theorem legJudged_survey : (legJudged g levels s).survey = (s.ingLeg g).survey := by
  rw [legJudged, scanDue_ingLeg]

/-- What a reading scan leaves of the leg, and what it reads (R180, R183; log 16). -/
theorem legRead_fields : (legRead g levels s).readings = readingsTaken g levels s ∧
    (legRead g levels s).detectors = scanDetectors (readingsTaken g levels s) (s.ingLeg g) ∧
    (legRead g levels s).record = (s.ingLeg g).record ∧ (legRead g levels s).longHeld = (s.ingLeg g).longHeld ∧
    (legRead g levels s).settings = (s.ingLeg g).settings ∧ (legRead g levels s).nextScan = (s.ingLeg g).nextScan + 200000 ∧
    (legRead g levels s).acquired = acquiringOn s g := by
  have hrest := legRead_rest g levels s
  rw [scanDue_ingLeg, IngressLeg.mk.injEq] at hrest
  obtain ⟨hsettings, hdetectors, hreadings, hrecord, hheld, -, -, hacquired, hnext⟩ := hrest
  exact ⟨hreadings, hdetectors, hrecord, hheld, hsettings, hnext, hacquired⟩

theorem scanRead_steady : ((scanRead g levels s).ingLeg g).steady = (legRead g levels s).steady := by
  rw [scanRead, recordsScanned_steady, State.setIngLeg_ingLeg, if_pos rfl]

theorem scanRead_fields : ((scanRead g levels s).ingLeg g).readings = readingsTaken g levels s ∧
    ((scanRead g levels s).ingLeg g).detectors = scanDetectors (readingsTaken g levels s) (s.ingLeg g) ∧
    ((scanRead g levels s).ingLeg g).settings = (s.ingLeg g).settings ∧
    ((scanRead g levels s).ingLeg g).nextScan = (s.ingLeg g).nextScan + 200000 ∧
    ((scanRead g levels s).ingLeg g).survey = (legRead g levels s).survey ∧
    ((scanRead g levels s).ingLeg g).result = (legRead g levels s).result := by
  obtain ⟨hreadings, hdetectors, -, -, hsettings, hnext, -⟩ := legRead_fields g levels s
  have hsteady := scanRead_steady g levels s
  rw [IngressLeg.steady, IngressLeg.steady, IngressLeg.mk.injEq, hsettings, hdetectors, hreadings, hnext] at hsteady
  obtain ⟨hsettings, hdetectors, hreadings, -, -, hsurvey, hresult, -, hnext⟩ := hsteady
  exact ⟨hreadings, hdetectors, hsettings, hnext, hsurvey, hresult⟩

theorem scanRead_marked : Marked g (scanRead g levels s) := by
  refine Marked.scanClose (Marked.scanRecord ?_ _ _)
  rw [Marked, State.setIngLeg_ingLeg, if_pos rfl, (legRead_fields g levels s).2.2.2.2.2.2, acquiringOn_eq]
  rw [show ((scanDue g s).setIngLeg g (legRead g levels s)).seq = s.seq by simp [scanDue]]

theorem scanRead_frame : (scanRead g levels s).time = (s.atClock (s.ingLeg g).nextScan).time ∧ (scanRead g levels s).legs = s.legs ∧
    (scanRead g levels s).plan = s.plan ∧ (scanRead g levels s).map = s.map ∧ (scanRead g levels s).div = s.div ∧
    (scanRead g levels s).stray = s.stray ∧ (scanRead g levels s).arith = s.arith := by
  simp [scanRead, recordsScanned, scanDue]

end

/-! ### The survey at a reading scan (R193, R194) -/

section
variable (g : LegId) (levels : List Int) {s : State}

theorem scanRead_unsurveyed (h : (s.ingLeg g).survey = none) : ((scanRead g levels s).ingLeg g).survey = none ∧
    ((scanRead g levels s).ingLeg g).result = (s.ingLeg g).result := by
  obtain ⟨-, -, -, -, hsurvey, hresult⟩ := scanRead_fields g levels s
  rw [← legJudged_survey g levels] at h
  rw [hsurvey, hresult, legRead_eq, scanSurvey_none _ _ h]
  exact ⟨h, by rw [legJudged, scanDue_ingLeg]⟩

theorem scanRead_surveyed {x : Survey} (h : (s.ingLeg g).survey = some x) (hscans : x.scans + 1 < 3600000) :
    ((scanRead g levels s).ingLeg g).survey = some (x.add (readingsTaken g levels s)) ∧
      ((scanRead g levels s).ingLeg g).result = (s.ingLeg g).result := by
  obtain ⟨-, -, -, -, hsurvey, hresult⟩ := scanRead_fields g levels s
  rw [← legJudged_survey g levels] at h
  rw [hsurvey, hresult, legRead_eq, scanSurvey_goes _ _ h hscans]
  exact ⟨rfl, by rw [legJudged, scanDue_ingLeg]⟩

theorem scanRead_survey_full {x : Survey} (h : (s.ingLeg g).survey = some x) (hscans : 3600000 ≤ x.scans + 1) :
    ((scanRead g levels s).ingLeg g).survey = none ∧ ((scanRead g levels s).ingLeg g).result =
      some ((x.add (readingsTaken g levels s)).latch true (s.atClock (s.ingLeg g).nextScan).time.timebase) := by
  obtain ⟨-, -, -, -, hsurvey, hresult⟩ := scanRead_fields g levels s
  rw [← legJudged_survey g levels] at h
  rw [hsurvey, hresult, legRead_eq, scanSurvey_full _ _ h hscans]
  exact ⟨rfl, rfl⟩

end

/-! ### The record at a reading scan (R185 to R187) -/

theorem ScanUpdated.congr {before before' after after' : Nat → Detector} {reading reading' : Nat → Option Int} {r r' : BurstRecord}
    (h : ScanUpdated before after reading r r') (hbefore : ∀ b < 64, before' b = before b) (hafter : ∀ b < 64, after' b = after b)
    (hreading : ∀ b < 64, reading' b = reading b) : ScanUpdated before' after' reading' r r' where
  kept := h.kept
  bins := by
    rw [h.bins]
    refine List.filter_congr fun b hb => ?_
    rw [hbefore b (List.mem_range.mp hb), hafter b (List.mem_range.mp hb)]
  stays hall := h.stays fun b hb hburst x hx => hall b hb (by rw [hafter b hb, hburst]) x (by rw [hreading b hb, hx])
  rises b hb hburst x hx hrise hlow := h.rises b hb (by rw [← hafter b hb, hburst]) x (by rw [← hreading b hb, hx]) hrise
    fun c hc hburst y hy => hlow c hc (by rw [hafter c hc, hburst]) y (by rw [hreading c hc, hy])

/-- A record opened at a scan has the bins in BURST and the highest reading among them (R185). -/
theorem newRecord_peak {readings : List (Option Int)} {l : IngressLeg} {peak : Int × Nat} (h : scanPeak readings l = some peak) :
    l.detector peak.2 = .burst ∧ readings.getD peak.2 none = some peak.1 ∧ peak.2 < 64 ∧
      ∀ b < 64, l.detector b = .burst → ∀ x, readings.getD b none = some x → x ≤ peak.1 := by
  have hpeak := scanPeak_isPeak readings l
  rw [h] at hpeak
  obtain ⟨hc, hm, hmax⟩ := hpeak
  obtain ⟨hburst, hread⟩ := burstReading_eq_some.mp hm
  refine ⟨hburst, hread, hc, fun b hb hburst' x hx => ?_⟩
  rcases hmax b hb x (burstReading_eq_some.mpr ⟨hburst', hx⟩) with hlt | ⟨rfl, -⟩ <;> omega

theorem scanPeak_of_burst {readings : List (Option Int)} {l : IngressLeg} {b : Nat} (hb : b < 64) (hburst : l.detector b = .burst)
    (hread : readings.getD b none ≠ none) : ∃ peak, scanPeak readings l = some peak := by
  refine Option.ne_none_iff_exists'.mp fun hnone => ?_
  have hpeak := scanPeak_isPeak readings l
  rw [hnone] at hpeak
  obtain ⟨x, hx⟩ := Option.ne_none_iff_exists'.mp hread
  have habsent := hpeak b hb
  rw [burstReading_eq_some.mpr ⟨hburst, hx⟩] at habsent
  cases habsent

section
variable (g : LegId) (levels : List Int) (s : State)

/-- The leg's detectors after a reading scan, bin by bin (R183). -/
theorem legRead_detector {b : Nat} (hb : b < 64) : (legRead g levels s).detector b =
    detectorAfter (s.ingLeg g) (readingOf g ((s.ingLeg g).acquired || acquiringOn s g) levels s b) b := by
  rw [IngressLeg.detector, (legRead_fields g levels s).2.1, scanDetectors_getD _ _ hb, readingsTaken_getD g levels s hb]

theorem legRead_anyBurst : (legRead g levels s).anyBurst = true ↔ ∃ b < 64, (legRead g levels s).detector b = .burst :=
  anyBurst_iff (legRead_fields g levels s).2.1

theorem legRead_quiet (h : ∀ b < 64, (legRead g levels s).detector b = .quiet) : (legRead g levels s).anyBurst = false := by
  rw [Bool.eq_false_iff]
  intro hany
  obtain ⟨b, hb, hburst⟩ := (legRead_anyBurst g levels s).mp hany
  rw [h b hb] at hburst
  cases hburst

end

/-- What a reading scan does to the leg's record, told of the detectors and readings after it (R185 to R187, R195). -/
structure RecordScanned (g : LegId) (s u t : State) (after : Nat → Detector) (reading : Nat → Option Int) : Prop where
  quiet : (∀ b < 64, after b = .quiet) → (t.ingLeg g).record = none ∧ (t.ingLeg g).longHeld = false ∧
    ∀ r, (s.ingLeg g).record = some r → ∃ r', ScanUpdated (s.ingLeg g).detector after reading r r' ∧
      ClosedIntoLog s t g (r'.shut false false u.time.timebase)
  goes : ∀ r, (s.ingLeg g).record = some r → r.scans + 1 < 10000 → (∃ b < 64, after b = .burst) →
    ∃ r', (t.ingLeg g).record = some r' ∧ ScanUpdated (s.ingLeg g).detector after reading r r' ∧ t.ing.log = s.ing.log ∧ t.msg = s.msg
  long : ∀ r, (s.ingLeg g).record = some r → 10000 ≤ r.scans + 1 → (∃ b < 64, after b = .burst) →
    (t.ingLeg g).record = none ∧ (t.ingLeg g).longHeld = true ∧ (∃ r', t.ing.log.getLast? = some r' ∧
      r'.serial = r.serial ∧ r'.leg = r.leg ∧ r'.startTime = r.startTime ∧ r'.scans = r.scans + 1 ∧ r'.long = true ∧
      r'.cut = false ∧ r'.endTime = some u.time.timebase) ∧
    ∃ r', ScanUpdated (s.ingLeg g).detector after reading r r' ∧ ClosedIntoLog s t g (r'.shut true false u.time.timebase)
  opens : (s.ingLeg g).record = none → (s.ingLeg g).longHeld = false → (∃ b < 64, after b = .burst ∧ reading b ≠ none) →
    ∃ r', (t.ingLeg g).record = some r' ∧ r'.scans = 1 ∧ r'.startTime = u.time.timebase ∧ r'.leg = g ∧
      r'.bins = (List.range 64).filter (fun b => after b == .burst) ∧ after r'.peakBin = .burst ∧
      reading r'.peakBin = some r'.peakLevel ∧
      (∀ b < 64, after b = .burst → ∀ x, reading b = some x → x ≤ r'.peakLevel) ∧ r'.outcome = openingOutcome s g

theorem ClosedIntoLog.of_due {g : LegId} {s t : State} {r : BurstRecord} {l : IngressLeg}
    (h : ClosedIntoLog ((scanDue g s).setIngLeg g l) t g r) : ClosedIntoLog s t g r :=
  h.congr (by rfl) (by rfl) (by simp [scanDue]) (by simp [scanDue, State.atClock, State.passTo]) rfl rfl rfl rfl rfl

theorem scanRead_records (g : LegId) (levels : List Int) (s : State) : RecordScanned g s (s.atClock (s.ingLeg g).nextScan)
    (scanRead g levels s) (fun b => detectorAfter (s.ingLeg g) (readingOf g ((s.ingLeg g).acquired || acquiringOn s g) levels s b) b)
    (readingOf g ((s.ingLeg g).acquired || acquiringOn s g) levels s) := by
  obtain ⟨-, -, hrecord, hheld, hsettings, -, -⟩ := legRead_fields g levels s
  have hdetector : ∀ b < 64, (legRead g levels s).detector b = _ := fun b hb => legRead_detector g levels s hb
  have hreading : ∀ b < 64, (readingsTaken g levels s).getD b none = _ := fun b hb => readingsTaken_getD g levels s hb
  have hbefore : ((scanDue g s).ingLeg g).detectors = (s.ingLeg g).detectors := by rw [scanDue_ingLeg]
  have hupdated : ∀ r, ScanUpdated (s.ingLeg g).detector _ _ r (updateRecord (readingsTaken g levels s)
      ((scanDue g s).ingLeg g).detectors (legRead g levels s) r) := fun r => by
    rw [hbefore]
    exact (updateRecord_scanUpdated _ (s.ingLeg g) _ r).congr (fun _ _ => rfl) (fun b hb => (hdetector b hb).symm)
      fun b hb => (hreading b hb).symm
  generalize hq : legRead g levels s = q at *
  generalize he : (scanDue g s).setIngLeg g q = e
  have hleg : e.ingLeg g = q := by rw [← he, State.setIngLeg_ingLeg, if_pos rfl]
  have htime : e.time = (s.atClock (s.ingLeg g).nextScan).time := by rw [← he]; rfl
  have hscan : scanRead g levels s = recordsScanned g (readingsTaken g levels s) ((scanDue g s).ingLeg g).detectors e := by
    rw [scanRead, hq, he]
  have hburst : (∃ b < 64, detectorAfter (s.ingLeg g) (readingOf g ((s.ingLeg g).acquired || acquiringOn s g) levels s b) b = .burst) →
      (e.ingLeg g).anyBurst = true := fun ⟨b, hb, h⟩ => by
    rw [hleg, ← hq, legRead_anyBurst, hq]
    exact ⟨b, hb, (hdetector b hb).trans h⟩
  have hopen : ∀ r, (s.ingLeg g).record = some r → (e.ingLeg g).record = some r := fun r hr => by rw [hleg, hrecord, hr]
  have hlogged : ∀ {t : State} {r : BurstRecord}, ClosedIntoLog e t g r → ClosedIntoLog s t g r := fun h => by
    rw [← he] at h
    exact h.of_due
  rw [hscan]
  refine ⟨fun hquiet => ?_, fun r hr hscans hany => ?_, fun r hr hscans hany => ?_, fun hr hnotheld hany => ?_⟩
  · have hnone : (e.ingLeg g).anyBurst = false := by
      rw [hleg, ← hq, legRead_quiet g levels s fun b hb => (hq ▸ hdetector b hb).trans (hquiet b hb)]
    obtain ⟨hclosed, hmark, hlog⟩ := recordsScanned_quiet (readingsTaken g levels s) ((scanDue g s).ingLeg g).detectors hnone
    refine ⟨hclosed, hmark, fun r hr => ⟨_, hupdated r, ?_⟩⟩
    have h := hlog r (hopen r hr)
    rw [hleg, htime] at h
    exact hlogged h
  · rw [recordsScanned_goes _ _ (hburst hany) (hopen r hr) hscans, State.setIngLeg_ingLeg, if_pos rfl, hleg]
    refine ⟨_, rfl, hupdated r, ?_, ?_⟩ <;> rw [← he]
    · rfl
    · simp [scanDue]
  · obtain ⟨hclosed, hmark, hnewest, hlog⟩ :=
      recordsScanned_long (readingsTaken g levels s) ((scanDue g s).ingLeg g).detectors (hburst hany) (hopen r hr) hscans
    rw [hleg, htime] at hlog
    rw [htime] at hnewest
    exact ⟨hclosed, hmark, hnewest, _, hupdated r, hlogged hlog⟩
  · obtain ⟨b, hb, hfires, hread⟩ := hany
    obtain ⟨peak, hpeak⟩ := scanPeak_of_burst (readings := readingsTaken g levels s) (l := q) hb ((hdetector b hb).trans hfires)
      (by rwa [hreading b hb])
    obtain ⟨hpburst, hpread, hp64, hpmax⟩ := newRecord_peak hpeak
    rw [recordsScanned_opens _ _ (hburst ⟨b, hb, hfires⟩) (by rw [hleg, hrecord, hr]) (by rw [hleg, hheld, hnotheld])
      (by rw [hleg]; exact hpeak), htime, hleg]
    refine ⟨_, rfl, rfl, rfl, rfl, ?_, ?_, ?_, fun c hc hcburst x hx => ?_, ?_⟩
    · exact List.filter_congr fun c hc => by rw [hdetector c (List.mem_range.mp hc)]
    · exact (hdetector _ hp64).symm.trans hpburst
    · exact (hreading _ hp64).symm.trans hpread
    · exact hpmax c hc ((hdetector c hc).trans hcburst) x ((hreading c hc).trans hx)
    · have hanchor : e.anchor g = s.anchor g := anchor_congr (by rw [← he]; simp [scanDue]) g
      have hlag : e.prof = s.prof := by rw [← he]; simp [scanDue]
      show openingOutcome e g = _
      rw [openingOutcome, openingOutcome, hleg, hsettings, hanchor, hlag]

/-! ### The obligation -/

/-- Settles O53: no work, a countdown, or a reading scan in its four steps. -/
theorem scansCountDownOrRead : Obligations.ScansCountDownOrRead := by
  unfold Obligations.ScansCountDownOrRead
  intro g levels s hs l u acquiring v
  have hacquiring : acquiring = acquiringOn s g := (acquiringOn_eq s g).symm
  have hdue : v = scanDue g s := by
    show u.setIngLeg g { l with nextScan := l.nextScan + 200000, acquired := acquiring } = _
    rw [hacquiring]
    rfl
  rw [exec_ingressScan g levels hs]
  refine ⟨fun hoff => ?_, fun hon hsettle => ?_, fun hon hsettle => ⟨scanRead g levels s, ?_, ?_⟩⟩
  · rw [scanned, if_pos hoff, hdue]
  · rw [scanned, if_neg hon, if_pos hsettle, hdue]
    simp [State.setLeg, scanDue]
  · rw [scanned_reads g levels hon hsettle]
  intro reading onset after
  have hreading : reading = readingOf g (l.acquired || acquiringOn s g) levels s := by
    rw [← hacquiring]
    rfl
  have honset : onset = l.onsetOf := funext fun b => (onsetOf_eq l b).symm
  have hafter : after = fun b => detectorAfter l (reading b) b := funext fun b => by
    have hdef := detectorAfter.eq_def l (reading b) b
    rw [← honset] at hdef
    exact hdef.symm
  have hread : ∀ b < 64, (readingsTaken g levels s).getD b none = reading b := fun b hb => by
    rw [readingsTaken_getD g levels s hb, hreading]
  have hdetector : ∀ b < 64, (scanDetectors (readingsTaken g levels s) l).getD b .quiet = after b := fun b hb => by
    rw [scanDetectors_getD _ _ hb, hread b hb, hafter]
  have hrecords := scanRead_records g levels s
  rw [← hreading] at hrecords
  change RecordScanned g s u (scanRead g levels s) (fun b => detectorAfter l (reading b) b) reading at hrecords
  rw [← hafter] at hrecords
  clear_value after reading
  obtain ⟨hreadings, hdetectors, hsettings, hnext, -, -⟩ := scanRead_fields g levels s
  obtain ⟨htime, hlegs, hplan, hmap, hdiv, hstray, harith⟩ := scanRead_frame g levels s
  refine ⟨fun b hb => ?_, scanRead_unsurveyed g levels, fun x hx hscans => ?_, fun x hx hscans => ?_, hrecords.quiet, hrecords.goes,
    hrecords.long, hrecords.opens, hnext, hsettings, scanRead_marked g levels s, htime, hlegs, hplan, hmap, hdiv, hstray, harith⟩
  · rw [hreadings, IngressLeg.detector, hdetectors]
    exact ⟨hread b hb, hdetector b hb⟩
  · obtain ⟨hsurvey, hresult⟩ := scanRead_surveyed g levels hx hscans
    refine ⟨_, hsurvey, rfl, rfl, hresult, fun b hb => ?_⟩
    have hbin := Survey.add_bin (readingsTaken g levels s) x hb
    rw [hread b hb] at hbin
    exact hbin
  · obtain ⟨hsurvey, hresult⟩ := scanRead_survey_full g levels hx hscans
    refine ⟨hsurvey, _, hresult, rfl, ?_, rfl, rfl, rfl, fun b hb => ?_⟩
    · exact decide_eq_false (Nat.not_lt.mpr (show 1000 ≤ x.scans + 1 by omega))
    · rw [Survey.add_latch_bin _ _ _ _ hb, hread b hb]

end Sys2Proof.Machine
end

section
/-! PROOFS. Reconciliation up to the end of its sweep: what its steps write (R144 to R158). -/

namespace Sys2Proof.Machine

open Sys2Proof

/-! ### The peaks and their distances (R145) -/

/-- The peaks of a sweep with their distances (R145). -/
def measuredPeaks (w : Sweep) (s : State) (ps : List Peak) : List Peak :=
  ps.map (Peak.measure (s.qEff w.leg) (s.legSettings w.leg).chipDivider)

/-- The record of a sweep with RANGE where one of its peaks was clamped (R145). -/
def rangedSweep (ps : List Peak) (w : Sweep) : Sweep := { w with flags := { w.flags with range := w.flags.range || ps.any (·.range) } }

/-- The content of a slot with its peaks measured and matched (R145, R147). -/
def reconciledContent (w : Sweep) (s : State) (ps : List Peak) (c : SlotContent) : SlotContent :=
  { c with peaks := some (writeMatches (matching w s).1 (measuredPeaks w s ps)), temperature := some s.arith.temperature,
           qEff := some (s.qEff w.leg) }

section
variable {s : State} {w : Sweep} {c : SlotContent} {ps : List Peak} (hslot : (s.slot w.slot).content = some c) (hpeaks : c.peaks = some ps)
include hslot hpeaks

theorem peaksOf_slot : peaksOf s w.slot = ps := by
  rw [peaksOf, hslot, Option.bind_some, hpeaks, Option.getD_some]

theorem measurePeaks_prof : (measurePeaks w s).slot w.slot = { s.slot w.slot with content := some { c with
    peaks := some (measuredPeaks w s ps), temperature := some s.arith.temperature, qEff := some (s.qEff w.leg) } } := by
  have hmeasured := peaksOf_slot hslot hpeaks
  unfold measurePeaks
  dsimp only
  rw [hmeasured, mapContent]
  show ((s.setSlot w.slot _).slot w.slot) = _
  rw [State.setSlot_slot, if_pos rfl, hslot]
  rfl

theorem measurePeaks_peaks : peaksOf (measurePeaks w s) w.slot = measuredPeaks w s ps := by
  rw [peaksOf, measurePeaks_prof hslot hpeaks]
  rfl

theorem matching_eq : matching w s =
    matchElements (s.legSettings w.leg).tolerance (s.elements w.leg) (measuredPeaks w s ps) := by
  rw [matching, measurePeaks_peaks hslot hpeaks]

theorem measurePeaks_seq : (measurePeaks w s).seq = (s.updateSweep w.id (rangedSweep (measuredPeaks w s ps))).seq := by
  have hmeasured := peaksOf_slot hslot hpeaks
  unfold measurePeaks
  rw [hmeasured]
  rfl

end

theorem measurePeaks_slot_other (w : Sweep) (s : State) {i : SlotId} (hi : i ≠ w.slot) : (measurePeaks w s).slot i = s.slot i := by
  unfold measurePeaks
  dsimp only
  rw [mapContent]
  show ((s.setSlot w.slot _).slot i) = _
  rw [State.setSlot_slot, if_neg hi]

/-! ### The elements (R146 to R155) -/

theorem postAll_msg (rs : List Report) (s : State) :
    (rs.foldl (fun u r => post r u) s).msg = rs.foldl (fun m r => m.post s.time.clock r) s.msg := by
  induction rs generalizing s with
  | nil => rfl
  | cons r rs ih => exact ih (post r s)

theorem updateElements_slot (w : Sweep) (ms : List (Element × Option Peak)) (s : State) (i : SlotId) : (updateElements w ms s).slot i =
    if i = w.slot then { s.slot i with content := (s.slot i).content.map fun c => { c with peaks := c.peaks.map (writeMatches ms) } }
    else s.slot i := by
  unfold updateElements
  dsimp only
  rw [State.slot, (postAll_frame _ _).2.2.2.2.2.2.2.2.2.2.2.1]
  show ((s.setSlot w.slot _).slot i) = _
  rw [State.setSlot_slot]
  split
  · next hi => rw [hi]
  · rfl

/-- The changes of state that a reconciliation reports, in list order (R155). -/
def changesOf (w : Sweep) (s : State) : List Report :=
  (matching w s).1.filterMap (elementReport (s.legSettings w.leg) w.options.baseline s.time.timebase w.leg w.id)

theorem reconciledElements_msg (w : Sweep) (s : State) :
    (reconciledElements w s).msg = (changesOf w s).foldl (fun m r => m.post s.time.clock r) s.msg := by
  have hsettings : (measurePeaks w s).legSettings w.leg = s.legSettings w.leg := legSettings_congr (by simp) _
  unfold reconciledElements updateElements
  dsimp only
  rw [postAll_msg, hsettings, (show (measurePeaks w s).time = s.time by simp)]
  refine congrArg (List.foldl _ · _) ?_
  rfl

/-! ### The strays (R156, R157) -/

/-- The strays of a reconciliation, fed, with the reports of those confirmed (R156). -/
def fedIn (w : Sweep) (s : State) : Strays × List Report :=
  fedStrays w.leg s.time.timebase (s.legSettings w.leg).confirmCount (matching w s).2 s.stray

theorem reconciledElements_feeds (w : Sweep) (s : State) : feedStrays w.leg (matching w s).2 (reconciledElements w s) =
    ((reconciledElements w s).setStray (fedIn w s).1).setMsg
      ((fedIn w s).2.foldl (fun m r => m.post s.time.clock r) (reconciledElements w s).msg) := by
  have hsettings : (reconciledElements w s).legSettings w.leg = s.legSettings w.leg := legSettings_congr (by simp [reconciledElements]) _
  have hfed := feedStrays_fed w.leg (matching w s).2 (reconciledElements w s)
  rw [hsettings, show (reconciledElements w s).time = s.time by simp [reconciledElements],
    show (reconciledElements w s).stray = s.stray by simp [reconciledElements]] at hfed
  exact hfed

theorem reconciledLevel_stray (w : Sweep) (s : State) : AgedStrays w.leg ((matching w s).2.map fun p => cellOf (p.distance.getD 0))
    (s.legSettings w.leg).ageLimit (fedIn w s).1 (reconciledLevel w s).stray := by
  have hfeeds := reconciledElements_feeds w s
  have haged := ageStrays_aged w.leg ((matching w s).2.map fun p => cellOf (p.distance.getD 0))
    (feedStrays w.leg (matching w s).2 (reconciledElements w s))
  have hsettings : (feedStrays w.leg (matching w s).2 (reconciledElements w s)).legSettings w.leg = s.legSettings w.leg :=
    legSettings_congr (by simp [reconciledElements]) _
  have hstray : (feedStrays w.leg (matching w s).2 (reconciledElements w s)).stray = (fedIn w s).1 := by
    rw [hfeeds]
    rfl
  rw [hsettings, hstray] at haged
  rw [reconciledLevel, (levelDone_frame ..).2.2.2.2.2.2.2.2.2.2.2.2.2.2.2.1]
  exact haged

theorem reconciledLevel_msg (w : Sweep) (s : State) :
    (reconciledLevel w s).msg = (changesOf w s ++ (fedIn w s).2).foldl (fun m r => m.post s.time.clock r) s.msg := by
  rw [List.foldl_append, ← reconciledElements_msg, reconciledLevel, (levelDone_frame ..).2.2.2.2.1, (ageStrays_frame ..).2.2.2.2.1,
    reconciledElements_feeds]
  rfl

/-! ### The rest of those steps -/

theorem reconciledLevel_slot_eq (w : Sweep) (s : State) (i : SlotId) : (reconciledLevel w s).slot i = (reconciledElements w s).slot i := by
  rw [State.slot, State.slot]
  simp [reconciledLevel]

theorem reconciledLevel_slot_other (w : Sweep) (s : State) {i : SlotId} (hi : i ≠ w.slot) : (reconciledLevel w s).slot i = s.slot i := by
  rw [reconciledLevel_slot_eq, reconciledElements, updateElements_slot, if_neg hi, measurePeaks_slot_other w s hi]

section
variable {s : State} {w : Sweep} {c : SlotContent} {ps : List Peak} (hslot : (s.slot w.slot).content = some c) (hpeaks : c.peaks = some ps)
include hslot hpeaks

theorem reconciledLevel_content : ((reconciledLevel w s).slot w.slot).content = some (reconciledContent w s ps c) := by
  rw [reconciledLevel_slot_eq, reconciledElements, updateElements_slot, if_pos rfl, measurePeaks_prof hslot hpeaks]
  rfl

theorem reconciledLevel_seq : (reconciledLevel w s).seq = (s.updateSweep w.id (rangedSweep (measuredPeaks w s ps))).seq := by
  rw [← measurePeaks_seq hslot hpeaks]
  simp [reconciledLevel, reconciledElements]

theorem reconciledLevel_findSweep (id : Nat) : (reconciledLevel w s).findSweep id =
    (s.findSweep id).map fun x => if id = w.id then rangedSweep (measuredPeaks w s ps) x else x := by
  rw [findSweep_of_queue (congrArg Sequencer.queue (reconciledLevel_seq hslot hpeaks)), findSweep_updateSweep (f := rangedSweep _) fun _ => rfl]

end

theorem reconciledLevel_frame (w : Sweep) (s : State) : (reconciledLevel w s).time = s.time ∧ (reconciledLevel w s).plan = s.plan ∧
    (reconciledLevel w s).arith = s.arith ∧ (reconciledLevel w s).win = s.win ∧ (reconciledLevel w s).div = s.div := by
  simp [reconciledLevel, reconciledElements]

theorem reconciledLevel_leg (w : Sweep) (s : State) : (reconciledLevel w s).leg w.leg = judgedLeg w s := by
  rw [State.leg, reconciledLevel_legs, State.setLeg]
  exact Quad.get_set_same ..

/-- The leg fault follows when the ENABLED leg's counter has reached its limit (R71, R160). -/
theorem faultsNow_iff (w : Sweep) (s : State) : faultsNow (reconciledLevel w s) w.leg = true ↔
    (s.leg w.leg).state = .enabled ∧ (judgedLeg w s).faults = (s.legSettings w.leg).faultLimit := by
  have hsettings : (reconciledLevel w s).legSettings w.leg = s.legSettings w.leg := by
    rw [State.legSettings, reconciledLevel_leg]
    rfl
  rw [faultsNow, reconciledLevel_leg, hsettings, Bool.and_eq_true_iff, beq_iff_eq, beq_iff_eq]
  rfl

end Sys2Proof.Machine
end

section
/-! PROOFS. Reconciliation: the end of its sweep, and the leg fault that may follow (R64, R65, R72, R160). -/

namespace Sys2Proof.Machine

open Sys2Proof

/-! ### Sweeps that end one after another, in their order (R72) -/

section
variable {o : SweepOutcome} (ho : o ≠ .done ∧ o ≠ .doneClipped)
include ho

/-- The end of a sweep leaves a READY slot of another. -/
theorem endSweep_slot_other {s : State} {w : Sweep} (hw : s.findSweep w.id = some w) {i : SlotId} (hi : i ≠ w.slot)
    (hready : (s.slot i).state = .ready) : (endSweep w.id o 0 0 s).slot i = s.slot i := by
  have hremoved : (post (sweepEndIn s o (s.leg w.leg).level w) (sweepRemoved w s)).slot i = s.slot i := by
    show (sweepRemoved w s).slot i = _
    rw [sweepRemoved, State.setSlot_slot, if_neg hi]
    exact dropSweep_slot ..
  rw [endSweep_eq hw ho]
  split
  · rw [choose_slot_of_ne (by rw [hremoved, hready]; exact nofun), hremoved]
  · exact hremoved

/-- Records whose legs may start nothing end one after another, each with its report, and READY slots of others stay. -/
theorem endSweeps_wound {x : State} (todo : List Sweep) (hapart : todo.Pairwise fun v w => v.id ≠ w.id ∧ v.slot ≠ w.slot)
    {done : List Sweep} {t : State} (h : Wound x done todo t) :
    Wound x (done ++ todo) [] (endSweeps o (todo.map (·.id)) t) ∧
      (endSweeps o (todo.map (·.id)) t).msg =
        (todo.map fun w => sweepEndIn x o (x.leg w.leg).level w).foldl (fun m r => m.post x.time.clock r) t.msg ∧
      ∀ i, (t.slot i).state = .ready → (∀ w ∈ todo, i ≠ w.slot) → (endSweeps o (todo.map (·.id)) t).slot i = t.slot i := by
  induction todo generalizing done t with
  | nil =>
    rw [List.append_nil]
    exact ⟨h, rfl, fun _ _ _ => rfl⟩
  | cons w rest ih =>
    obtain ⟨hfirst, hrest⟩ := List.pairwise_cons.mp hapart
    have hw := h.waits w List.mem_cons_self
    have hreport : sweepEndIn t o (t.leg w.leg).level w = sweepEndIn x o (x.leg w.leg).level w := by
      rw [sweepEndIn, sweepEndIn, hw.content, h.time, State.leg, h.legs, State.leg]
    have hmsg : (endSweep w.id o 0 0 t).msg = t.msg.post x.time.clock (sweepEndIn x o (x.leg w.leg).level w) := by
      rw [endSweep_report hw.record rfl, hreport, h.time]
    obtain ⟨hwound, hposts, hslots⟩ := ih hrest (h.endSweep rfl hfirst ho)
    rw [List.append_assoc] at hwound
    refine ⟨hwound, hposts.trans ?_, fun i hready hother => ?_⟩
    · rw [hmsg]
      rfl
    · have hsame := endSweep_slot_other ho hw.record (hother w List.mem_cons_self) hready
      exact (hslots i (by rw [hsame, hready]) fun v hv => hother v (List.mem_cons_of_mem _ hv)).trans hsame

end

theorem endSweeps_roster (o : SweepOutcome) (ids : List Nat) (s : State) : (endSweeps o ids s).roster = s.roster.withoutAll ids := by
  have hboth : ∀ (id : Nat) (ids : List Nat) (q : Sequencer), (q.without id).withoutAll ids = q.withoutAll (id :: ids) := fun id ids q => by
    rw [← withoutAll_without]
    unfold Sequencer.without Sequencer.withoutAll
    simp only [List.filter_filter, Bool.and_comm]
  induction ids generalizing s with
  | nil => exact (withoutAll_nil _).symm
  | cons id ids ih => exact (ih _).trans (by rw [endSweep_roster, hboth])

/-! ### The leg fault (R72) -/

/-- A leg as it faults, before its sweeps end. -/
def legFaulted (g : LegId) (id : Nat) (s : State) : State :=
  post (.legFault g (s.leg g).faults (s.leg g).level id s.time.timebase) (s.setLeg g { s.leg g with state := .faulted })

/-- The sweeps that a fault of the leg ends. -/
def faultedSweeps (g : LegId) (s : State) : List Sweep := s.seq.queue.filter fun w => w.leg == g && w.state != .analysing

theorem faultLeg_eq (g : LegId) (id : Nat) (s : State) : faultLeg g id s =
    choose (endSweeps .legFaulted ((faultedSweeps g s).map (·.id)) (legFaulted g id s)) := rfl

theorem legFaulted_leg (g : LegId) (id : Nat) (s : State) : (legFaulted g id s).leg g = { s.leg g with state := .faulted } :=
  Quad.get_set_same ..

section
variable {g : LegId} {id : Nat} {s : State} (hq : QueueInv s)
include hq

/-- The leg's sweeps that are not ANALYSING end in queue order, each with its report (R72, R160). -/
theorem faultLeg_ends : (∀ w ∈ faultedSweeps g s, Ended (faultLeg g id s) w) ∧
    (faultLeg g id s).msg = (.legFault g (s.leg g).faults (s.leg g).level id s.time.timebase ::
      (faultedSweeps g s).map fun w => sweepEndIn s .legFaulted (s.leg g).level w).foldl (fun m r => m.post s.time.clock r) s.msg ∧
    ∀ i, (s.slot i).state = .ready → (∀ w ∈ faultedSweeps g s, i ≠ w.slot) → (faultLeg g id s).slot i = s.slot i := by
  have hx : QueueInv (legFaulted g id s) := hq.shrinks (.of_same rfl rfl)
  have hleg : ∀ w ∈ faultedSweeps g s, w.leg = g := fun w hw =>
    beq_iff_eq.mp (Bool.and_eq_true_iff.mp (List.mem_filter.mp hw).2).1
  have hwound : Wound (legFaulted g id s) [] (faultedSweeps g s) (legFaulted g id s) := by
    refine ⟨rfl, rfl, rfl, nofun, fun w hw => hx.waits (List.mem_filter.mp hw).1 (.inr ?_)⟩
    rw [hleg w hw, legFaulted_leg]
    exact nofun
  obtain ⟨hended, hmsg, hslots⟩ := endSweeps_wound (o := .legFaulted) ⟨nofun, nofun⟩ (faultedSweeps g s) (hq.apart _) hwound
  have hchoose : ∀ u : State, (choose u).msg = u.msg := fun u => by simp
  rw [faultLeg_eq]
  refine ⟨fun w hw => (hended.ended w hw).choose, ?_, fun i hready hother => ?_⟩
  · rw [hchoose, hmsg, List.foldl_cons]
    have hreports : ((faultedSweeps g s).map fun w => sweepEndIn (legFaulted g id s) .legFaulted ((legFaulted g id s).leg w.leg).level w) =
        (faultedSweeps g s).map fun w => sweepEndIn s .legFaulted (s.leg g).level w :=
      List.map_congr_left fun w hw => by
        rw [hleg w hw, legFaulted_leg]
        rfl
    rw [hreports]
    rfl
  · have hsame := hslots i hready hother
    rw [choose_slot_of_ne (by rw [hsame]; exact fun h => nomatch hready.symm.trans h), hsame]
    rfl

/-- The leg's records that are left are ANALYSING (R72). -/
theorem faultLeg_leaves {w : Sweep} (hw : w ∈ (faultLeg g id s).seq.queue) (hleg : w.leg = g) : w.state = .analysing := by
  have hroster : (faultLeg g id s).roster.queue =
      keptRecords (s.seq.queue.filter fun w => !(w.leg == g && w.state != .analysing)) := by
    rw [faultLeg_eq, choose_roster, endSweeps_roster]
    exact hq.roster_without _
  have hmem : w.kept ∈ (faultLeg g id s).roster.queue := mem_roster hw
  rw [hroster] at hmem
  obtain ⟨v, hv, hvw⟩ := List.mem_map.mp hmem
  obtain ⟨hvleg, hstate⟩ := kept_leg hvw
  have hstays := (List.mem_filter.mp hv).2
  rw [hvleg, hleg] at hstays
  refine hstate.mp ?_
  simpa using hstays

end

end Sys2Proof.Machine
end

section
/-! PROOFS. The obligation on reconciliation (R143 to R160). -/

namespace Sys2Proof.Machine

open Sys2Proof

/-! ### The end of the reconciled sweep (R159, R64, R65) -/

/-- A reconciliation up to the end of its sweep (R144). -/
def reconciledEnd (w : Sweep) (s : State) : State :=
  endSweep w.id .done ((matching w s).1.filter fun m => m.2.isSome).length (matching w s).2.length (reconciledLevel w s)

theorem reconcile_end {s : State} {w : Sweep} (hw : s.findSweep w.id = some w) : reconcile w.id s =
    if faultsNow (reconciledLevel w s) w.leg then faultLeg w.leg w.id (reconciledEnd w s) else reconciledEnd w s :=
  reconcile_eq hw

theorem reconciledEnd_frame (w : Sweep) (s : State) : (reconciledEnd w s).time = s.time ∧ (reconciledEnd w s).plan = s.plan ∧
    (reconciledEnd w s).arith = s.arith ∧ (reconciledEnd w s).legs = s.legs.set w.leg (judgedLeg w s) ∧
    (reconciledEnd w s).stray = (reconciledLevel w s).stray := by
  obtain ⟨htime, hplan, harith, -, -⟩ := reconciledLevel_frame w s
  have hlegs := reconciledLevel_legs w s
  simp [reconciledEnd, htime, hplan, harith, hlegs, State.setLeg]

theorem reconciledEnd_leg (w : Sweep) (s : State) : (reconciledEnd w s).leg w.leg = judgedLeg w s := by
  rw [State.leg, (reconciledEnd_frame w s).2.2.2.1]
  exact Quad.get_set_same ..

/-- SWEEP_END of a sweep that is DONE (R65, R159). -/
def doneReport (w : Sweep) (s : State) (ps : List Peak) : Report :=
  .sweepEnd w.id w.leg w.slot .done (rangedSweep (measuredPeaks w s ps) w).flags w.started w.done ps.length
    ((matching w s).1.filter fun m => m.2.isSome).length (matching w s).2.length (judgedLeg w s).level s.time.timebase

/-- A record that is not the reconciled sweep's has another id and another slot. -/
theorem QueueInv.other {s : State} (hq : QueueInv s) {w v : Sweep} (hw : s.findSweep w.id = some w) (hv : v ∈ s.seq.queue)
    (hid : v.id ≠ w.id) : v.slot ≠ w.slot := fun hslot =>
  hid (congrArg Sweep.id (List.inj_on_of_nodup_map hq.slots hv (List.mem_of_find?_eq_some hw) hslot))

theorem QueueInv.finds {s : State} (hq : QueueInv s) {w : Sweep} (hw : w ∈ s.seq.queue) : s.findSweep w.id = some w := by
  cases hfind : s.findSweep w.id with
  | none => exact absurd rfl (findSweep_eq_none.mp hfind w hw)
  | some v => rw [List.inj_on_of_nodup_map hq.ids (List.mem_of_find?_eq_some hfind) hw (findSweep_id hfind)]

section
variable {s : State} {w : Sweep} {c : SlotContent} {ps : List Peak} (hw : s.findSweep w.id = some w)
  (hslot : (s.slot w.slot).content = some c) (hpeaks : c.peaks = some ps)
include hw hslot hpeaks

theorem reconciledLevel_record :
    (reconciledLevel w s).findSweep w.id = some (rangedSweep (measuredPeaks w s ps) w) := by
  rw [reconciledLevel_findSweep hslot hpeaks, hw, Option.map_some, if_pos rfl]

theorem reconciledEnd_over : reconciledEnd w s =
    (if flies (reconciledLevel w s) w.id then choose (post (doneReport w s ps)
        (sweepOver .done (rangedSweep (measuredPeaks w s ps) w) (reconciledLevel w s)))
      else post (doneReport w s ps) (sweepOver .done (rangedSweep (measuredPeaks w s ps) w) (reconciledLevel w s))) := by
  have hcount : peakCount ((reconciledLevel w s).slot w.slot) = ps.length := by
    rw [peakCount, reconciledLevel_content hslot hpeaks]
    simp [reconciledContent, writeMatches, measuredPeaks]
  have hreport : sweepEndOf .done ((matching w s).1.filter fun m => m.2.isSome).length (matching w s).2.length
      (rangedSweep (measuredPeaks w s ps) w) (reconciledLevel w s) = doneReport w s ps := by
    show Report.sweepEnd _ _ _ _ _ _ _ (peakCount ((reconciledLevel w s).slot w.slot)) _ _ ((reconciledLevel w s).leg w.leg).level
      (reconciledLevel w s).time.timebase = _
    rw [hcount, reconciledLevel_leg, (reconciledLevel_frame w s).1]
    rfl
  rw [← hreport]
  exact endSweep_over (w := rangedSweep (measuredPeaks w s ps) w) (reconciledLevel_record hw hslot hpeaks) ..

theorem reconciledEnd_slot : (reconciledEnd w s).slot w.slot = ⟨.ready, some { reconciledContent w s ps c with
    flags := some (rangedSweep (measuredPeaks w s ps) w).flags, completion := some s.time.timebase, acc := none,
    analysisStart := none }⟩ := by
  rw [← (reconciledLevel_frame w s).1]
  exact endSweep_slot_ready (w := rangedSweep (measuredPeaks w s ps) w) (reconciledLevel_record hw hslot hpeaks) .done _ _ (.inl rfl)
    (reconciledLevel_content hslot hpeaks)

theorem reconciledEnd_content {i : SlotId} (hi : i ≠ w.slot) : ((reconciledEnd w s).slot i).content = (s.slot i).content := by
  have hpost : (post (doneReport w s ps) (sweepOver .done (rangedSweep (measuredPeaks w s ps) w) (reconciledLevel w s))).slot i =
      s.slot i := by
    show (sweepOver .done (rangedSweep (measuredPeaks w s ps) w) (reconciledLevel w s)).slot i = _
    rw [sweepOver, State.setSlot_slot, if_neg (show i ≠ (rangedSweep (measuredPeaks w s ps) w).slot from hi)]
    exact (dropSweep_slot _ _ _).trans (reconciledLevel_slot_other w s hi)
  rw [reconciledEnd_over hw hslot hpeaks]
  split
  · rw [choose_slot_content, hpost]
  · rw [hpost]

/-- The reports up to the end of the sweep, in their order (R155, R156, R159, R160). -/
theorem reconciledEnd_msg : (reconciledEnd w s).msg =
    (changesOf w s ++ (fedIn w s).2 ++ [doneReport w s ps]).foldl (fun m r => m.post s.time.clock r) s.msg := by
  have hchoose : ∀ u : State, (choose u).msg = u.msg := fun u => by simp
  have hpost : (post (doneReport w s ps) (sweepOver .done (rangedSweep (measuredPeaks w s ps) w) (reconciledLevel w s))).msg =
      (reconciledLevel w s).msg.post s.time.clock (doneReport w s ps) := by
    have hover : ∀ (o : SweepOutcome) (x : Sweep) (u : State), (sweepOver o x u).msg = u.msg ∧ (sweepOver o x u).time = u.time :=
      fun o x u => by simp [sweepOver]
    obtain ⟨hmsg, htime⟩ := hover .done (rangedSweep (measuredPeaks w s ps) w) (reconciledLevel w s)
    rw [post, State.setMsg_msg, hmsg, htime, (reconciledLevel_frame w s).1]
  rw [List.foldl_append, ← reconciledLevel_msg, reconciledEnd_over hw hslot hpeaks]
  split
  · exact (hchoose _).trans hpost
  · exact hpost

omit hw in
/-- The records that are left are the others (R64). -/
theorem reconciledEnd_records : keptRecords (reconciledEnd w s).seq.queue = keptRecords (s.seq.queue.filter fun v => v.id ≠ w.id) := by
  refine keptRecords_without ?_
  rw [reconciledEnd, endSweep_roster, roster_of_seq (reconciledLevel_seq hslot hpeaks), updateSweep_without (f := rangedSweep _) s fun _ => rfl]

/-- Where the reconciled sweep does not fly, the others stay as they are. -/
theorem reconciledEnd_findSweep (hflies : ∀ a, s.seq.inFlight = some a → a.sweepId ≠ w.id) {i : Nat} (hi : i ≠ w.id) :
    (reconciledEnd w s).findSweep i = s.findSweep i := by
  have hnot : ¬ flies (reconciledLevel w s) w.id = true := fun h => by
    obtain ⟨a, ha, haid⟩ := flies_iff.mp h
    rw [reconciledLevel_seq hslot hpeaks] at ha
    exact hflies a ha haid
  have hqueue : (post (doneReport w s ps) (sweepOver .done (rangedSweep (measuredPeaks w s ps) w) (reconciledLevel w s))).seq =
      (dropSweep w.id (reconciledLevel w s)).seq := by
    have hover : ∀ (o : SweepOutcome) (x : Sweep) (u : State), (sweepOver o x u).seq = (dropSweep x.id u).seq := fun o x u => by
      simp [sweepOver]
    exact hover .done _ _
  rw [reconciledEnd_over hw hslot hpeaks, if_neg hnot, findSweep_of_queue (congrArg Sequencer.queue hqueue),
    dropSweep_findSweep_other hi, reconciledLevel_findSweep hslot hpeaks]
  cases s.findSweep i with
  | none => rfl
  | some x => rw [Option.map_some, if_neg hi]

/-! ### The sweeps that a leg fault ends (R72, R160) -/

/-- The others of the leg that are not ANALYSING. -/
def othersOf (w : Sweep) (s : State) : List Sweep :=
  s.seq.queue.filter fun v => v.leg = w.leg ∧ v.state ≠ .analysing ∧ v.id ≠ w.id

omit hw in
theorem reconciledEnd_faulted : keptRecords (faultedSweeps w.leg (reconciledEnd w s)) = keptRecords (othersOf w s) := by
  have hkept : ∀ v : Sweep, (fun v : Sweep => v.leg == w.leg && v.state != .analysing) v.kept =
      (fun v : Sweep => v.leg == w.leg && v.state != .analysing) v := fun v => by
    have hstate : ∀ x : SweepState, ((if x = .analysing then .analysing else .queued : SweepState) != .analysing) = (x != .analysing) :=
      fun x => by cases x <;> rfl
    exact congrArg (v.leg == w.leg && ·) (hstate v.state)
  rw [faultedSweeps, keptRecords_filter _ hkept, reconciledEnd_records hslot hpeaks, ← keptRecords_filter _ hkept,
    List.filter_filter, othersOf]
  refine congrArg keptRecords (List.filter_congr fun v _ => Bool.eq_iff_iff.mpr ?_)
  simp [and_assoc]

end

/-! ### The obligation -/

/-- What is kept of a record tells all that its SWEEP_END tells but the number started. -/
theorem kept_fields {v x : Sweep} (h : v.kept = x.kept) :
    v.id = x.id ∧ v.leg = x.leg ∧ v.slot = x.slot ∧ v.done = x.done ∧ v.flags = x.flags := by
  have hfields : ∀ y : Sweep, y.id = y.kept.id ∧ y.leg = y.kept.leg ∧ y.slot = y.kept.slot ∧ y.done = y.kept.done ∧
      y.flags = y.kept.flags := fun _ => ⟨rfl, rfl, rfl, rfl, rfl⟩
  obtain ⟨hid, hleg, hslot, hdone, hflags⟩ := hfields v
  rw [h] at hid hleg hslot hdone hflags
  exact ⟨hid, hleg, hslot, hdone, hflags⟩

/-- The number of acquisitions that a record of `t` has started. -/
def startedIn (t : State) (v : Sweep) : Nat := (t.findSweep v.id).elim 0 (·.started)

section
variable {s : State} {w : Sweep} {c : SlotContent} {ps : List Peak} (hq : QueueInv s) (hw : s.findSweep w.id = some w)
  (hslot : (s.slot w.slot).content = some c) (hpeaks : c.peaks = some ps)
include hq hw hslot hpeaks

omit hw in
theorem reconciledEnd_queueInv : QueueInv (reconciledEnd w s) := by
  have hlevel : QueueShrinks s (reconciledLevel w s) := by
    refine (QueueShrinks.updateSweep s fun _ => ?_).trans (.of_same (reconciledLevel_seq hslot hpeaks) (reconciledLevel_frame w s).2.2.2.2)
    rfl
  exact hq.shrinks (hlevel.trans (.endSweep ..))

/-- A sweep that the fault ends is one of the leg's others, as far as its record is kept. -/
theorem faulted_other {v : Sweep} (hv : v ∈ faultedSweeps w.leg (reconciledEnd w s)) :
    ∃ x ∈ othersOf w s, x.kept = v.kept ∧ x.slot ≠ w.slot := by
  have hmem : v.kept ∈ keptRecords (othersOf w s) := reconciledEnd_faulted hslot hpeaks ▸ List.mem_map_of_mem hv
  obtain ⟨x, hx, hxv⟩ := List.mem_map.mp hmem
  obtain ⟨hqueue, hother⟩ := List.mem_filter.mp hx
  exact ⟨x, hx, hxv, hq.other hw hqueue (of_decide_eq_true hother).2.2⟩

/-- The reports of the sweeps that the fault ends, told of the records as they stood before (R65). -/
theorem faulted_reports (level : Nat) :
    (faultedSweeps w.leg (reconciledEnd w s)).map (fun v => sweepEndIn (reconciledEnd w s) .legFaulted level v) =
      (othersOf w s).map fun v => sweepEndIn s .legFaulted level { v with started := startedIn (reconciledEnd w s) v } := by
  have hqe := reconciledEnd_queueInv hq hslot hpeaks
  have hleft : (faultedSweeps w.leg (reconciledEnd w s)).map (fun v => sweepEndIn (reconciledEnd w s) .legFaulted level v) =
      (keptRecords (faultedSweeps w.leg (reconciledEnd w s))).map fun k =>
        sweepEndIn s .legFaulted level { k with started := startedIn (reconciledEnd w s) k } := by
    rw [keptRecords_eq, List.map_map]
    refine List.map_congr_left fun v hv => ?_
    obtain ⟨x, -, hxv, hxslot⟩ := faulted_other hq hw hslot hpeaks hv
    obtain ⟨-, -, hslots, -, -⟩ := kept_fields hxv
    have hcontent := reconciledEnd_content hw hslot hpeaks (hslots ▸ hxslot)
    have hstarted : startedIn (reconciledEnd w s) v.kept = v.started := by
      rw [startedIn, show v.kept.id = v.id from rfl, hqe.finds (List.mem_filter.mp hv).1]
      rfl
    rw [Function.comp_apply, hstarted, sweepEndIn, sweepEndIn, hcontent, (reconciledEnd_frame w s).1]
    rfl
  rw [hleft, reconciledEnd_faulted hslot hpeaks, keptRecords_eq, List.map_map]
  rfl

/-- A reconciliation that brings the leg's fault: its sweeps end, and what it has written stays (R72, R160). -/
theorem reconcile_faults (hfaults : faultsNow (reconciledLevel w s) w.leg = true) :
    (∀ v ∈ othersOf w s, Ended (reconcile w.id s) v) ∧
    (reconcile w.id s).slot w.slot = (reconciledEnd w s).slot w.slot ∧
    (reconcile w.id s).legs = s.legs.set w.leg { judgedLeg w s with state := .faulted } ∧
    (∀ v ∈ (reconcile w.id s).seq.queue, v.leg = w.leg → v.state = .analysing) ∧
    (reconcile w.id s).msg = (changesOf w s ++ (fedIn w s).2 ++ [doneReport w s ps,
        .legFault w.leg (judgedLeg w s).faults (judgedLeg w s).level w.id s.time.timebase] ++
      (othersOf w s).map fun v => sweepEndIn s .legFaulted (judgedLeg w s).level
        { v with started := startedIn (reconciledEnd w s) v }).foldl (fun m r => m.post s.time.clock r) s.msg := by
  have hqe := reconciledEnd_queueInv hq hslot hpeaks
  have hleg := reconciledEnd_leg w s
  have hlegs := (reconciledEnd_frame w s).2.2.2.1
  have hready : ((reconciledEnd w s).slot w.slot).state = .ready := by rw [reconciledEnd_slot hw hslot hpeaks]
  obtain ⟨hended, hmsg, hslots⟩ := faultLeg_ends (g := w.leg) (id := w.id) hqe
  have hreconcile : reconcile w.id s = faultLeg w.leg w.id (reconciledEnd w s) := by rw [reconcile_end hw, if_pos hfaults]
  rw [hreconcile]
  refine ⟨fun v hv => ?_, hslots w.slot hready fun v hv => ?_, ?_, fun v hv => faultLeg_leaves hqe hv, ?_⟩
  · have hmem : v.kept ∈ keptRecords (faultedSweeps w.leg (reconciledEnd w s)) :=
      (reconciledEnd_faulted hslot hpeaks).symm ▸ List.mem_map_of_mem hv
    obtain ⟨x, hx, hxv⟩ := List.mem_map.mp hmem
    obtain ⟨hid, -, hxslot, -, -⟩ := kept_fields hxv
    obtain ⟨hrecord, hfree, hjobs, hbatches, hflight⟩ := hended x hx
    rw [hid] at hrecord hjobs hbatches hflight
    rw [hxslot] at hfree
    exact ⟨hrecord, hfree, hjobs, hbatches, hflight⟩
  · obtain ⟨x, -, hxv, hxslot⟩ := faulted_other hq hw hslot hpeaks hv
    obtain ⟨-, -, hsame, -, -⟩ := kept_fields hxv
    exact hsame ▸ hxslot.symm
  · rw [faultLeg_legs, State.setLeg, hleg, State.setLegs_legs, hlegs]
    exact Quad.ext_get fun i => by
      by_cases hi : i = w.leg
      · rw [hi, Quad.get_set_same, Quad.get_set_same]
      · rw [Quad.get_set_other _ _ hi, Quad.get_set_other _ _ hi, Quad.get_set_other _ _ hi]
  · rw [hmsg, hleg, (reconciledEnd_frame w s).1, reconciledEnd_msg hw hslot hpeaks, faulted_reports hq hw hslot hpeaks,
      ← List.foldl_append]
    simp only [List.append_assoc, List.cons_append, List.nil_append]

end

end Sys2Proof.Machine
end

section
/-! PROOFS. The obligation on reconciliation, assembled (R143 to R160). -/

namespace Sys2Proof.Machine

open Sys2Proof

theorem anchorMatch_eq (ms : List (Element × Option Peak)) : anchorMatch ms =
    match ms.find? fun m => m.1.anchor with
    | none => .noAnchor
    | some m => m.2.elim .unmatched fun p => .matched p.amplitude := by
  unfold anchorMatch
  cases ms.find? fun m => m.1.anchor with
  | none => rfl
  | some m => obtain ⟨e, o⟩ := m; cases o <;> rfl

theorem reconcileElement_eq (t : Settings) (baseline : Bool) (time : Nat) (m : Element × Option Peak) :
    reconcileElement t baseline time m = match m.2 with
      | some p => m.1.matched baseline time p
      | none => m.1.missed t.missLimit := by
  unfold reconcileElement
  cases m.2 <;> rfl

/-- The report of a change tells the element as it stood before, but for its state, its misses and its baseline (R155). -/
theorem elementReport_eq (t : Settings) (baseline : Bool) (time : Nat) (g : LegId) (id : Nat) (m : Element × Option Peak) :
    elementReport t baseline time g id m = if (reconcileElement t baseline time m).state = m.1.state then none
      else some (.elementChange g m.1.id id m.1.state (reconcileElement t baseline time m).state
        ((m.2.bind (·.distance)).getD m.1.nominal) (reconcileElement t baseline time m).misses time (m.2.map (·.amplitude))
        (reconcileElement t baseline time m).baseline) := by
  have hkey := reconcileElement_key t baseline time m
  simp only [Element.key, Prod.mk.injEq] at hkey
  obtain ⟨hid, -, -, hnominal⟩ := hkey
  unfold elementReport
  dsimp only
  rw [hid, hnominal]

/-- A record that is not in the queue does not come back while no record is new. -/
theorem QueueShrinks.gone {s t : State} (h : QueueShrinks s t) {id : Nat} (hs : s.findSweep id = none) : t.findSweep id = none := by
  refine findSweep_eq_none.mpr fun w hw hid => ?_
  obtain ⟨v, hv, hkey⟩ := List.mem_map.mp (h.keys.subset (List.mem_map_of_mem hw))
  exact findSweep_eq_none.mp hs v hv ((congrArg Prod.fst hkey).trans hid)

/-- Settles O50: what reconciliation writes, reports and ends, and the leg fault that may follow. -/
theorem reconciliationEndsTheSweep : Obligations.ReconciliationEndsTheSweep := by
  unfold Obligations.ReconciliationEndsTheSweep
  intro s w c ps hq hw hslot hpeaks g set now measured ms free judged changes fed anchor level faults flags fails done t
  have hmatch : matchElements set.tolerance (s.elements g) measured = matching w s := (matching_eq hslot hpeaks).symm
  have hms : ms = (matching w s).1 := congrArg Prod.fst hmatch
  have hfree : free = (matching w s).2 := congrArg Prod.snd hmatch
  have hjudged : judged = reconcileElement set w.options.baseline now := funext fun m => (reconcileElement_eq set _ now m).symm
  have hchanges : changes = changesOf w s := by
    show ms.filterMap _ = _
    rw [changesOf, ← hms]
    refine List.filterMap_congr fun m _ => ?_
    rw [elementReport_eq]
    show (if (judged m).state = m.1.state then none else some (Report.elementChange g m.1.id w.id m.1.state (judged m).state
      ((m.2.bind (·.distance)).getD m.1.nominal) (judged m).misses now (m.2.map (·.amplitude)) (judged m).baseline)) = _
    rw [hjudged]
  have hfed : fed = fedIn w s := by
    show fedStrays g now set.confirmCount free s.stray = _
    rw [hfree]
    rfl
  have hanchor : anchor = anchorMatch (matching w s).1 := by
    rw [← hms]
    exact (anchorMatch_eq ms).symm
  have hlevel : level = (judgedLeg w s).level := by
    show levelAfterDone set anchor (s.leg g).level = _
    rw [hanchor]
    rfl
  have hfaults : faults = (judgedLeg w s).faults := by
    show faultsAfterDone set anchor (w.levelUsed.getD 0) (s.leg g).faults = _
    rw [hanchor]
    rfl
  have hdone : done = doneReport w s ps := by
    show Report.sweepEnd w.id g w.slot .done flags w.started w.done ps.length (ms.filter fun m => m.2.isSome).length free.length level
      now = _
    rw [hms, hfree, hlevel]
    rfl
  have hjudgedLeg : { s.leg g with level := level, faults := faults } = judgedLeg w s := by
    rw [hlevel, hfaults]
    rfl
  have hfails : faultsNow (reconciledLevel w s) w.leg = true ↔ fails := by
    rw [faultsNow_iff, ← hfaults]
  have hends := reconciledEnd_slot hw hslot hpeaks
  have hcontent : (reconciledEnd w s).slot w.slot = ⟨.ready, some { c with
      peaks := some (measured.map fun p => { p with
        element := (ms.find? fun m => m.2.map (·.k) == some p.k).map fun m => m.1.id })
      temperature := some s.arith.temperature, qEff := some (s.qEff g), flags := some flags, completion := some now
      acc := none, analysisStart := none }⟩ := by
    rw [hends, reconciledContent, ← hms]
    rfl
  have hstray := reconciledLevel_stray w s
  rw [← hfree, ← hfed] at hstray
  obtain ⟨htime, hplan, harith, hlegs, hestray⟩ := reconciledEnd_frame w s
  have hreconcile := reconcile_end hw
  have hgone : t.findSweep w.id = none := by
    show (reconcile w.id s).findSweep w.id = none
    have hend : (reconciledEnd w s).findSweep w.id = none := endSweep_gone ..
    rw [hreconcile]
    split
    · exact (QueueShrinks.faultLeg w.leg w.id (reconciledEnd w s)).gone hend
    · exact hend
  have hmap : t.map = s.map.set g { s.map.get g with elements := ms.map judged } := by
    rw [hms, hjudged]
    exact (reconcile_map hw).trans (reconciledElements_map w s)
  have htstray : t.stray = (reconciledLevel w s).stray := by
    show (reconcile w.id s).stray = _
    rw [hreconcile, ← hestray]
    split <;> simp
  have hslots : t.slot w.slot = (reconciledEnd w s).slot w.slot := by
    show (reconcile w.id s).slot w.slot = _
    by_cases hfault : faultsNow (reconciledLevel w s) w.leg = true
    · exact (reconcile_faults hq hw hslot hpeaks hfault).2.1
    · rw [hreconcile, if_neg hfault]
  refine ⟨hgone, hslots.trans hcontent, hmap, htstray ▸ hstray, (reconcile_frame ..).2.2.2.1, (reconcile_frame ..).2.2.2.2.1,
    (reconcile_frame ..).2.2.2.2.2, table_map_of_grants (reconcile_grants w.id s) fun _ => rfl, fun hnot => ?_, fun hfail => ?_⟩
  · have hend : t = reconciledEnd w s := hreconcile.trans (if_neg (mt hfails.mp hnot))
    rw [hend, hjudgedLeg, hchanges, hfed, hdone]
    exact ⟨hlegs, reconciledEnd_msg hw hslot hpeaks⟩
  · obtain ⟨hended, -, hflegs, hleaves, hmsg⟩ := reconcile_faults hq hw hslot hpeaks (hfails.mpr hfail)
    refine ⟨?_, hleaves, hended, startedIn (reconciledEnd w s), fun hflies v hv => ?_, ?_⟩
    · show (reconcile w.id s).legs = _
      rw [hflegs, ← hjudgedLeg]
    · obtain ⟨hqueue, hother⟩ := List.mem_filter.mp hv
      rw [startedIn, reconciledEnd_findSweep hw hslot hpeaks hflies (of_decide_eq_true hother).2.2, hq.finds hqueue]
      rfl
    · show (reconcile w.id s).msg = _
      rw [hmsg, hchanges, hfed, hdone, hlevel, hfaults]
      rfl

end Sys2Proof.Machine
end
